-- ==== Sys2Proof/Word.lean ====
section
/-! DEFINITION. The word types of the machine: a 32-bit register word, a 64-bit system register and
a byte (R3, R26, R59). -/

namespace Sys2Proof

/-- A register, memory or instruction word (R59, R245). -/
abbrev Word := BitVec 32

/-- A system register or a global address (R26, R137). -/
abbrev DWord := BitVec 64

/-- A byte of memory. -/
abbrev Byte := BitVec 8

end Sys2Proof
end

