-- ==== Sys2Proof/Syntax.lean ====
section
/-! DEFINITION. The abstract syntax: one constructor of `Instr` per row of the table of operations
and events (spec/opcode_table.json). The first 203 are the encoded Mythes instructions (R68, R69);
the rest are the steps of the other agents of the part (95_what_each_step_holds.md), which have no
encoding and reach the machine through its agenda. -/

namespace Sys2Proof

/-- Operand selector byte (R64, R65). -/
abbrev Sel := BitVec 8

/-- Version tag: generation in [15:8], number in [7:0] (R226). -/
abbrev Tag16 := BitVec 16

/-- Format tags (R17), in code order. -/
inductive Tag where
  | raw | int | nat | flt | half2 | bflt2 | e4m3q | e5m2q
  | e2m1o | int4o | trit | int8q | scale | pred | stat | void
  deriving DecidableEq, Repr

/-- Atomic operations (R70). -/
inductive AOp where
  | add | min | max | and | or | xor | xchg
  deriving DecidableEq, Repr

/-- Scopes (R70, R249). -/
inductive Scope where
  | grp | team | grid | dev | sys
  deriving DecidableEq, Repr

/-- Rounding modes (R48). -/
inductive RMode where
  | rne | rtz | rup | rdn | rna
  deriving DecidableEq, Repr

/-- Name of a group: a kernel group by context, grid handle, `tmid` and `gid`, or the queue thread
of a slot, which is a group of one thread (R308). -/
inductive GKey where
  | kernel (ctx grid tmid gid : Nat)
  | queue (slot : Nat)
  deriving DecidableEq, Repr

/-- Name of a team: context, grid handle, `tmid`. -/
structure TKey where
  ctx : Nat
  grid : Nat
  tmid : Nat
  deriving DecidableEq, Repr

/-- A feature that training offers or agrees: its code and version (R373). -/
abbrev Feature := Nat × Nat

/-- The structure in which an error is found (R355, R358). REPORTED_ERROR gives with it a unit, an entry and an
address, of which each structure uses those named here. -/
inductive ErrorSite where
  /-- an error of kind reported reaches a thread, by its number, with the SUB as the entry and the address: a host
  port that is down, or tile words lost with a die -/
  | thread (k : GKey)
  /-- corrected, in any structure -/
  | corrected
  /-- a register, or its tag, of a thread, by its number, with the selector as the entry -/
  | register (k : GKey)
  /-- an entry of 8 bytes of a team's shared memory -/
  | shared (t : TKey)
  /-- an accumulator element of a core's array -/
  | accumulator
  /-- a column of a plane of a core's array -/
  | planeColumn (shadow : Bool)
  /-- a word of the score program of a core's array: an operation, or a constant from 16 on -/
  | score
  /-- the block of a core's instruction cache that holds an address -/
  | instrCache
  /-- the 32-byte sector of a core's L1 that holds an address -/
  | l1
  /-- the sector of a home slice's L2 that holds an address -/
  | l2
  /-- the sector of a version's line copy, in L2 or the spill pool, that holds an address; the unit is the context -/
  | copy (v : Tag16)
  /-- the entry of a die's Polder for the block at an address -/
  | polder
  /-- the directory entry of the line at an address -/
  | directory
  /-- the entry of a die's filter for the line at an address -/
  | filter
  /-- a word of the SRAM vaults -/
  | vault
  /-- the 64-byte burst of HBM4E that holds an address -/
  | memory
  /-- the entry of a unit's TLB for an address; the entry number is the context -/
  | tlb
  /-- the entries of a unit's walk cache for an address; the entry number is the context -/
  | walk
  deriving DecidableEq, Repr

/-- A link on which the protocol is broken, and the compressed block that broke it (R58), if one did (R351). -/
structure LinkError where
  link : Nat
  block : Option (List Byte) := none
  deriving DecidableEq, Repr

/-- A peer that sends a message, and the incarnation it sends it in (R352). -/
structure Sender where
  agent : Nat
  inc : BitVec 8
  deriving DecidableEq, Repr

/-- A 64-byte half of a host line in a message of its host port, with the port's incarnation (R344, R352). -/
structure HostHalf where
  half : Nat
  inc : BitVec 8
  deriving DecidableEq, Repr

/-- A host agent's access to a word of device memory: the host port it has come over, with that port's incarnation
(R347, R352). -/
structure HostAccess where
  port : Nat
  inc : BitVec 8
  pa : Nat
  deriving DecidableEq, Repr

/-- A peer's report that it has dropped a store of a context's version (R302). -/
structure DropReport where
  peer : Sender
  ctx : Nat
  deriving DecidableEq, Repr

/-- An entry of the MSI-X table, as PCI Express has it: message address, message data, mask (R376). -/
structure MsixEntry where
  addr : DWord
  data : Word
  masked : Bool
  deriving DecidableEq, Repr

/-- The entry of a vector after reset. -/
def MsixEntry.reset : MsixEntry := ⟨0, 0, true⟩

/-- A write of a vector's entry by the host: one that leaves it unmasked unmasks the vector. -/
structure MsixWrite where
  vec : Nat
  entry : MsixEntry
  deriving DecidableEq, Repr

/-- The instructions and events. Register fields are selector bytes; `imm`, `off`, `st`, `t`, `pol`
are the fields of the word under their names in R60 to R63. -/
inductive Instr where
  /-- ADD (R89). -/
  | add (d a b : Sel)
  /-- SUB (R89). -/
  | sub (d a b : Sel)
  /-- MUL (R89). -/
  | mul (d a b : Sel)
  /-- FMA (R90). -/
  | fma (d a b : Sel)
  /-- MIN (R91). -/
  | min (d a b : Sel)
  /-- MAX (R91). -/
  | max (d a b : Sel)
  /-- ABS (R94). -/
  | abs (d a : Sel)
  /-- NEG (R94). -/
  | neg (d a : Sel)
  /-- SADD (R93). -/
  | sadd (d a b : Sel)
  /-- SSUB (R93). -/
  | ssub (d a b : Sel)
  /-- CPSGN (R94). -/
  | cpsgn (d a b : Sel)
  /-- ADDI (R92). -/
  | addi (d a : Sel) (imm : BitVec 8)
  /-- MULI (R92). -/
  | muli (d a : Sel) (imm : BitVec 8)
  /-- MINI (R92). -/
  | mini (d a : Sel) (imm : BitVec 8)
  /-- MAXI (R92). -/
  | maxi (d a : Sel) (imm : BitVec 8)
  /-- MULHI (R95). -/
  | mulhi (d a b : Sel)
  /-- MULHN (R95). -/
  | mulhn (d a b : Sel)
  /-- DIV (R96). -/
  | div (d a b : Sel)
  /-- REM (R96). -/
  | rem (d a b : Sel)
  /-- DIVN (R96). -/
  | divn (d a b : Sel)
  /-- REMN (R96). -/
  | remn (d a b : Sel)
  /-- SHL (R97). -/
  | shl (d a b : Sel)
  /-- SHR (R97). -/
  | shr (d a b : Sel)
  /-- SRA (R97). -/
  | sra (d a b : Sel)
  /-- ROL (R97). -/
  | rol (d a b : Sel)
  /-- SHLI (R97). -/
  | shli (d a : Sel) (imm : BitVec 8)
  /-- SHRI (R97). -/
  | shri (d a : Sel) (imm : BitVec 8)
  /-- SRAI (R97). -/
  | srai (d a : Sel) (imm : BitVec 8)
  /-- CLZ (R95). -/
  | clz (d a : Sel)
  /-- POPC (R95). -/
  | popc (d a : Sel)
  /-- BREV (R95). -/
  | brev (d a : Sel)
  /-- AND (R98). -/
  | and (d a b : Sel)
  /-- OR (R98). -/
  | or (d a b : Sel)
  /-- XOR (R98). -/
  | xor (d a b : Sel)
  /-- ANDN (R98). -/
  | andn (d a b : Sel)
  /-- ORN (R98). -/
  | orn (d a b : Sel)
  /-- NOT (R98). -/
  | not (d a : Sel)
  /-- ANDI (R98). -/
  | andi (d a : Sel) (imm : BitVec 8)
  /-- ORI (R98). -/
  | ori (d a : Sel) (imm : BitVec 8)
  /-- XORI (R98). -/
  | xori (d a : Sel) (imm : BitVec 8)
  /-- SEL (R99). -/
  | sel (d a b : Sel)
  /-- BFX (R99). -/
  | bfx (d a b : Sel)
  /-- BFI (R99). -/
  | bfi (d a b : Sel)
  /-- PRMB (R100). -/
  | prmb (d a b : Sel)
  /-- LUI (R98). -/
  | lui (d : Sel) (imm : BitVec 16)
  /-- LLI (R98). -/
  | lli (d : Sel) (imm : BitVec 16)
  /-- MOV (R98). -/
  | mov (d a : Sel)
  /-- DIVF (R102). -/
  | divf (d a b : Sel)
  /-- RCP (R103). -/
  | rcp (d a : Sel)
  /-- RSQ (R103). -/
  | rsq (d a : Sel)
  /-- SQRT (R102). -/
  | sqrt (d a : Sel)
  /-- EXP2 (R103). -/
  | exp2 (d a : Sel)
  /-- LOG2 (R103). -/
  | log2 (d a : Sel)
  /-- SIN (R103). -/
  | sin (d a : Sel)
  /-- COS (R103). -/
  | cos (d a : Sel)
  /-- TANH (R103). -/
  | tanh (d a : Sel)
  /-- RINT (R102). -/
  | rint (d a : Sel)
  /-- SCALB (R105). -/
  | scalb (d a b : Sel)
  /-- FCLS (R106). -/
  | fcls (d a : Sel)
  /-- CEQ (R107). -/
  | ceq (d a b : Sel)
  /-- CNE (R107). -/
  | cne (d a b : Sel)
  /-- CLT (R107). -/
  | clt (d a b : Sel)
  /-- CLE (R107). -/
  | cle (d a b : Sel)
  /-- CUNO (R107). -/
  | cuno (d a b : Sel)
  /-- CTAG (R109). -/
  | ctag (d a : Sel) (imm : BitVec 8)
  /-- CEQI (R107). -/
  | ceqi (d a : Sel) (imm : BitVec 8)
  /-- CNEI (R107). -/
  | cnei (d a : Sel) (imm : BitVec 8)
  /-- CLTI (R107). -/
  | clti (d a : Sel) (imm : BitVec 8)
  /-- CLEI (R107). -/
  | clei (d a : Sel) (imm : BitVec 8)
  /-- CGTI (R107). -/
  | cgti (d a : Sel) (imm : BitVec 8)
  /-- CGEI (R107). -/
  | cgei (d a : Sel) (imm : BitVec 8)
  /-- CVT (R111). -/
  | cvt (d a : Sel) (imm : BitVec 8)
  /-- TAGR (R113). -/
  | tagr (d a : Sel) (imm : BitVec 8)
  /-- TAGQ (R113). -/
  | tagq (d a : Sel)
  /-- PACK (R114). -/
  | pack (d a b : Sel)
  /-- UNPKL (R115). -/
  | unpkl (d a : Sel) (imm : BitVec 8)
  /-- UNPKH (R115). -/
  | unpkh (d a : Sel) (imm : BitVec 8)
  /-- SCLC (R116). -/
  | sclc (d a b : Sel)
  /-- QNT (R117). -/
  | qnt (d a b : Sel)
  /-- DQNT (R118). -/
  | dqnt (d a b : Sel)
  /-- HADM (R119). -/
  | hadm (d a : Sel) (imm : BitVec 8)
  /-- TRPK (R120). -/
  | trpk (d a b : Sel)
  /-- TREX (R121). -/
  | trex (d a : Sel) (imm : BitVec 8)
  /-- LUTX (R122). -/
  | lutx (d a b : Sel)
  /-- SHFL (R124). -/
  | shfl (d a b : Sel)
  /-- SHFLX (R125). -/
  | shflx (d a : Sel) (imm : BitVec 8)
  /-- SHFLU (R125). -/
  | shflu (d a : Sel) (imm : BitVec 8)
  /-- SHFLD (R125). -/
  | shfld (d a : Sel) (imm : BitVec 8)
  /-- BCST (R125). -/
  | bcst (d a : Sel) (imm : BitVec 8)
  /-- VALL (R124). -/
  | vall (d a : Sel)
  /-- VANY (R124). -/
  | vany (d a : Sel)
  /-- BALLOT (R127). -/
  | ballot (d a : Sel)
  /-- RDADD (R126). -/
  | rdadd (d a : Sel)
  /-- RDMAX (R124). -/
  | rdmax (d a : Sel)
  /-- RDMIN (R124). -/
  | rdmin (d a : Sel)
  /-- SCAN (R126). -/
  | scan (d a : Sel)
  /-- CMPCT (R127). -/
  | cmpct (d a b : Sel)
  /-- RANK (R127). -/
  | rank (d a : Sel)
  /-- MATCH (R127). -/
  | matchAny (d a : Sel)
  /-- BR (R128). -/
  | br (off : BitVec 16)
  /-- BNZ (R129). -/
  | bnz (a : Sel) (off : BitVec 16)
  /-- BZ (R129). -/
  | bz (a : Sel) (off : BitVec 16)
  /-- BRX (R129). -/
  | brx (a : Sel)
  /-- CALL (R129). -/
  | call (a : Sel) (off : BitVec 16)
  /-- CALLX (R129). -/
  | callx (d a : Sel)
  /-- RET (R129). -/
  | ret (a : Sel)
  /-- EXIT (R131). -/
  | exit
  /-- YIELD (R132). -/
  | yield
  /-- NOP (R128). -/
  | nop
  /-- IDEM (R133). -/
  | idem (imm : BitVec 16)
  /-- PAUSE (R132). -/
  | pause
  /-- LDS (R140). -/
  | lds (d a : Sel) (st t : BitVec 4)
  /-- LDS2 (R140). -/
  | lds2 (d a : Sel) (st t : BitVec 4)
  /-- LDS4 (R140). -/
  | lds4 (d a : Sel) (st t : BitVec 4)
  /-- LDSE (R144). -/
  | ldse (d a : Sel) (st t : BitVec 4)
  /-- LDSC (R144). -/
  | ldsc (d a : Sel) (st t : BitVec 4)
  /-- LDT (R140). -/
  | ldt (d a : Sel) (st t : BitVec 4)
  /-- LDT2 (R140). -/
  | ldt2 (d a : Sel) (st t : BitVec 4)
  /-- LDT4 (R140). -/
  | ldt4 (d a : Sel) (st t : BitVec 4)
  /-- LDG (R140). -/
  | ldg (d a : Sel) (st t : BitVec 4)
  /-- LDG2 (R140). -/
  | ldg2 (d a : Sel) (st t : BitVec 4)
  /-- LDG4 (R140). -/
  | ldg4 (d a : Sel) (st t : BitVec 4)
  /-- LDGA (R140). -/
  | ldga (d a : Sel) (st t : BitVec 4)
  /-- LDP (R140). -/
  | ldp (d a : Sel) (st t : BitVec 4)
  /-- LDTA (R140). -/
  | ldta (d a : Sel) (st t : BitVec 4)
  /-- STS (R141). -/
  | sts (d a : Sel) (st : BitVec 4) (pol : BitVec 2)
  /-- STS2 (R141). -/
  | sts2 (d a : Sel) (st : BitVec 4) (pol : BitVec 2)
  /-- STS4 (R141). -/
  | sts4 (d a : Sel) (st : BitVec 4) (pol : BitVec 2)
  /-- STSF (R144). -/
  | stsf (d a : Sel) (st : BitVec 4) (pol : BitVec 2)
  /-- STT (R141). -/
  | stt (d a : Sel) (st : BitVec 4) (pol : BitVec 2)
  /-- STT2 (R141). -/
  | stt2 (d a : Sel) (st : BitVec 4) (pol : BitVec 2)
  /-- STT4 (R141). -/
  | stt4 (d a : Sel) (st : BitVec 4) (pol : BitVec 2)
  /-- STG (R141). -/
  | stg (d a : Sel) (st : BitVec 4) (pol : BitVec 2)
  /-- STG2 (R141). -/
  | stg2 (d a : Sel) (st : BitVec 4) (pol : BitVec 2)
  /-- STG4 (R141). -/
  | stg4 (d a : Sel) (st : BitVec 4) (pol : BitVec 2)
  /-- STGR (R141). -/
  | stgr (d a : Sel) (st : BitVec 4) (pol : BitVec 2)
  /-- STTR (R141). -/
  | sttr (d a : Sel) (st : BitVec 4) (pol : BitVec 2)
  /-- ATG (R145). -/
  | atg (d a : Sel) (st : BitVec 4) (op : AOp)
  /-- ATGR (R145). -/
  | atgr (d a : Sel) (st : BitVec 4) (op : AOp)
  /-- CASG (R148). -/
  | casg (d a : Sel) (st : BitVec 4)
  /-- ATS (R145). -/
  | ats (d a : Sel) (st : BitVec 4) (op : AOp)
  /-- ATSR (R145). -/
  | atsr (d a : Sel) (st : BitVec 4) (op : AOp)
  /-- CASS (R148). -/
  | cass (d a : Sel) (st : BitVec 4)
  /-- LLOCK (R153). -/
  | llock (d a : Sel) (st : BitVec 4)
  /-- LTRY (R153). -/
  | ltry (d a : Sel) (st : BitVec 4)
  /-- LUNLK (R154). -/
  | lunlk (d a : Sel) (st : BitVec 4)
  /-- LSTAT (R153). -/
  | lstat (d a : Sel) (st : BitVec 4)
  /-- FENCE (R160). -/
  | fence (sc : Scope)
  /-- FNCX (R161). -/
  | fncx (sc : Scope) (mask : BitVec 16)
  /-- BARV (R163). -/
  | barv (d : Sel) (imm : BitVec 8)
  /-- BARV_REG (R163). -/
  | barvReg (d a : Sel)
  /-- BARW (R162). -/
  | barw (d : Sel) (imm : BitVec 8)
  /-- BARW_REG (R162). -/
  | barwReg (d a : Sel)
  /-- BARS (R162). -/
  | bars (d : Sel) (imm : BitVec 8)
  /-- BARS_REG (R162). -/
  | barsReg (d a : Sel)
  /-- BARQ (R162). -/
  | barq (d : Sel) (imm : BitVec 8)
  /-- BARQ_REG (R162). -/
  | barqReg (d a : Sel)
  /-- CPY (R169). -/
  | cpy (d a b : Sel)
  /-- BCPY (R172). -/
  | bcpy (d a b : Sel)
  /-- TCPY (R173). -/
  | tcpy (d a b : Sel)
  /-- KVAPP (R174). -/
  | kvapp (d a b : Sel)
  /-- PFG (R177). -/
  | pfg (a : Sel) (st : BitVec 4) (pol : BitVec 2)
  /-- SINV (R178). -/
  | sinv (a b : Sel)
  /-- SFLSH (R178). -/
  | sflsh (a b : Sel)
  /-- SELT (R176). -/
  | selt (d a b : Sel)
  /-- DLD (R195). -/
  | dld (d a b : Sel)
  /-- DLDL (R195). -/
  | dldl (d a b : Sel)
  /-- DSWAP (R197). -/
  | dswap
  /-- DSTR (R201). -/
  | dstr (d a b : Sel)
  /-- DSTRN (R201). -/
  | dstrn (d a b : Sel)
  /-- DZRO (R203). -/
  | dzro (imm : BitVec 16)
  /-- DDRN (R207). -/
  | ddrn (d a b : Sel)
  /-- DDRQ (R208). -/
  | ddrq (d a b : Sel)
  /-- DGANG (R185). -/
  | dgang (d a : Sel)
  /-- DWAIT (R216). -/
  | dwait (d : Sel)
  /-- DPASS (R198). -/
  | dpass (d a : Sel)
  /-- SPGM (R210). -/
  | spgm (d a : Sel)
  /-- DSCR (R214). -/
  | dscr (d a b : Sel)
  /-- SMRG (R215). -/
  | smrg (d a b : Sel)
  /-- LNCH (R223). -/
  | lnch (d a : Sel)
  /-- LNCHS (R223). -/
  | lnchs (d a b : Sel)
  /-- RSLV (R229). -/
  | rslv (d a b : Sel)
  /-- VSQ (R230). -/
  | vsq (d a : Sel)
  /-- VQRY (R231). -/
  | vqry (d a : Sel)
  /-- WAITG (R228). -/
  | waitg (d a : Sel)
  /-- LOC (R232). -/
  | loc (d : Sel)
  /-- HOSTI (R233). -/
  | hosti (d a : Sel)
  /-- SRD (R234). -/
  | srd (d : Sel) (imm : BitVec 16)
  /-- SWR (R234). -/
  | swr (d : Sel) (imm : BitVec 16)
  /-- TRAP (R237). -/
  | trap (imm : BitVec 16)
  /-- ERET (R238). -/
  | eret
  /-- TLWR (R239). -/
  | tlwr (d a b : Sel)
  /-- KVFRK (R240). -/
  | kvfrk (d a b : Sel)
  /-- MIGR (R241). -/
  | migr (d a b : Sel)
  /-- PTINV (R242). -/
  | ptinv (a b : Sel)
  /-- DIEOP (R243). -/
  | dieop (d a : Sel)
  /-- HIMM (R61). -/
  | himm (p : BitVec 24)
  /-- HSRC (R420). -/
  | hsrc (src : Sel)
  /-- HRND (R72). -/
  | hrnd (m : RMode)
  /-- HORD (R73). -/
  | hord (f : Bool) (u : BitVec 2) (sc : Scope)
  /-- HPOL (R72). -/
  | hpol (pol : BitVec 2)
  /-- HSCH (R324). -/
  | hsch (c : BitVec 2)
  /-- HOFF (R73). -/
  | hoff (off : BitVec 24)
  /-- ISSUE_SELECT (R135). -/
  | issueSelect (core quad : Nat)
  /-- GROUP_SWAP (R323). -/
  | groupSwap (core quad : Nat)
  /-- QUEUE_THREAD_ISSUE (R309). -/
  | queueThreadIssue (qcore : Nat)
  /-- ARRAY_OP_START (R186). -/
  | arrayOpStart (core pipe : Nat)
  /-- ARRAY_OP_COMPLETE (R188). -/
  | arrayOpComplete (core pipe : Nat)
  /-- ENGINE_COMMAND_COMPLETE (R166). -/
  | engineCommandComplete (id : Nat)
  /-- LOAD_COMPLETE (R140). -/
  | loadComplete (id : Nat)
  /-- STORE_PERFORMED (R250). -/
  | storePerformed (id : Nat)
  /-- PAUSE_END (R132). -/
  | pauseEnd (k : GKey) (tid : Nat)
  /-- TRANSLATION_WALK (R283). -/
  | translationWalk (tlb ctx : Nat) (va : BitVec 64)
  /-- LOCK_TIMEOUT (R155). -/
  | lockTimeout (line : Nat) (k : GKey)
  /-- DEADLOCK_BROKEN (R157). -/
  | deadlockBroken (k : GKey)
  /-- DISPATCH_STEP (R317). -/
  | dispatchStep (choice : Nat)
  /-- STAGING_COMPLETE (R291). -/
  | stagingComplete (t : TKey)
  /-- PREEMPT_STARVATION (R319). -/
  | preemptStarvation (queue : Nat)
  /-- DEFERRAL_LIMIT (R328). -/
  | deferralLimit (t : TKey)
  /-- TRAP_SAVE_TIMEOUT (R331). -/
  | trapSaveTimeout (t : TKey)
  /-- TEAM_SAVE (R30). -/
  | teamSave (t : TKey)
  /-- TEAM_MIGRATE (R320). -/
  | teamMigrate (t : TKey) (die : Nat)
  /-- GRID_COMPLETE (R222). -/
  | gridComplete (ctx grid : Nat)
  /-- SPILLWAY_RECLAIM (R302). -/
  | spillwayReclaim (base : Nat)
  /-- MIGRATION_LINE_MOVE (R286). -/
  | migrationLineMove (ctx : Nat) (va : Nat)
  /-- RDS (R342). -/
  | rds (die line : Nat)
  /-- RDX (R342). -/
  | rdx (die line : Nat)
  /-- UPG (R342). -/
  | upg (die line : Nat)
  /-- WB (R342). -/
  | wb (die line : Nat)
  /-- EVC (R342). -/
  | evc (die line : Nat)
  /-- FWD_S (R342). -/
  | fwdS (die line : Nat)
  /-- FWD_X (R342). -/
  | fwdX (die line : Nat)
  /-- INV (R342). -/
  | inv (die line : Nat)
  /-- DATA (R342). -/
  | data (die line : Nat)
  /-- INVACK (R342). -/
  | invack (die line : Nat)
  /-- FACK (R342). -/
  | fack (line : Nat)
  /-- DONE (R342). -/
  | done (die line : Nat)
  /-- BINV (R343). -/
  | binv (die line : Nat)
  /-- SNOOP_DATA (R344). -/
  | snoopData (half : HostHalf)
  /-- SNOOP_INVALIDATE (R344). -/
  | snoopInvalidate (half : HostHalf)
  /-- SNOOP_CURRENT (R344). -/
  | snoopCurrent (half : HostHalf)
  /-- HOST_HALF_GRANT (R344). -/
  | hostHalfGrant (half : HostHalf) (excl : Bool) (data : List Word)
  /-- HOST_AGENT_ACCESS (R347). -/
  | hostAgentAccess (a : HostAccess) (store : Option Word)
  /-- REMOTE_LOAD (R299). -/
  | remoteLoad (src : Sender) (ctx : Nat) (path : List Tag16) (addr : Nat)
  /-- REMOTE_STORE (R299). -/
  | remoteStore (src : Sender) (ctx : Nat) (path : List Tag16) (addr : Nat) (x : Word)
  /-- REMOTE_ATOMIC (R348). -/
  | remoteAtomic (src : Sender) (ctx : Nat) (path : List Tag16) (addr : Nat) (op : AOp) (tag : Tag) (x : Word)
  /-- OPEN_NOTICE (R299). -/
  | openNotice (src : Sender) (ctx : Nat) (v : Tag16)
  /-- OPEN_NOTICE_ACK (R299). -/
  | openNoticeAck (peer : Sender) (ctx : Nat) (v : Tag16)
  /-- COMMIT_NOTICE (R300). -/
  | commitNotice (src : Sender) (ctx : Nat) (v : Tag16)
  /-- COMMIT_NOTICE_ACK (R300). -/
  | commitNoticeAck (peer : Sender) (ctx : Nat) (v : Tag16)
  /-- SQUASH_NOTICE (R302). -/
  | squashNotice (src : Sender) (ctx : Nat) (v : Tag16)
  /-- DROP_REPORT (R302). -/
  | dropReport (r : DropReport)
  /-- PEER_REFUSE (R349). -/
  | peerRefuse (id : Nat)
  /-- PEER_TIMEOUT (R349). -/
  | peerTimeout (peer : Nat)
  /-- LINK_DOWN (R346). -/
  | linkDown (port : Nat)
  /-- LINK_TRAIN (R373). -/
  | linkTrain (port : Nat) (lanes : BitVec 6) (rate : BitVec 8) (offer : List Feature) (peers : List Nat)
  /-- LINK_PROTOCOL_ERROR (R351). -/
  | linkProtocolError (e : LinkError)
  /-- DIE_OFFLINE_DONE (R364). -/
  | dieOfflineDone (die : Nat)
  /-- DIE_ONLINE_DONE (R368). -/
  | dieOnlineDone (die : Nat) (ok : Bool)
  /-- DIE_FAILURE (R367). -/
  | dieFailure (die : Nat)
  /-- REPORTED_ERROR (R355, R358). -/
  | reportedError (e : ErrorSite) (unit entry : Nat) (addr : BitVec 64)
  /-- HEATMAP_REFRESH (R29). -/
  | heatmapRefresh (die : Nat) (zones : BitVec 64)
  /-- THERMAL_THROTTLE (R379). -/
  | thermalThrottle
  /-- CRITICAL_TEMPERATURE (R379). -/
  | criticalTemperature
  /-- BOOT (R371). -/
  | boot (ok : Bool) (arg : BitVec 64) (host number : Nat)
  /-- MAILBOX_RECOVERY (R371). -/
  | mailboxRecovery (image : Nat)
  /-- MAILBOX_IDENTITY (R372). -/
  | mailboxIdentity
  /-- MAILBOX_ATTESTATION (R372). -/
  | mailboxAttestation (nonce : BitVec 256)
  /-- MAILBOX_DOMAIN_MAP (R378). -/
  | mailboxDomainMap
  /-- CTX_CREATE (R376). -/
  | ctxCreate (block : Nat)
  /-- CTX_TEARDOWN (R336). -/
  | ctxTeardown (block : Nat)
  /-- CTX_TEARDOWN_DONE (R336). -/
  | ctxTeardownDone (ctx : Nat)
  /-- CTX_SWITCH_OUT (R333). -/
  | ctxSwitchOut (block : Nat)
  /-- CTX_SWITCH_OUT_DONE (R333). -/
  | ctxSwitchOutDone (ctx : Nat)
  /-- CTX_SWITCH_IN (R333). -/
  | ctxSwitchIn (block : Nat)
  /-- QT_START (R377). -/
  | qtStart (slot : Nat) (x : BitVec 64)
  /-- QT_STOP (R377). -/
  | qtStop (slot : Nat)
  /-- QTCTL_SET_FIELDS (R377). -/
  | qtctlSetFields (slot : Nat) (x : BitVec 64)
  /-- ERRCNT_CLEAR (R375). -/
  | errcntClear
  /-- HOST_REGISTER_WRITE (R374). -/
  | hostRegisterWrite (offset bytes : Nat) (x : BitVec 64)
  /-- EVENT_POST (R378). -/
  | eventPost
  /-- MSIX_VECTOR_UNMASK (R233, R376). -/
  | msixVectorUnmask (w : MsixWrite)
  deriving DecidableEq, Repr

end Sys2Proof
end

