-- ==== Sys2Proof/Decode.lean ====
section
/-! DEFINITION. The decoder, total on every word and on every list of bytes, and the encoder, both
written from the formats, the opcode map and the templates of 03_encoding_and_assembly.md (R59 to
R72). Decoding answers an instruction or names why there is none: the opcode is unassigned (R71
check 1), or a field that must be zero is not, or a field holds a code marked ILLEGAL (check 3). The
checks that need the thread (2, 4 to 8) are made when the instruction runs (Operands.lean). -/

namespace Sys2Proof

/-- Why a word is no instruction (R71). `badField` carries the opcode, so that check 2 can be made
before check 3. -/
inductive DecodeError where
  | unassigned
  | badField (op : BitVec 8)
  deriving DecidableEq, Repr

/-! Fields of a word (R60). -/

/-- Opcode, bits [31:24]. -/
def wOp (w : Word) : BitVec 8 := w.extractLsb' 24 8
/-- Bits [23:16]: the d field, or the a field of a BR-format word. -/
def wD (w : Word) : BitVec 8 := w.extractLsb' 16 8
/-- Bits [15:8]: the a field. -/
def wA (w : Word) : BitVec 8 := w.extractLsb' 8 8
/-- Bits [7:0]: the b field, imm8 or f. -/
def wB (w : Word) : BitVec 8 := w.extractLsb' 0 8
/-- Bits [15:0]: imm16 or off16. -/
def wImm16 (w : Word) : BitVec 16 := w.extractLsb' 0 16
/-- Bits [23:0]: the payload of a hint. -/
def wPay (w : Word) : BitVec 24 := w.extractLsb' 0 24

/-- A word of format RR, RI or M from its four bytes (R60). -/
def mkRR (op d a b : BitVec 8) : Word := op ++ d ++ a ++ b
/-- A word of format IW or BR: opcode, register byte, 16-bit field (R60). -/
def mkIW (op d : BitVec 8) (imm : BitVec 16) : Word := op ++ d ++ imm
/-- A word of format H (R60). -/
def mkH (op : BitVec 8) (p : BitVec 24) : Word := op ++ p

/-! Codes of R70. -/

/-- Atomic operation of f[3:0]; codes 7 to 15 are ILLEGAL. -/
def aopOf (c : BitVec 4) : Option AOp :=
  match c.toNat with
  | 0 => some .add | 1 => some .min | 2 => some .max | 3 => some .and
  | 4 => some .or | 5 => some .xor | 6 => some .xchg | _ => none

/-- Code of an atomic operation. -/
def aopCode : AOp → BitVec 4
  | .add => 0 | .min => 1 | .max => 2 | .and => 3 | .or => 4 | .xor => 5 | .xchg => 6

/-- Scope of a 3-bit code; 5 to 7 are ILLEGAL. -/
def scopeOf (c : BitVec 3) : Option Scope :=
  match c.toNat with
  | 0 => some .grp | 1 => some .team | 2 => some .grid | 3 => some .dev | 4 => some .sys | _ => none

/-- Code of a scope. -/
def scopeCode : Scope → BitVec 3
  | .grp => 0 | .team => 1 | .grid => 2 | .dev => 3 | .sys => 4

/-- Rounding mode of RNDM.MODE and HRND; 5 to 7 are ILLEGAL or reserved (R29, R72). -/
def rmodeOf (c : BitVec 3) : Option RMode :=
  match c.toNat with
  | 0 => some .rne | 1 => some .rtz | 2 => some .rup | 3 => some .rdn | 4 => some .rna | _ => none

/-- Code of a rounding mode. -/
def rmodeCode : RMode → BitVec 3
  | .rne => 0 | .rtz => 1 | .rup => 2 | .rdn => 3 | .rna => 4

/-- A barrier immediate that R70 allows: level GRP or TEAM with a number 0 to 15, or GRID with 0 to
3. -/
def barImmOk (imm : BitVec 8) : Bool :=
  let level := (imm.extractLsb' 6 2).toNat
  let num := (imm.extractLsb' 0 6).toNat
  (level == 0 && num < 16) || (level == 1 && num < 16) || (level == 2 && num < 4)

/-! The shapes of the templates (R69): each takes the word to its instruction or to the failure of
check 3. -/

/-- The fields that must be zero are zero, or check 3 fails. -/
def need (w : Word) (ok : Bool) (i : Instr) : Except DecodeError Instr :=
  if ok then .ok i else .error (.badField (wOp w))

/-- As `need`, for a coded field that may hold no legal code. -/
def needSome {α : Type} (w : Word) (ok : Bool) (c : Option α) (k : α → Instr) : Except DecodeError Instr :=
  match c with
  | some x => need w ok (k x)
  | none => .error (.badField (wOp w))

/-- Template T8: the register form when the immediate is 0xC0, else the immediate form. -/
def decodeBar (w : Word) (kImm : Sel → BitVec 8 → Instr) (kReg : Sel → Sel → Instr) : Except DecodeError Instr :=
  if wB w = 0xC0 then .ok (kReg (wD w) (wA w))
  else need w (wA w == 0 && barImmOk (wB w)) (kImm (wD w) (wB w))


/-- Class 0x0 of the opcode map (R68); `n` is the low nibble of the opcode. -/
def decodeClass0 (n : BitVec 4) (w : Word) : Except DecodeError Instr :=
  match n.toNat with
  | 1 => .ok (.add (wD w) (wA w) (wB w))
  | 2 => .ok (.sub (wD w) (wA w) (wB w))
  | 3 => .ok (.mul (wD w) (wA w) (wB w))
  | 4 => .ok (.fma (wD w) (wA w) (wB w))
  | 5 => .ok (.min (wD w) (wA w) (wB w))
  | 6 => .ok (.max (wD w) (wA w) (wB w))
  | 7 => need w (wB w == 0) (.abs (wD w) (wA w))
  | 8 => need w (wB w == 0) (.neg (wD w) (wA w))
  | 9 => .ok (.sadd (wD w) (wA w) (wB w))
  | 10 => .ok (.ssub (wD w) (wA w) (wB w))
  | 11 => .ok (.cpsgn (wD w) (wA w) (wB w))
  | 12 => .ok (.addi (wD w) (wA w) (wB w))
  | 13 => .ok (.muli (wD w) (wA w) (wB w))
  | 14 => .ok (.mini (wD w) (wA w) (wB w))
  | 15 => .ok (.maxi (wD w) (wA w) (wB w))
  | _ => .error .unassigned

/-- Class 0x1 of the opcode map (R68); `n` is the low nibble of the opcode. -/
def decodeClass1 (n : BitVec 4) (w : Word) : Except DecodeError Instr :=
  match n.toNat with
  | 0 => .ok (.mulhi (wD w) (wA w) (wB w))
  | 1 => .ok (.mulhn (wD w) (wA w) (wB w))
  | 2 => .ok (.div (wD w) (wA w) (wB w))
  | 3 => .ok (.rem (wD w) (wA w) (wB w))
  | 4 => .ok (.divn (wD w) (wA w) (wB w))
  | 5 => .ok (.remn (wD w) (wA w) (wB w))
  | 6 => .ok (.shl (wD w) (wA w) (wB w))
  | 7 => .ok (.shr (wD w) (wA w) (wB w))
  | 8 => .ok (.sra (wD w) (wA w) (wB w))
  | 9 => .ok (.rol (wD w) (wA w) (wB w))
  | 10 => .ok (.shli (wD w) (wA w) (wB w))
  | 11 => .ok (.shri (wD w) (wA w) (wB w))
  | 12 => .ok (.srai (wD w) (wA w) (wB w))
  | 13 => need w (wB w == 0) (.clz (wD w) (wA w))
  | 14 => need w (wB w == 0) (.popc (wD w) (wA w))
  | 15 => need w (wB w == 0) (.brev (wD w) (wA w))
  | _ => .error .unassigned

/-- Class 0x2 of the opcode map (R68); `n` is the low nibble of the opcode. -/
def decodeClass2 (n : BitVec 4) (w : Word) : Except DecodeError Instr :=
  match n.toNat with
  | 0 => .ok (.and (wD w) (wA w) (wB w))
  | 1 => .ok (.or (wD w) (wA w) (wB w))
  | 2 => .ok (.xor (wD w) (wA w) (wB w))
  | 3 => .ok (.andn (wD w) (wA w) (wB w))
  | 4 => .ok (.orn (wD w) (wA w) (wB w))
  | 5 => need w (wB w == 0) (.not (wD w) (wA w))
  | 6 => .ok (.andi (wD w) (wA w) (wB w))
  | 7 => .ok (.ori (wD w) (wA w) (wB w))
  | 8 => .ok (.xori (wD w) (wA w) (wB w))
  | 9 => .ok (.sel (wD w) (wA w) (wB w))
  | 10 => .ok (.bfx (wD w) (wA w) (wB w))
  | 11 => .ok (.bfi (wD w) (wA w) (wB w))
  | 12 => .ok (.prmb (wD w) (wA w) (wB w))
  | 13 => .ok (.lui (wD w) (wImm16 w))
  | 14 => .ok (.lli (wD w) (wImm16 w))
  | 15 => need w (wB w == 0) (.mov (wD w) (wA w))
  | _ => .error .unassigned

/-- Class 0x3 of the opcode map (R68); `n` is the low nibble of the opcode. -/
def decodeClass3 (n : BitVec 4) (w : Word) : Except DecodeError Instr :=
  match n.toNat with
  | 0 => .ok (.divf (wD w) (wA w) (wB w))
  | 1 => need w (wB w == 0) (.rcp (wD w) (wA w))
  | 2 => need w (wB w == 0) (.rsq (wD w) (wA w))
  | 3 => need w (wB w == 0) (.sqrt (wD w) (wA w))
  | 4 => need w (wB w == 0) (.exp2 (wD w) (wA w))
  | 5 => need w (wB w == 0) (.log2 (wD w) (wA w))
  | 6 => need w (wB w == 0) (.sin (wD w) (wA w))
  | 7 => need w (wB w == 0) (.cos (wD w) (wA w))
  | 8 => need w (wB w == 0) (.tanh (wD w) (wA w))
  | 9 => need w (wB w == 0) (.rint (wD w) (wA w))
  | 10 => .ok (.scalb (wD w) (wA w) (wB w))
  | 11 => need w (wB w == 0) (.fcls (wD w) (wA w))
  | _ => .error .unassigned

/-- Class 0x4 of the opcode map (R68); `n` is the low nibble of the opcode. -/
def decodeClass4 (n : BitVec 4) (w : Word) : Except DecodeError Instr :=
  match n.toNat with
  | 0 => .ok (.ceq (wD w) (wA w) (wB w))
  | 1 => .ok (.cne (wD w) (wA w) (wB w))
  | 2 => .ok (.clt (wD w) (wA w) (wB w))
  | 3 => .ok (.cle (wD w) (wA w) (wB w))
  | 4 => .ok (.cuno (wD w) (wA w) (wB w))
  | 5 => .ok (.ctag (wD w) (wA w) (wB w))
  | 6 => .ok (.ceqi (wD w) (wA w) (wB w))
  | 7 => .ok (.cnei (wD w) (wA w) (wB w))
  | 8 => .ok (.clti (wD w) (wA w) (wB w))
  | 9 => .ok (.clei (wD w) (wA w) (wB w))
  | 10 => .ok (.cgti (wD w) (wA w) (wB w))
  | 11 => .ok (.cgei (wD w) (wA w) (wB w))
  | _ => .error .unassigned

/-- Class 0x5 of the opcode map (R68); `n` is the low nibble of the opcode. -/
def decodeClass5 (n : BitVec 4) (w : Word) : Except DecodeError Instr :=
  match n.toNat with
  | 0 => .ok (.cvt (wD w) (wA w) (wB w))
  | 1 => .ok (.tagr (wD w) (wA w) (wB w))
  | 2 => need w (wB w == 0) (.tagq (wD w) (wA w))
  | 3 => .ok (.pack (wD w) (wA w) (wB w))
  | 4 => .ok (.unpkl (wD w) (wA w) (wB w))
  | 5 => .ok (.unpkh (wD w) (wA w) (wB w))
  | 6 => .ok (.sclc (wD w) (wA w) (wB w))
  | 7 => .ok (.qnt (wD w) (wA w) (wB w))
  | 8 => .ok (.dqnt (wD w) (wA w) (wB w))
  | 9 => .ok (.hadm (wD w) (wA w) (wB w))
  | 10 => .ok (.trpk (wD w) (wA w) (wB w))
  | 11 => .ok (.trex (wD w) (wA w) (wB w))
  | 12 => .ok (.lutx (wD w) (wA w) (wB w))
  | _ => .error .unassigned

/-- Class 0x6 of the opcode map (R68); `n` is the low nibble of the opcode. -/
def decodeClass6 (n : BitVec 4) (w : Word) : Except DecodeError Instr :=
  match n.toNat with
  | 0 => .ok (.shfl (wD w) (wA w) (wB w))
  | 1 => .ok (.shflx (wD w) (wA w) (wB w))
  | 2 => .ok (.shflu (wD w) (wA w) (wB w))
  | 3 => .ok (.shfld (wD w) (wA w) (wB w))
  | 4 => .ok (.bcst (wD w) (wA w) (wB w))
  | 5 => need w (wB w == 0) (.vall (wD w) (wA w))
  | 6 => need w (wB w == 0) (.vany (wD w) (wA w))
  | 7 => need w (wB w == 0) (.ballot (wD w) (wA w))
  | 8 => need w (wB w == 0) (.rdadd (wD w) (wA w))
  | 9 => need w (wB w == 0) (.rdmax (wD w) (wA w))
  | 10 => need w (wB w == 0) (.rdmin (wD w) (wA w))
  | 11 => need w (wB w == 0) (.scan (wD w) (wA w))
  | 12 => .ok (.cmpct (wD w) (wA w) (wB w))
  | 13 => need w (wB w == 0) (.rank (wD w) (wA w))
  | 14 => need w (wB w == 0) (.matchAny (wD w) (wA w))
  | _ => .error .unassigned

/-- Class 0x7 of the opcode map (R68); `n` is the low nibble of the opcode. -/
def decodeClass7 (n : BitVec 4) (w : Word) : Except DecodeError Instr :=
  match n.toNat with
  | 0 => need w (wD w == 0) (.br (wImm16 w))
  | 1 => .ok (.bnz (wD w) (wImm16 w))
  | 2 => .ok (.bz (wD w) (wImm16 w))
  | 3 => need w (wD w == 0 && wB w == 0) (.brx (wA w))
  | 4 => .ok (.call (wD w) (wImm16 w))
  | 5 => need w (wB w == 0) (.callx (wD w) (wA w))
  | 6 => need w (wD w == 0 && wB w == 0) (.ret (wA w))
  | 7 => need w (wD w == 0 && wA w == 0 && wB w == 0) .exit
  | 8 => need w (wD w == 0 && wA w == 0 && wB w == 0) .yield
  | 9 => need w (wD w == 0 && wA w == 0 && wB w == 0) .nop
  | 10 => need w (wD w == 0) (.idem (wImm16 w))
  | 11 => need w (wD w == 0 && wA w == 0 && wB w == 0) .pause
  | _ => .error .unassigned

/-- Class 0x8 of the opcode map (R68); `n` is the low nibble of the opcode. -/
def decodeClass8 (n : BitVec 4) (w : Word) : Except DecodeError Instr :=
  match n.toNat with
  | 0 => Except.ok (.lds (wD w) (wA w) ((wB w).extractLsb' 4 4) ((wB w).extractLsb' 0 4))
  | 1 => Except.ok (.lds2 (wD w) (wA w) ((wB w).extractLsb' 4 4) ((wB w).extractLsb' 0 4))
  | 2 => Except.ok (.lds4 (wD w) (wA w) ((wB w).extractLsb' 4 4) ((wB w).extractLsb' 0 4))
  | 3 => Except.ok (.ldse (wD w) (wA w) ((wB w).extractLsb' 4 4) ((wB w).extractLsb' 0 4))
  | 4 => Except.ok (.ldsc (wD w) (wA w) ((wB w).extractLsb' 4 4) ((wB w).extractLsb' 0 4))
  | 5 => Except.ok (.ldt (wD w) (wA w) ((wB w).extractLsb' 4 4) ((wB w).extractLsb' 0 4))
  | 6 => Except.ok (.ldt2 (wD w) (wA w) ((wB w).extractLsb' 4 4) ((wB w).extractLsb' 0 4))
  | 7 => Except.ok (.ldt4 (wD w) (wA w) ((wB w).extractLsb' 4 4) ((wB w).extractLsb' 0 4))
  | 8 => Except.ok (.ldg (wD w) (wA w) ((wB w).extractLsb' 4 4) ((wB w).extractLsb' 0 4))
  | 9 => Except.ok (.ldg2 (wD w) (wA w) ((wB w).extractLsb' 4 4) ((wB w).extractLsb' 0 4))
  | 10 => Except.ok (.ldg4 (wD w) (wA w) ((wB w).extractLsb' 4 4) ((wB w).extractLsb' 0 4))
  | 11 => Except.ok (.ldga (wD w) (wA w) ((wB w).extractLsb' 4 4) ((wB w).extractLsb' 0 4))
  | 12 => Except.ok (.ldp (wD w) (wA w) ((wB w).extractLsb' 4 4) ((wB w).extractLsb' 0 4))
  | 13 => Except.ok (.ldta (wD w) (wA w) ((wB w).extractLsb' 4 4) ((wB w).extractLsb' 0 4))
  | _ => .error .unassigned

/-- Class 0x9 of the opcode map (R68); `n` is the low nibble of the opcode. -/
def decodeClass9 (n : BitVec 4) (w : Word) : Except DecodeError Instr :=
  match n.toNat with
  | 0 => need w ((wB w).extractLsb' 0 2 == 0) (.sts (wD w) (wA w) ((wB w).extractLsb' 4 4) ((wB w).extractLsb' 2 2))
  | 1 => need w ((wB w).extractLsb' 0 2 == 0) (.sts2 (wD w) (wA w) ((wB w).extractLsb' 4 4) ((wB w).extractLsb' 2 2))
  | 2 => need w ((wB w).extractLsb' 0 2 == 0) (.sts4 (wD w) (wA w) ((wB w).extractLsb' 4 4) ((wB w).extractLsb' 2 2))
  | 3 => need w ((wB w).extractLsb' 0 2 == 0) (.stsf (wD w) (wA w) ((wB w).extractLsb' 4 4) ((wB w).extractLsb' 2 2))
  | 4 => need w ((wB w).extractLsb' 0 2 == 0) (.stt (wD w) (wA w) ((wB w).extractLsb' 4 4) ((wB w).extractLsb' 2 2))
  | 5 => need w ((wB w).extractLsb' 0 2 == 0) (.stt2 (wD w) (wA w) ((wB w).extractLsb' 4 4) ((wB w).extractLsb' 2 2))
  | 6 => need w ((wB w).extractLsb' 0 2 == 0) (.stt4 (wD w) (wA w) ((wB w).extractLsb' 4 4) ((wB w).extractLsb' 2 2))
  | 7 => need w ((wB w).extractLsb' 0 2 == 0) (.stg (wD w) (wA w) ((wB w).extractLsb' 4 4) ((wB w).extractLsb' 2 2))
  | 8 => need w ((wB w).extractLsb' 0 2 == 0) (.stg2 (wD w) (wA w) ((wB w).extractLsb' 4 4) ((wB w).extractLsb' 2 2))
  | 9 => need w ((wB w).extractLsb' 0 2 == 0) (.stg4 (wD w) (wA w) ((wB w).extractLsb' 4 4) ((wB w).extractLsb' 2 2))
  | 10 => need w ((wB w).extractLsb' 0 2 == 0) (.stgr (wD w) (wA w) ((wB w).extractLsb' 4 4) ((wB w).extractLsb' 2 2))
  | 11 => need w ((wB w).extractLsb' 0 2 == 0) (.sttr (wD w) (wA w) ((wB w).extractLsb' 4 4) ((wB w).extractLsb' 2 2))
  | _ => .error .unassigned

/-- Class 0xA of the opcode map (R68); `n` is the low nibble of the opcode. -/
def decodeClassA (n : BitVec 4) (w : Word) : Except DecodeError Instr :=
  match n.toNat with
  | 0 => needSome w true (aopOf ((wB w).extractLsb' 0 4)) (fun op => .atg (wD w) (wA w) ((wB w).extractLsb' 4 4) op)
  | 1 => needSome w true (aopOf ((wB w).extractLsb' 0 4)) (fun op => .atgr (wD w) (wA w) ((wB w).extractLsb' 4 4) op)
  | 2 => need w ((wB w).extractLsb' 0 4 == 0) (.casg (wD w) (wA w) ((wB w).extractLsb' 4 4))
  | 3 => needSome w true (aopOf ((wB w).extractLsb' 0 4)) (fun op => .ats (wD w) (wA w) ((wB w).extractLsb' 4 4) op)
  | 4 => needSome w true (aopOf ((wB w).extractLsb' 0 4)) (fun op => .atsr (wD w) (wA w) ((wB w).extractLsb' 4 4) op)
  | 5 => need w ((wB w).extractLsb' 0 4 == 0) (.cass (wD w) (wA w) ((wB w).extractLsb' 4 4))
  | 6 => need w ((wB w).extractLsb' 0 4 == 0) (.llock (wD w) (wA w) ((wB w).extractLsb' 4 4))
  | 7 => need w ((wB w).extractLsb' 0 4 == 0) (.ltry (wD w) (wA w) ((wB w).extractLsb' 4 4))
  | 8 => need w ((wB w).extractLsb' 0 4 == 0) (.lunlk (wD w) (wA w) ((wB w).extractLsb' 4 4))
  | 9 => need w ((wB w).extractLsb' 0 4 == 0) (.lstat (wD w) (wA w) ((wB w).extractLsb' 4 4))
  | 10 => needSome w (wD w == 0 && wA w == 0 && (wB w).extractLsb' 3 5 == 0) (scopeOf ((wB w).extractLsb' 0 3)) .fence
  | 11 => needSome w ((wD w).extractLsb' 3 5 == 0) (scopeOf ((wD w).extractLsb' 0 3)) (fun sc => .fncx sc (wImm16 w))
  | 12 => decodeBar w .barv .barvReg
  | 13 => decodeBar w .barw .barwReg
  | 14 => decodeBar w .bars .barsReg
  | 15 => decodeBar w .barq .barqReg
  | _ => .error .unassigned

/-- Class 0xB of the opcode map (R68); `n` is the low nibble of the opcode. -/
def decodeClassB (n : BitVec 4) (w : Word) : Except DecodeError Instr :=
  match n.toNat with
  | 0 => .ok (.cpy (wD w) (wA w) (wB w))
  | 1 => .ok (.bcpy (wD w) (wA w) (wB w))
  | 2 => .ok (.tcpy (wD w) (wA w) (wB w))
  | 3 => .ok (.kvapp (wD w) (wA w) (wB w))
  | 4 => need w (wD w == 0 && (wB w).extractLsb' 0 2 == 0) (.pfg (wA w) ((wB w).extractLsb' 4 4) ((wB w).extractLsb' 2 2))
  | 5 => need w (wD w == 0) (.sinv (wA w) (wB w))
  | 6 => need w (wD w == 0) (.sflsh (wA w) (wB w))
  | 7 => .ok (.selt (wD w) (wA w) (wB w))
  | _ => .error .unassigned

/-- Class 0xC of the opcode map (R68); `n` is the low nibble of the opcode. -/
def decodeClassC (n : BitVec 4) (w : Word) : Except DecodeError Instr :=
  match n.toNat with
  | 0 => .ok (.dld (wD w) (wA w) (wB w))
  | 1 => .ok (.dldl (wD w) (wA w) (wB w))
  | 2 => need w (wD w == 0 && wA w == 0 && wB w == 0) .dswap
  | 3 => .ok (.dstr (wD w) (wA w) (wB w))
  | 4 => .ok (.dstrn (wD w) (wA w) (wB w))
  | 5 => need w (wD w == 0) (.dzro (wImm16 w))
  | 6 => .ok (.ddrn (wD w) (wA w) (wB w))
  | 7 => .ok (.ddrq (wD w) (wA w) (wB w))
  | 8 => need w (wB w == 0) (.dgang (wD w) (wA w))
  | 9 => need w (wA w == 0 && wB w == 0) (.dwait (wD w))
  | 10 => need w (wB w == 0) (.dpass (wD w) (wA w))
  | 11 => need w (wB w == 0) (.spgm (wD w) (wA w))
  | 12 => .ok (.dscr (wD w) (wA w) (wB w))
  | 13 => .ok (.smrg (wD w) (wA w) (wB w))
  | _ => .error .unassigned

/-- Class 0xD of the opcode map (R68); `n` is the low nibble of the opcode. -/
def decodeClassD (n : BitVec 4) (w : Word) : Except DecodeError Instr :=
  match n.toNat with
  | 0 => need w (wB w == 0) (.lnch (wD w) (wA w))
  | 1 => .ok (.lnchs (wD w) (wA w) (wB w))
  | 2 => .ok (.rslv (wD w) (wA w) (wB w))
  | 3 => need w (wB w == 0) (.vsq (wD w) (wA w))
  | 4 => need w (wB w == 0) (.vqry (wD w) (wA w))
  | 5 => need w (wB w == 0) (.waitg (wD w) (wA w))
  | 6 => need w (wA w == 0 && wB w == 0) (.loc (wD w))
  | 7 => need w (wB w == 0) (.hosti (wD w) (wA w))
  | _ => .error .unassigned

/-- Class 0xE of the opcode map (R68); `n` is the low nibble of the opcode. -/
def decodeClassE (n : BitVec 4) (w : Word) : Except DecodeError Instr :=
  match n.toNat with
  | 0 => .ok (.srd (wD w) (wImm16 w))
  | 1 => .ok (.swr (wD w) (wImm16 w))
  | 2 => need w (wD w == 0) (.trap (wImm16 w))
  | 3 => need w (wD w == 0 && wA w == 0 && wB w == 0) .eret
  | 4 => .ok (.tlwr (wD w) (wA w) (wB w))
  | 5 => .ok (.kvfrk (wD w) (wA w) (wB w))
  | 6 => .ok (.migr (wD w) (wA w) (wB w))
  | 7 => need w (wD w == 0) (.ptinv (wA w) (wB w))
  | 8 => need w (wB w == 0) (.dieop (wD w) (wA w))
  | _ => .error .unassigned

/-- Class 0xF of the opcode map (R68); `n` is the low nibble of the opcode. -/
def decodeClassF (n : BitVec 4) (w : Word) : Except DecodeError Instr :=
  match n.toNat with
  | 0 => .ok (.himm (wPay w))
  | 1 => need w (wD w == 0 && wA w == 0 && wB w != 0xFF) (.hsrc (wB w))
  | 2 => needSome w (wD w == 0 && wA w == 0 && (wB w).extractLsb' 3 5 == 0) (rmodeOf ((wB w).extractLsb' 0 3)) .hrnd
  | 3 => needSome w (wD w == 0 && wA w == 0 && (wB w).extractLsb' 7 1 == 0 && (wB w).extractLsb' 3 1 == 0) (scopeOf ((wB w).extractLsb' 0 3)) (fun sc => .hord ((wB w).extractLsb' 6 1 == 1) ((wB w).extractLsb' 4 2) sc)
  | 4 => need w (wD w == 0 && wA w == 0 && (wB w).extractLsb' 2 6 == 0) (.hpol ((wB w).extractLsb' 0 2))
  | 5 => need w (wD w == 0 && wA w == 0 && (wB w).extractLsb' 2 6 == 0) (.hsch ((wB w).extractLsb' 0 2))
  | 6 => .ok (.hoff (wPay w))
  | _ => .error .unassigned

/-- The decoder: class by the high nibble of the opcode, instruction by its low nibble (R59). -/
def decode (w : Word) : Except DecodeError Instr :=
  let n := (wOp w).extractLsb' 0 4
  match ((wOp w).extractLsb' 4 4).toNat with
  | 0 => decodeClass0 n w
  | 1 => decodeClass1 n w
  | 2 => decodeClass2 n w
  | 3 => decodeClass3 n w
  | 4 => decodeClass4 n w
  | 5 => decodeClass5 n w
  | 6 => decodeClass6 n w
  | 7 => decodeClass7 n w
  | 8 => decodeClass8 n w
  | 9 => decodeClass9 n w
  | 10 => decodeClassA n w
  | 11 => decodeClassB n w
  | 12 => decodeClassC n w
  | 13 => decodeClassD n w
  | 14 => decodeClassE n w
  | _ => decodeClassF n w

/-- A word from four bytes, the first at the lowest address (R3, R59). -/
def wordOfBytes (b0 b1 b2 b3 : Byte) : Word := b3 ++ b2 ++ b1 ++ b0

/-- Decoding a list of bytes: the instruction of the first word and the bytes after it; a list
shorter than a word holds no instruction. -/
def decodeBytes : List Byte → Option (Except DecodeError Instr × List Byte)
  | b0 :: b1 :: b2 :: b3 :: rest => some (decode (wordOfBytes b0 b1 b2 b3), rest)
  | _ => none

/-- The instruction the decoder reads from a word whose bits are `w` (spec/opcode_table.json numbers
bit 0 as the least significant bit of the one 32-bit word). -/
def decodeTableWord (_nbits w : Nat) : Option Instr :=
  match decode (BitVec.ofNat 32 w) with
  | .ok i => some i
  | .error _ => none

/-- One bit of a Bool. -/
def bit1 (b : Bool) : BitVec 1 := if b then 1 else 0

/-- The encoder: the word of an instruction, none for an event, which has no encoding (R60, R68,
R69, R72). -/
def encode : Instr → Option Word
  | .add d a b => some (mkRR 0x01 d a b)
  | .sub d a b => some (mkRR 0x02 d a b)
  | .mul d a b => some (mkRR 0x03 d a b)
  | .fma d a b => some (mkRR 0x04 d a b)
  | .min d a b => some (mkRR 0x05 d a b)
  | .max d a b => some (mkRR 0x06 d a b)
  | .abs d a => some (mkRR 0x07 d a 0)
  | .neg d a => some (mkRR 0x08 d a 0)
  | .sadd d a b => some (mkRR 0x09 d a b)
  | .ssub d a b => some (mkRR 0x0A d a b)
  | .cpsgn d a b => some (mkRR 0x0B d a b)
  | .addi d a imm => some (mkRR 0x0C d a imm)
  | .muli d a imm => some (mkRR 0x0D d a imm)
  | .mini d a imm => some (mkRR 0x0E d a imm)
  | .maxi d a imm => some (mkRR 0x0F d a imm)
  | .mulhi d a b => some (mkRR 0x10 d a b)
  | .mulhn d a b => some (mkRR 0x11 d a b)
  | .div d a b => some (mkRR 0x12 d a b)
  | .rem d a b => some (mkRR 0x13 d a b)
  | .divn d a b => some (mkRR 0x14 d a b)
  | .remn d a b => some (mkRR 0x15 d a b)
  | .shl d a b => some (mkRR 0x16 d a b)
  | .shr d a b => some (mkRR 0x17 d a b)
  | .sra d a b => some (mkRR 0x18 d a b)
  | .rol d a b => some (mkRR 0x19 d a b)
  | .shli d a imm => some (mkRR 0x1A d a imm)
  | .shri d a imm => some (mkRR 0x1B d a imm)
  | .srai d a imm => some (mkRR 0x1C d a imm)
  | .clz d a => some (mkRR 0x1D d a 0)
  | .popc d a => some (mkRR 0x1E d a 0)
  | .brev d a => some (mkRR 0x1F d a 0)
  | .and d a b => some (mkRR 0x20 d a b)
  | .or d a b => some (mkRR 0x21 d a b)
  | .xor d a b => some (mkRR 0x22 d a b)
  | .andn d a b => some (mkRR 0x23 d a b)
  | .orn d a b => some (mkRR 0x24 d a b)
  | .not d a => some (mkRR 0x25 d a 0)
  | .andi d a imm => some (mkRR 0x26 d a imm)
  | .ori d a imm => some (mkRR 0x27 d a imm)
  | .xori d a imm => some (mkRR 0x28 d a imm)
  | .sel d a b => some (mkRR 0x29 d a b)
  | .bfx d a b => some (mkRR 0x2A d a b)
  | .bfi d a b => some (mkRR 0x2B d a b)
  | .prmb d a b => some (mkRR 0x2C d a b)
  | .lui d imm => some (mkIW 0x2D d imm)
  | .lli d imm => some (mkIW 0x2E d imm)
  | .mov d a => some (mkRR 0x2F d a 0)
  | .divf d a b => some (mkRR 0x30 d a b)
  | .rcp d a => some (mkRR 0x31 d a 0)
  | .rsq d a => some (mkRR 0x32 d a 0)
  | .sqrt d a => some (mkRR 0x33 d a 0)
  | .exp2 d a => some (mkRR 0x34 d a 0)
  | .log2 d a => some (mkRR 0x35 d a 0)
  | .sin d a => some (mkRR 0x36 d a 0)
  | .cos d a => some (mkRR 0x37 d a 0)
  | .tanh d a => some (mkRR 0x38 d a 0)
  | .rint d a => some (mkRR 0x39 d a 0)
  | .scalb d a b => some (mkRR 0x3A d a b)
  | .fcls d a => some (mkRR 0x3B d a 0)
  | .ceq d a b => some (mkRR 0x40 d a b)
  | .cne d a b => some (mkRR 0x41 d a b)
  | .clt d a b => some (mkRR 0x42 d a b)
  | .cle d a b => some (mkRR 0x43 d a b)
  | .cuno d a b => some (mkRR 0x44 d a b)
  | .ctag d a imm => some (mkRR 0x45 d a imm)
  | .ceqi d a imm => some (mkRR 0x46 d a imm)
  | .cnei d a imm => some (mkRR 0x47 d a imm)
  | .clti d a imm => some (mkRR 0x48 d a imm)
  | .clei d a imm => some (mkRR 0x49 d a imm)
  | .cgti d a imm => some (mkRR 0x4A d a imm)
  | .cgei d a imm => some (mkRR 0x4B d a imm)
  | .cvt d a imm => some (mkRR 0x50 d a imm)
  | .tagr d a imm => some (mkRR 0x51 d a imm)
  | .tagq d a => some (mkRR 0x52 d a 0)
  | .pack d a b => some (mkRR 0x53 d a b)
  | .unpkl d a imm => some (mkRR 0x54 d a imm)
  | .unpkh d a imm => some (mkRR 0x55 d a imm)
  | .sclc d a b => some (mkRR 0x56 d a b)
  | .qnt d a b => some (mkRR 0x57 d a b)
  | .dqnt d a b => some (mkRR 0x58 d a b)
  | .hadm d a imm => some (mkRR 0x59 d a imm)
  | .trpk d a b => some (mkRR 0x5A d a b)
  | .trex d a imm => some (mkRR 0x5B d a imm)
  | .lutx d a b => some (mkRR 0x5C d a b)
  | .shfl d a b => some (mkRR 0x60 d a b)
  | .shflx d a imm => some (mkRR 0x61 d a imm)
  | .shflu d a imm => some (mkRR 0x62 d a imm)
  | .shfld d a imm => some (mkRR 0x63 d a imm)
  | .bcst d a imm => some (mkRR 0x64 d a imm)
  | .vall d a => some (mkRR 0x65 d a 0)
  | .vany d a => some (mkRR 0x66 d a 0)
  | .ballot d a => some (mkRR 0x67 d a 0)
  | .rdadd d a => some (mkRR 0x68 d a 0)
  | .rdmax d a => some (mkRR 0x69 d a 0)
  | .rdmin d a => some (mkRR 0x6A d a 0)
  | .scan d a => some (mkRR 0x6B d a 0)
  | .cmpct d a b => some (mkRR 0x6C d a b)
  | .rank d a => some (mkRR 0x6D d a 0)
  | .matchAny d a => some (mkRR 0x6E d a 0)
  | .br off => some (mkIW 0x70 0 off)
  | .bnz a off => some (mkIW 0x71 a off)
  | .bz a off => some (mkIW 0x72 a off)
  | .brx a => some (mkRR 0x73 0 a 0)
  | .call a off => some (mkIW 0x74 a off)
  | .callx d a => some (mkRR 0x75 d a 0)
  | .ret a => some (mkRR 0x76 0 a 0)
  | .exit => some (mkRR 0x77 0 0 0)
  | .yield => some (mkRR 0x78 0 0 0)
  | .nop => some (mkRR 0x79 0 0 0)
  | .idem imm => some (mkIW 0x7A 0 imm)
  | .pause => some (mkRR 0x7B 0 0 0)
  | .lds d a st t => some (mkRR 0x80 d a (st ++ t))
  | .lds2 d a st t => some (mkRR 0x81 d a (st ++ t))
  | .lds4 d a st t => some (mkRR 0x82 d a (st ++ t))
  | .ldse d a st t => some (mkRR 0x83 d a (st ++ t))
  | .ldsc d a st t => some (mkRR 0x84 d a (st ++ t))
  | .ldt d a st t => some (mkRR 0x85 d a (st ++ t))
  | .ldt2 d a st t => some (mkRR 0x86 d a (st ++ t))
  | .ldt4 d a st t => some (mkRR 0x87 d a (st ++ t))
  | .ldg d a st t => some (mkRR 0x88 d a (st ++ t))
  | .ldg2 d a st t => some (mkRR 0x89 d a (st ++ t))
  | .ldg4 d a st t => some (mkRR 0x8A d a (st ++ t))
  | .ldga d a st t => some (mkRR 0x8B d a (st ++ t))
  | .ldp d a st t => some (mkRR 0x8C d a (st ++ t))
  | .ldta d a st t => some (mkRR 0x8D d a (st ++ t))
  | .sts d a st pol => some (mkRR 0x90 d a (st ++ pol ++ 0#2))
  | .sts2 d a st pol => some (mkRR 0x91 d a (st ++ pol ++ 0#2))
  | .sts4 d a st pol => some (mkRR 0x92 d a (st ++ pol ++ 0#2))
  | .stsf d a st pol => some (mkRR 0x93 d a (st ++ pol ++ 0#2))
  | .stt d a st pol => some (mkRR 0x94 d a (st ++ pol ++ 0#2))
  | .stt2 d a st pol => some (mkRR 0x95 d a (st ++ pol ++ 0#2))
  | .stt4 d a st pol => some (mkRR 0x96 d a (st ++ pol ++ 0#2))
  | .stg d a st pol => some (mkRR 0x97 d a (st ++ pol ++ 0#2))
  | .stg2 d a st pol => some (mkRR 0x98 d a (st ++ pol ++ 0#2))
  | .stg4 d a st pol => some (mkRR 0x99 d a (st ++ pol ++ 0#2))
  | .stgr d a st pol => some (mkRR 0x9A d a (st ++ pol ++ 0#2))
  | .sttr d a st pol => some (mkRR 0x9B d a (st ++ pol ++ 0#2))
  | .atg d a st op => some (mkRR 0xA0 d a (st ++ aopCode op))
  | .atgr d a st op => some (mkRR 0xA1 d a (st ++ aopCode op))
  | .casg d a st => some (mkRR 0xA2 d a (st ++ 0#4))
  | .ats d a st op => some (mkRR 0xA3 d a (st ++ aopCode op))
  | .atsr d a st op => some (mkRR 0xA4 d a (st ++ aopCode op))
  | .cass d a st => some (mkRR 0xA5 d a (st ++ 0#4))
  | .llock d a st => some (mkRR 0xA6 d a (st ++ 0#4))
  | .ltry d a st => some (mkRR 0xA7 d a (st ++ 0#4))
  | .lunlk d a st => some (mkRR 0xA8 d a (st ++ 0#4))
  | .lstat d a st => some (mkRR 0xA9 d a (st ++ 0#4))
  | .fence sc => some (mkRR 0xAA 0 0 (0#5 ++ scopeCode sc))
  | .fncx sc mask => some (mkIW 0xAB (0#5 ++ scopeCode sc) mask)
  | .barv d imm => some (mkRR 0xAC d 0 imm)
  | .barvReg d a => some (mkRR 0xAC d a 0xC0)
  | .barw d imm => some (mkRR 0xAD d 0 imm)
  | .barwReg d a => some (mkRR 0xAD d a 0xC0)
  | .bars d imm => some (mkRR 0xAE d 0 imm)
  | .barsReg d a => some (mkRR 0xAE d a 0xC0)
  | .barq d imm => some (mkRR 0xAF d 0 imm)
  | .barqReg d a => some (mkRR 0xAF d a 0xC0)
  | .cpy d a b => some (mkRR 0xB0 d a b)
  | .bcpy d a b => some (mkRR 0xB1 d a b)
  | .tcpy d a b => some (mkRR 0xB2 d a b)
  | .kvapp d a b => some (mkRR 0xB3 d a b)
  | .pfg a st pol => some (mkRR 0xB4 0 a (st ++ pol ++ 0#2))
  | .sinv a b => some (mkRR 0xB5 0 a b)
  | .sflsh a b => some (mkRR 0xB6 0 a b)
  | .selt d a b => some (mkRR 0xB7 d a b)
  | .dld d a b => some (mkRR 0xC0 d a b)
  | .dldl d a b => some (mkRR 0xC1 d a b)
  | .dswap => some (mkRR 0xC2 0 0 0)
  | .dstr d a b => some (mkRR 0xC3 d a b)
  | .dstrn d a b => some (mkRR 0xC4 d a b)
  | .dzro imm => some (mkIW 0xC5 0 imm)
  | .ddrn d a b => some (mkRR 0xC6 d a b)
  | .ddrq d a b => some (mkRR 0xC7 d a b)
  | .dgang d a => some (mkRR 0xC8 d a 0)
  | .dwait d => some (mkRR 0xC9 d 0 0)
  | .dpass d a => some (mkRR 0xCA d a 0)
  | .spgm d a => some (mkRR 0xCB d a 0)
  | .dscr d a b => some (mkRR 0xCC d a b)
  | .smrg d a b => some (mkRR 0xCD d a b)
  | .lnch d a => some (mkRR 0xD0 d a 0)
  | .lnchs d a b => some (mkRR 0xD1 d a b)
  | .rslv d a b => some (mkRR 0xD2 d a b)
  | .vsq d a => some (mkRR 0xD3 d a 0)
  | .vqry d a => some (mkRR 0xD4 d a 0)
  | .waitg d a => some (mkRR 0xD5 d a 0)
  | .loc d => some (mkRR 0xD6 d 0 0)
  | .hosti d a => some (mkRR 0xD7 d a 0)
  | .srd d imm => some (mkIW 0xE0 d imm)
  | .swr d imm => some (mkIW 0xE1 d imm)
  | .trap imm => some (mkIW 0xE2 0 imm)
  | .eret => some (mkRR 0xE3 0 0 0)
  | .tlwr d a b => some (mkRR 0xE4 d a b)
  | .kvfrk d a b => some (mkRR 0xE5 d a b)
  | .migr d a b => some (mkRR 0xE6 d a b)
  | .ptinv a b => some (mkRR 0xE7 0 a b)
  | .dieop d a => some (mkRR 0xE8 d a 0)
  | .himm p => some (mkH 0xF0 p)
  | .hsrc src => some (mkRR 0xF1 0 0 src)
  | .hrnd m => some (mkRR 0xF2 0 0 (0#5 ++ rmodeCode m))
  | .hord f u sc => some (mkRR 0xF3 0 0 (0#1 ++ bit1 f ++ u ++ 0#1 ++ scopeCode sc))
  | .hpol pol => some (mkRR 0xF4 0 0 (0#6 ++ pol))
  | .hsch c => some (mkRR 0xF5 0 0 (0#6 ++ c))
  | .hoff off => some (mkH 0xF6 off)
  | .issueSelect _ _ => none
  | .groupSwap _ _ => none
  | .queueThreadIssue _ => none
  | .arrayOpStart _ _ => none
  | .arrayOpComplete _ _ => none
  | .engineCommandComplete _ => none
  | .loadComplete _ => none
  | .pauseEnd _ _ => none
  | .translationWalk _ _ _ => none
  | .lockTimeout _ _ => none
  | .deadlockBroken _ => none
  | .dispatchStep _ => none
  | .stagingComplete _ => none
  | .preemptStarvation _ => none
  | .deferralLimit _ => none
  | .trapSaveTimeout _ => none
  | .teamSave _ => none
  | .teamMigrate _ _ => none
  | .gridComplete _ _ => none
  | .spillwayReclaim _ => none
  | .migrationLineMove _ _ => none
  | .rds _ _ => none
  | .rdx _ _ => none
  | .upg _ _ => none
  | .wb _ _ => none
  | .evc _ _ => none
  | .fwdS _ _ => none
  | .fwdX _ _ => none
  | .inv _ _ => none
  | .data _ _ => none
  | .invack _ _ => none
  | .fack _ => none
  | .done _ _ => none
  | .binv _ _ => none
  | .snoopData _ => none
  | .snoopInvalidate _ => none
  | .snoopCurrent _ => none
  | .hostHalfGrant _ _ _ => none
  | .hostAgentAccess _ _ => none
  | .remoteLoad _ _ _ _ => none
  | .remoteStore _ _ _ _ _ => none
  | .remoteAtomic _ _ _ _ _ _ _ => none
  | .openNotice _ _ _ => none
  | .openNoticeAck _ _ _ => none
  | .commitNotice _ _ _ => none
  | .commitNoticeAck _ _ _ => none
  | .squashNotice _ _ _ => none
  | .dropReport _ => none
  | .peerRefuse _ => none
  | .peerTimeout _ => none
  | .linkDown _ => none
  | .linkTrain _ _ _ _ _ => none
  | .linkProtocolError _ => none
  | .dieOfflineDone _ => none
  | .dieOnlineDone _ _ => none
  | .dieFailure _ => none
  | .reportedError _ _ _ _ => none
  | .heatmapRefresh _ _ => none
  | .thermalThrottle => none
  | .criticalTemperature => none
  | .boot _ _ _ _ => none
  | .mailboxRecovery _ => none
  | .mailboxIdentity => none
  | .mailboxAttestation _ => none
  | .mailboxDomainMap => none
  | .ctxCreate _ => none
  | .ctxTeardown _ => none
  | .ctxTeardownDone _ => none
  | .ctxSwitchOut _ => none
  | .ctxSwitchOutDone _ => none
  | .ctxSwitchIn _ => none
  | .qtStart _ _ => none
  | .qtStop _ => none
  | .qtctlSetFields _ _ => none
  | .errcntClear => none
  | .hostRegisterWrite _ _ _ => none
  | .eventPost => none
  | .storePerformed _ => none
  | .msixVectorUnmask _ => none

/-! Roles of the register fields (R66, R67). -/

/-- How an instruction uses a register field: a source, a destination, both, or a set of consecutive
registers in one of these roles (R64 to R67). -/
inductive Use where
  | src (s : Sel)
  | dst (s : Sel)
  | rw (s : Sel)
  | srcSet (n : Nat) (s : Sel)
  | dstSet (n : Nat) (s : Sel)
  | rwSet (n : Nat) (s : Sel)
  deriving DecidableEq, Repr

/-- The uses of each instruction's register fields, as its description states them (R66). The d
field of an FMA under HSRC is written only (R90): `Operands.usesWith` accounts for that. -/
def uses : Instr → List Use
  | .add d a b => [.dst d, .src a, .src b]
  | .sub d a b => [.dst d, .src a, .src b]
  | .mul d a b => [.dst d, .src a, .src b]
  | .fma d a b => [.rw d, .src a, .src b]
  | .min d a b => [.dst d, .src a, .src b]
  | .max d a b => [.dst d, .src a, .src b]
  | .abs d a => [.dst d, .src a]
  | .neg d a => [.dst d, .src a]
  | .sadd d a b => [.dst d, .src a, .src b]
  | .ssub d a b => [.dst d, .src a, .src b]
  | .cpsgn d a b => [.dst d, .src a, .src b]
  | .addi d a _ => [.dst d, .src a]
  | .muli d a _ => [.dst d, .src a]
  | .mini d a _ => [.dst d, .src a]
  | .maxi d a _ => [.dst d, .src a]
  | .mulhi d a b => [.dst d, .src a, .src b]
  | .mulhn d a b => [.dst d, .src a, .src b]
  | .div d a b => [.dst d, .src a, .src b]
  | .rem d a b => [.dst d, .src a, .src b]
  | .divn d a b => [.dst d, .src a, .src b]
  | .remn d a b => [.dst d, .src a, .src b]
  | .shl d a b => [.dst d, .src a, .src b]
  | .shr d a b => [.dst d, .src a, .src b]
  | .sra d a b => [.dst d, .src a, .src b]
  | .rol d a b => [.dst d, .src a, .src b]
  | .shli d a _ => [.dst d, .src a]
  | .shri d a _ => [.dst d, .src a]
  | .srai d a _ => [.dst d, .src a]
  | .clz d a => [.dst d, .src a]
  | .popc d a => [.dst d, .src a]
  | .brev d a => [.dst d, .src a]
  | .and d a b => [.dst d, .src a, .src b]
  | .or d a b => [.dst d, .src a, .src b]
  | .xor d a b => [.dst d, .src a, .src b]
  | .andn d a b => [.dst d, .src a, .src b]
  | .orn d a b => [.dst d, .src a, .src b]
  | .not d a => [.dst d, .src a]
  | .andi d a _ => [.dst d, .src a]
  | .ori d a _ => [.dst d, .src a]
  | .xori d a _ => [.dst d, .src a]
  | .sel d a b => [.rw d, .src a, .src b]
  | .bfx d a b => [.dst d, .src a, .src b]
  | .bfi d a b => [.rw d, .src a, .src b]
  | .prmb d a b => [.rw d, .src a, .src b]
  | .lui d _ => [.dst d]
  | .lli d _ => [.rw d]
  | .mov d a => [.dst d, .src a]
  | .divf d a b => [.dst d, .src a, .src b]
  | .rcp d a => [.dst d, .src a]
  | .rsq d a => [.dst d, .src a]
  | .sqrt d a => [.dst d, .src a]
  | .exp2 d a => [.dst d, .src a]
  | .log2 d a => [.dst d, .src a]
  | .sin d a => [.dst d, .src a]
  | .cos d a => [.dst d, .src a]
  | .tanh d a => [.dst d, .src a]
  | .rint d a => [.dst d, .src a]
  | .scalb d a b => [.dst d, .src a, .src b]
  | .fcls d a => [.dst d, .src a]
  | .ceq d a b => [.dst d, .src a, .src b]
  | .cne d a b => [.dst d, .src a, .src b]
  | .clt d a b => [.dst d, .src a, .src b]
  | .cle d a b => [.dst d, .src a, .src b]
  | .cuno d a b => [.dst d, .src a, .src b]
  | .ctag d a _ => [.dst d, .src a]
  | .ceqi d a _ => [.dst d, .src a]
  | .cnei d a _ => [.dst d, .src a]
  | .clti d a _ => [.dst d, .src a]
  | .clei d a _ => [.dst d, .src a]
  | .cgti d a _ => [.dst d, .src a]
  | .cgei d a _ => [.dst d, .src a]
  | .cvt d a _ => [.dst d, .src a]
  | .tagr d a _ => [.dst d, .src a]
  | .tagq d a => [.dst d, .src a]
  | .pack d a b => [.dst d, .src a, .src b]
  | .unpkl d a _ => [.dst d, .src a]
  | .unpkh d a _ => [.dst d, .src a]
  | .sclc d a b => [.dst d, .src a, .src b]
  | .qnt d a b => [.rw d, .src a, .src b]
  | .dqnt d a b => [.rw d, .src a, .src b]
  | .hadm d a _ => [.dst d, .src a]
  | .trpk d a b => [.rw d, .src a, .src b]
  | .trex d a _ => [.dst d, .src a]
  | .lutx d a b => [.dst d, .src a, .src b]
  | .shfl d a b => [.dst d, .src a, .src b]
  | .shflx d a _ => [.dst d, .src a]
  | .shflu d a _ => [.dst d, .src a]
  | .shfld d a _ => [.dst d, .src a]
  | .bcst d a _ => [.dst d, .src a]
  | .vall d a => [.dst d, .src a]
  | .vany d a => [.dst d, .src a]
  | .ballot d a => [.dst d, .src a]
  | .rdadd d a => [.dst d, .src a]
  | .rdmax d a => [.dst d, .src a]
  | .rdmin d a => [.dst d, .src a]
  | .scan d a => [.dst d, .src a]
  | .cmpct d a b => [.dst d, .src a, .src b]
  | .rank d a => [.dst d, .src a]
  | .matchAny d a => [.dst d, .src a]
  | .br _ => []
  | .bnz a _ => [.src a]
  | .bz a _ => [.src a]
  | .brx a => [.src a]
  | .call a _ => [.dst a]
  | .callx d a => [.dst d, .src a]
  | .ret a => [.src a]
  | .exit => []
  | .yield => []
  | .nop => []
  | .idem _ => []
  | .pause => []
  | .lds d a _ _ => [.dst d, .src a]
  | .lds2 d a _ _ => [.dstSet 2 d, .src a]
  | .lds4 d a _ _ => [.dstSet 4 d, .src a]
  | .ldse d a _ _ => [.dst d, .src a]
  | .ldsc d a _ _ => [.dst d, .src a]
  | .ldt d a _ _ => [.dst d, .src a]
  | .ldt2 d a _ _ => [.dstSet 2 d, .src a]
  | .ldt4 d a _ _ => [.dstSet 4 d, .src a]
  | .ldg d a _ _ => [.dst d, .srcSet 2 a]
  | .ldg2 d a _ _ => [.dstSet 2 d, .srcSet 2 a]
  | .ldg4 d a _ _ => [.dstSet 4 d, .srcSet 2 a]
  | .ldga d a _ _ => [.dst d, .srcSet 2 a]
  | .ldp d a _ _ => [.dst d, .src a]
  | .ldta d a _ _ => [.dst d, .src a]
  | .sts d a _ _ => [.src d, .src a]
  | .sts2 d a _ _ => [.srcSet 2 d, .src a]
  | .sts4 d a _ _ => [.srcSet 4 d, .src a]
  | .stsf d a _ _ => [.src d, .src a]
  | .stt d a _ _ => [.src d, .src a]
  | .stt2 d a _ _ => [.srcSet 2 d, .src a]
  | .stt4 d a _ _ => [.srcSet 4 d, .src a]
  | .stg d a _ _ => [.src d, .srcSet 2 a]
  | .stg2 d a _ _ => [.srcSet 2 d, .srcSet 2 a]
  | .stg4 d a _ _ => [.srcSet 4 d, .srcSet 2 a]
  | .stgr d a _ _ => [.src d, .srcSet 2 a]
  | .sttr d a _ _ => [.src d, .src a]
  | .atg d a _ _ => [.src d, .srcSet 2 a]
  | .atgr d a _ _ => [.rw d, .srcSet 2 a]
  | .casg d a _ => [.rwSet 2 d, .srcSet 2 a]
  | .ats d a _ _ => [.src d, .src a]
  | .atsr d a _ _ => [.rw d, .src a]
  | .cass d a _ => [.rwSet 2 d, .src a]
  | .llock d a _ => [.dst d, .srcSet 2 a]
  | .ltry d a _ => [.dst d, .srcSet 2 a]
  | .lunlk d a _ => [.dst d, .srcSet 2 a]
  | .lstat d a _ => [.dst d, .srcSet 2 a]
  | .fence _ => []
  | .fncx _ _ => []
  | .barv d _ => [.dst d]
  | .barvReg d a => [.dst d, .src a]
  | .barw d _ => [.src d]
  | .barwReg d a => [.src d, .src a]
  | .bars d _ => [.dst d]
  | .barsReg d a => [.dst d, .src a]
  | .barq d _ => [.rw d]
  | .barqReg d a => [.rw d, .src a]
  | .cpy d a b => [.rw d, .srcSet 2 a, .srcSet 2 b]
  | .bcpy d a b => [.dst d, .src a, .src b]
  | .tcpy d a b => [.rw d, .src a, .src b]
  | .kvapp d a b => [.dst d, .src a, .src b]
  | .pfg a _ _ => [.srcSet 2 a]
  | .sinv a b => [.srcSet 2 a, .src b]
  | .sflsh a b => [.srcSet 2 a, .src b]
  | .selt d a b => [.rw d, .src a, .src b]
  | .dld d a b => [.rw d, .src a, .src b]
  | .dldl d a b => [.rw d, .src a, .src b]
  | .dswap => []
  | .dstr d a b => [.rw d, .src a, .src b]
  | .dstrn d a b => [.rw d, .src a, .src b]
  | .dzro _ => []
  | .ddrn d a b => [.rw d, .src a, .src b]
  | .ddrq d a b => [.rw d, .src a, .src b]
  | .dgang d a => [.dst d, .srcSet 2 a]
  | .dwait d => [.dst d]
  | .dpass d a => [.dst d, .src a]
  | .spgm d a => [.dst d, .src a]
  | .dscr d a b => [.rw d, .src a, .src b]
  | .smrg d a b => [.rw d, .src a, .src b]
  | .lnch d a => [.dst d, .srcSet 2 a]
  | .lnchs d a b => [.dstSet 2 d, .srcSet 2 a, .src b]
  | .rslv d a b => [.dst d, .src a, .src b]
  | .vsq d a => [.dst d, .src a]
  | .vqry d a => [.dst d, .src a]
  | .waitg d a => [.dst d, .src a]
  | .loc d => [.rw d]
  | .hosti d a => [.dst d, .src a]
  | .srd d _ => [.dst d]
  | .swr d _ => [.src d]
  | .trap _ => []
  | .eret => []
  | .tlwr d a b => [.dst d, .src a, .srcSet 2 b]
  | .kvfrk d a b => [.rw d, .src a, .src b]
  | .migr d a b => [.rw d, .srcSet 2 a, .srcSet 2 b]
  | .ptinv a b => [.srcSet 2 a, .src b]
  | .dieop d a => [.dst d, .src a]
  | .himm _ => []
  | .hsrc src => [.src src]
  | .hrnd _ => []
  | .hord _ _ _ => []
  | .hpol _ => []
  | .hsch _ => []
  | .hoff _ => []
  | .issueSelect _ _ => []
  | .groupSwap _ _ => []
  | .queueThreadIssue _ => []
  | .arrayOpStart _ _ => []
  | .arrayOpComplete _ _ => []
  | .engineCommandComplete _ => []
  | .loadComplete _ => []
  | .pauseEnd _ _ => []
  | .translationWalk _ _ _ => []
  | .lockTimeout _ _ => []
  | .deadlockBroken _ => []
  | .dispatchStep _ => []
  | .stagingComplete _ => []
  | .preemptStarvation _ => []
  | .deferralLimit _ => []
  | .trapSaveTimeout _ => []
  | .teamSave _ => []
  | .teamMigrate _ _ => []
  | .gridComplete _ _ => []
  | .spillwayReclaim _ => []
  | .migrationLineMove _ _ => []
  | .rds _ _ => []
  | .rdx _ _ => []
  | .upg _ _ => []
  | .wb _ _ => []
  | .evc _ _ => []
  | .fwdS _ _ => []
  | .fwdX _ _ => []
  | .inv _ _ => []
  | .data _ _ => []
  | .invack _ _ => []
  | .fack _ => []
  | .done _ _ => []
  | .binv _ _ => []
  | .snoopData _ => []
  | .snoopInvalidate _ => []
  | .snoopCurrent _ => []
  | .hostHalfGrant _ _ _ => []
  | .hostAgentAccess _ _ => []
  | .remoteLoad _ _ _ _ => []
  | .remoteStore _ _ _ _ _ => []
  | .remoteAtomic _ _ _ _ _ _ _ => []
  | .openNotice _ _ _ => []
  | .openNoticeAck _ _ _ => []
  | .commitNotice _ _ _ => []
  | .commitNoticeAck _ _ _ => []
  | .squashNotice _ _ _ => []
  | .dropReport _ => []
  | .peerRefuse _ => []
  | .peerTimeout _ => []
  | .linkDown _ => []
  | .linkTrain _ _ _ _ _ => []
  | .linkProtocolError _ => []
  | .dieOfflineDone _ => []
  | .dieOnlineDone _ _ => []
  | .dieFailure _ => []
  | .reportedError _ _ _ _ => []
  | .heatmapRefresh _ _ => []
  | .thermalThrottle => []
  | .criticalTemperature => []
  | .boot _ _ _ _ => []
  | .mailboxRecovery _ => []
  | .mailboxIdentity => []
  | .mailboxAttestation _ => []
  | .mailboxDomainMap => []
  | .ctxCreate _ => []
  | .ctxTeardown _ => []
  | .ctxTeardownDone _ => []
  | .ctxSwitchOut _ => []
  | .ctxSwitchOutDone _ => []
  | .ctxSwitchIn _ => []
  | .qtStart _ _ => []
  | .qtStop _ => []
  | .qtctlSetFields _ _ => []
  | .errcntClear => []
  | .hostRegisterWrite _ _ _ => []
  | .eventPost => []
  | .storePerformed _ => []
  | .msixVectorUnmask _ => []

/-- The numeric tags (R110). -/
def Tag.numeric : Tag → Bool
  | .int | .nat | .flt | .half2 | .bflt2 | .e4m3q | .e5m2q | .int8q | .e2m1o | .int4o => true
  | .raw | .trit | .scale | .pred | .stat | .void => false

/-- Tag of a code (R17). -/
def tagOf (c : BitVec 4) : Tag :=
  match c.toNat with
  | 0 => .raw | 1 => .int | 2 => .nat | 3 => .flt | 4 => .half2 | 5 => .bflt2 | 6 => .e4m3q | 7 => .e5m2q
  | 8 => .e2m1o | 9 => .int4o | 10 => .trit | 11 => .int8q | 12 => .scale | 13 => .pred | 14 => .stat | _ => .void

/-- Code of a tag (R17). -/
def tagCode : Tag → BitVec 4
  | .raw => 0 | .int => 1 | .nat => 2 | .flt => 3 | .half2 => 4 | .bflt2 => 5 | .e4m3q => 6 | .e5m2q => 7
  | .e2m1o => 8 | .int4o => 9 | .trit => 10 | .int8q => 11 | .scale => 12 | .pred => 13 | .stat => 14 | .void => 15

/-- Values that a description reserves in a field of the word, for a group of the width given (R71
check 8): shift counts (R97), tag and mode codes (R109, R111, R113, R115, R140), the Hadamard order
(R119), the trit byte (R121), lane immediates (R125), the stream mask (R161) and the tile mask
(R203). -/
def reservedField (width : Nat) : Instr → Bool
  | .shli _ _ imm | .shri _ _ imm | .srai _ _ imm => decide (32 ≤ imm.toNat)
  | .ctag _ _ imm => decide (16 ≤ imm.toNat)
  | .cvt _ _ imm => decide (6 ≤ (imm.extractLsb' 5 3).toNat) || !(tagOf (imm.extractLsb' 0 4)).numeric
  | .tagr _ _ imm => decide (15 ≤ imm.toNat)
  | .unpkl _ _ imm | .unpkh _ _ imm => decide (16 ≤ imm.toNat) || !(tagOf (imm.extractLsb' 0 4)).numeric
  | .hadm _ _ imm => decide (2 ≤ imm.toNat) || (imm == 1 && decide (width = 16))
  | .trex _ _ imm => decide (4 ≤ imm.toNat)
  | .shflx _ _ imm | .shflu _ _ imm | .shfld _ _ imm | .bcst _ _ imm => decide (width ≤ imm.toNat)
  | .lds _ _ _ t | .lds2 _ _ _ t | .lds4 _ _ _ t | .ldse _ _ _ t | .ldsc _ _ _ t
  | .ldt _ _ _ t | .ldt2 _ _ _ t | .ldt4 _ _ _ t | .ldg _ _ _ t | .ldg2 _ _ _ t | .ldg4 _ _ _ t
  | .ldga _ _ _ t | .ldp _ _ _ t | .ldta _ _ _ t => t == 15
  | .fncx _ mask => mask == 0
  | .dzro imm => imm == 0 || decide (256 ≤ imm.toNat)
  | _ => false

end Sys2Proof
end

