-- ==== Sys2Proof/Config.lean ====
section
/-! DEFINITION. What the part fixes and the manual leaves open: free values, constants with no body
that nothing can evaluate. Each is named in the assumption log. -/

namespace Sys2Proof

/-- The result of an approximating instruction for an operand, before its bound is applied (R103):
0 RCP, 1 RSQ, 2 EXP2, 3 LOG2, 4 SIN, 5 COS, 6 TANH. One fixed value for each operand. -/
opaque Config.approx : Nat → Word → Word

/-- The scale of a block whose largest magnitude over emax no scale code reaches (R45, log entry 86), by
emax and the magnitude `num / den × 2^exp`. -/
opaque Config.scaleBeyond : Nat → Nat → Nat → Int → BitVec 12

/-- A register value that a trap entry leaves unpredictable (R11), by the counter of free values. -/
opaque Config.freeWord : Nat → Word

/-- The tag code of such a register (R11). -/
opaque Config.freeTag : Nat → BitVec 4

/-- The device serial number of the attestation report (R372). -/
opaque Config.serial : BitVec 128

/-- The SHAKE256 digest of a firmware image (R371, R372), by the image's name. -/
opaque Config.imageDigest : Nat → BitVec 512

/-- The security version of an image (R371, R372). -/
opaque Config.imageVersion : Nat → Word

/-- The image held in module flash (R371). -/
opaque Config.flashImage : Nat

/-- The SHAKE256 digest of the configuration: the vault split, the online dies and the features of
every port (R372). -/
opaque Config.configDigest : BitVec 64 → BitVec 8 → List (BitVec 16) → BitVec 512

/-- The identity public key (R372). -/
opaque Config.identityKey : Vector Byte 1793

/-- Its certificate chain (R372). -/
opaque Config.certChain : List Byte

/-- The Falcon-1024 signature over bytes 0 to 191 of a report (R372). -/
opaque Config.sign : List Byte → Vector Byte 1280

/-- Does an image carry the manufacturer's signature (R371), by the image's name? -/
opaque Config.imageSigned : Nat → Bool

/-- The minimum security version in the fuses (R371). -/
opaque Config.minVersion : Word

/-- Set of a line in its home slice's 1,536 sets and in its directory's 1,024 sets (R275, R341): the manual
gives no index function. -/
opaque Config.l2Set : Nat → Nat
opaque Config.dirSet : Nat → Nat

/-- The hash of a line address that spreads accesses to a peer over its ports (R349). -/
opaque Config.portHash : Nat → Nat

/-- The domain map as the mailbox returns it (R378), from the peers that each UALink port reaches. -/
opaque Config.domainMap : List (List Nat) → List Byte

/-- Word `i` of the part of a save record whose contents R31 and R33 name without giving their places,
from those contents in the order named: 0 team header, 1 group record, 2 plane descriptor. -/
opaque Config.recordWord : Nat → List Word → Nat → Word

/-- EXTRA[1:0] of the fault record of a save that does not fit its area (R335, R376). -/
opaque Config.saveNoFit : BitVec 2

/-- Detail of an event whose type has none stated (R378), by type. -/
opaque Config.eventDetail : Nat → Word

/-- Incarnation byte of an event of a slot or a context, which is no agent (R352, R378), by type. -/
opaque Config.eventInc : Nat → BitVec 8

/-- FAILUNIT of a protocol error on the hop between the base dies (R351, R370, R375). -/
opaque Config.hopUnit : BitVec 8

end Sys2Proof
end

