-- ==== Sys2Proof/Machine/Num.lean ====
section
/-! DEFINITION. Exact arithmetic and the single rounding step of 02_number_formats.md (R35 to R38,
R48 to R54): a magnitude is an exact ratio of naturals times a power of two, and is rounded once to
a format. -/

namespace Sys2Proof.Machine

/-- A set of FLAGS bits to raise (R29, R49). -/
abbrev Fl := BitVec 6

/-- FLAGS.NV -/
def fNV : Fl := 1
/-- FLAGS.DZ -/
def fDZ : Fl := 2
/-- FLAGS.OF -/
def fOF : Fl := 4
/-- FLAGS.UF -/
def fUF : Fl := 8
/-- FLAGS.NX -/
def fNX : Fl := 16
/-- FLAGS.SAT -/
def fSAT : Fl := 32

/-- How the codes with the largest exponent field are read (R35). -/
inductive Special where
  | infNan    -- m = 0 infinity, else NaN
  | nanOnly   -- E4M3: the all-ones code is the one NaN
  | none      -- E2M1: finite throughout
  deriving DecidableEq, Repr

/-- A floating-point format (R35). -/
structure Fmt where
  ebits : Nat
  mbits : Nat
  bias : Nat
  special : Special
  deriving DecidableEq, Repr

def f32 : Fmt := ⟨8, 23, 127, .infNan⟩
def f16 : Fmt := ⟨5, 10, 15, .infNan⟩
def bf16 : Fmt := ⟨8, 7, 127, .infNan⟩
def e5m2 : Fmt := ⟨5, 2, 15, .infNan⟩
def e4m3 : Fmt := ⟨4, 3, 7, .nanOnly⟩
def e2m1 : Fmt := ⟨2, 1, 1, .none⟩

/-- Width of a code without its sign. -/
def Fmt.magBits (f : Fmt) : Nat := f.ebits + f.mbits
/-- Weight of the sign bit. -/
def Fmt.signBit (f : Fmt) : Nat := 2 ^ f.magBits
/-- Code of infinity, in the formats that have one. -/
def Fmt.infCode (f : Fmt) : Nat := (2 ^ f.ebits - 1) * 2 ^ f.mbits
/-- Code of the largest finite value (R36). -/
def Fmt.maxCode (f : Fmt) : Nat :=
  match f.special with
  | .infNan => f.infCode - 1
  | .nanOnly => 2 ^ f.magBits - 2
  | .none => 2 ^ f.magBits - 1
/-- Code of the canonical NaN (R37); E2M1 has none, and 0 stands there. -/
def Fmt.nanCode (f : Fmt) : Nat :=
  match f.special with
  | .infNan => f.infCode + 2 ^ (f.mbits - 1)
  | .nanOnly => 2 ^ f.magBits - 1
  | .none => 0
/-- Exponent of the subnormal grid: the smallest subnormal is 2 to this. -/
def Fmt.qmin (f : Fmt) : Int := 1 - (f.bias : Int) - f.mbits

/-- The magnitude `num / den × 2^exp`; `den` is never 0 in a value the model makes. -/
structure Mag where
  num : Nat
  den : Nat
  exp : Int
  deriving DecidableEq, Repr

/-- What a code stands for: a NaN with its sign and quietness, an infinity, or a finite value
`m × 2^e` with its sign (R35, R37). -/
inductive FVal where
  | nan (neg quiet : Bool) (m : Nat)
  | inf (neg : Bool)
  | fin (neg : Bool) (m : Nat) (e : Int)
  deriving DecidableEq, Repr

/-- The value of a code (R35). -/
def Fmt.decode (f : Fmt) (c : Nat) : FVal :=
  let neg := decide (f.signBit ≤ c)
  let a := c % f.signBit
  let e := a / 2 ^ f.mbits
  let m := a % 2 ^ f.mbits
  if f.special = .infNan ∧ e = 2 ^ f.ebits - 1 then
    if m = 0 then .inf neg else .nan neg (decide (2 ^ (f.mbits - 1) ≤ m)) m
  else if f.special = .nanOnly ∧ a = 2 ^ f.magBits - 1 then .nan neg true m
  else if e = 0 then .fin neg m f.qmin
  else .fin neg (m + 2 ^ f.mbits) (f.qmin + e - 1)

def FVal.isNan : FVal → Bool
  | .nan _ _ _ => true
  | _ => false
def FVal.isSnan : FVal → Bool
  | .nan _ q _ => !q
  | _ => false
def FVal.isInf : FVal → Bool
  | .inf _ => true
  | _ => false
def FVal.isZero : FVal → Bool
  | .fin _ m _ => m == 0
  | _ => false
def FVal.neg : FVal → Bool
  | .nan n _ _ => n
  | .inf n => n
  | .fin n _ _ => n

/-- Does the rounding mode carry a discarded remainder `r` of `d` up to the next integer, for a
magnitude of this sign whose truncation is `q` (R48)? -/
def roundUp (mode : RMode) (neg : Bool) (q r d : Nat) : Bool :=
  match mode with
  | .rne => decide (d < 2 * r) || (decide (2 * r = d) && decide (q % 2 = 1))
  | .rna => decide (d ≤ 2 * r)
  | .rtz => false
  | .rup => !neg && decide (r ≠ 0)
  | .rdn => neg && decide (r ≠ 0)

/-- `num / den × 2^exp` on the grid of multiples of 2^q: the rounded count of grid steps and whether
it is inexact. -/
def roundGrid (mode : RMode) (neg : Bool) (x : Mag) (q : Int) : Nat × Bool :=
  let n := if q ≤ x.exp then x.num * 2 ^ (x.exp - q).toNat else x.num
  let d := if q ≤ x.exp then x.den else x.den * 2 ^ (q - x.exp).toNat
  let k := n / d
  let r := n % d
  (if roundUp mode neg k r d then k + 1 else k, decide (r ≠ 0))

/-- Floor of log2 of a nonzero magnitude. -/
def Mag.log2 (x : Mag) : Int :=
  let k : Int := (Nat.log2 x.num : Int) - Nat.log2 x.den
  let ge := if 0 ≤ k then decide (x.den * 2 ^ k.toNat ≤ x.num) else decide (x.den ≤ x.num * 2 ^ (-k).toNat)
  (if ge then k else k - 1) + x.exp

/-- The magnitude code and flags of an overflow (R50); `sat` is the SAT option. -/
def overflow (f : Fmt) (mode : RMode) (sat neg : Bool) : Nat × Fl :=
  let plainInf := match mode with
    | .rne | .rna => true
    | .rtz => false
    | .rup => !neg
    | .rdn => neg
  match f.special with
  | .infNan =>
    if sat then (f.maxCode, if plainInf then fOF ||| fNX ||| fSAT else fOF ||| fNX)
    else (if plainInf then f.infCode else f.maxCode, fOF ||| fNX)
  | .nanOnly =>
    if sat then (f.maxCode, fOF ||| fNX ||| fSAT)
    else (if plainInf then f.nanCode else f.maxCode, fOF ||| fNX)
  | .none => (f.maxCode, fOF ||| fNX ||| fSAT)

/-- One rounding of an exact nonzero magnitude to a format: code with its sign, and flags (R48 to
R50). A zero magnitude keeps the sign given. -/
def roundMag (f : Fmt) (mode : RMode) (sat neg : Bool) (x : Mag) : Nat × Fl :=
  let s := if neg then f.signBit else 0
  if x.num = 0 then (s, 0)
  else
    let qe := x.log2 - f.mbits
    let q := if qe < f.qmin then f.qmin else qe
    let (n, inexact) := roundGrid mode neg x q
    let code := (q - f.qmin).toNat * 2 ^ f.mbits + n
    if f.maxCode < code then
      let (c, fl) := overflow f mode sat neg
      (s + c, fl)
    else
      let tiny := decide (qe < f.qmin) &&
        (let (n', _) := roundGrid mode neg x qe
         !(decide (n' = 2 ^ (f.mbits + 1)) && decide (qe = f.qmin - 1)))
      (s + code, if inexact then (if tiny then fUF ||| fNX else fNX) else 0)

/-- One rounding of an exact integer times a power of two; `zneg` is the sign of an exact zero. -/
def roundDyadic (f : Fmt) (mode : RMode) (sat zneg : Bool) (m : Int) (e : Int) : Nat × Fl :=
  roundMag f mode sat (if m = 0 then zneg else decide (m < 0)) ⟨m.natAbs, 1, e⟩

/-- A nonzero magnitude rounded to an integer (R48, R51). -/
def roundToInt (mode : RMode) (neg : Bool) (x : Mag) : Int × Bool :=
  let (n, inexact) := roundGrid mode neg x 0
  (if neg then -(n : Int) else n, inexact)

/-- Integer square root by bits: the largest `r` with `r² ≤ n`, for `n < 4^k`. -/
def isqrt (n : Nat) : Nat → Nat
  | 0 => 0
  | k + 1 =>
    let r := 2 * isqrt (n / 4) k
    if (r + 1) * (r + 1) ≤ n then r + 1 else r

/-- The square root of `m × 2^e`, as a magnitude that rounds as the exact root does: the integer
root with 64 further bits and a sticky bit. -/
def sqrtMag (m : Nat) (e : Int) : Mag :=
  let odd := e % 2 ≠ 0
  let m' := if odd then 2 * m else m
  let e' := if odd then e - 1 else e
  let n := m' * 4 ^ 64
  let r := isqrt n (Nat.log2 n / 2 + 1)
  ⟨2 * r + (if r * r = n then 0 else 1), 1, e' / 2 - 65⟩

/-- The sign of an exact zero sum: the common sign of the terms when all are zeros of one sign, else
− under RDN and + otherwise (R48). -/
def zeroSumNeg (mode : RMode) (signs : List Bool) (allZero : Bool) : Bool :=
  if allZero && signs.all id && !signs.isEmpty then true
  else if allZero && signs.all not then false
  else mode == .rdn

/-- An exact finite sum: numerators over one power of two. -/
structure Dy where
  m : Int
  e : Int
  deriving DecidableEq, Repr

def Dy.add (x y : Dy) : Dy :=
  if x.e ≤ y.e then ⟨x.m + y.m * 2 ^ (y.e - x.e).toNat, x.e⟩
  else ⟨x.m * 2 ^ (x.e - y.e).toNat + y.m, y.e⟩
def Dy.mul (x y : Dy) : Dy := ⟨x.m * y.m, x.e + y.e⟩
def Dy.neg (x : Dy) : Dy := ⟨-x.m, x.e⟩
def Dy.zero : Dy := ⟨0, 0⟩
/-- `x < y` of exact values. -/
def Dy.lt (x y : Dy) : Bool := decide ((x.add y.neg).m < 0)
/-- Multiplication by a power of two. -/
def Dy.scale (x : Dy) (k : Int) : Dy := ⟨x.m, x.e + k⟩
def Dy.abs (x : Dy) : Dy := ⟨x.m.natAbs, x.e⟩

/-- The exact value of a finite code. -/
def FVal.dy : FVal → Dy
  | .fin n m e => ⟨if n then -(m : Int) else m, e⟩
  | _ => Dy.zero

/-- The exact sum of terms that may be NaN or infinite (R88, R126, R55): a NaN if any term is one or
if infinities of both signs meet, and the infinity or the exact finite sum otherwise. -/
inductive Sum where
  | nan (invalid : Bool)
  | inf (neg : Bool)
  | fin (x : Dy) (zneg : Bool)
  deriving DecidableEq, Repr

/-- Sum of the terms; `mode` decides the sign of an exact zero (R48). -/
def sumTerms (mode : RMode) (ts : List FVal) : Sum :=
  let pinf := ts.any (· == .inf false)
  let ninf := ts.any (· == .inf true)
  if ts.any FVal.isNan then .nan (pinf && ninf)
  else if pinf && ninf then .nan true
  else if pinf then .inf false
  else if ninf then .inf true
  else
    .fin (ts.foldl (fun a t => a.add t.dy) Dy.zero)
      (zeroSumNeg mode (ts.map FVal.neg) (ts.all FVal.isZero))

/-- Flag NV where a NaN is signaling (R88). -/
def snanFl (ts : List FVal) : Fl := if ts.any FVal.isSnan then fNV else 0

/-- A sum rounded once to a format, with its flags (R48, R88). -/
def Sum.round (f : Fmt) (mode : RMode) : Sum → Nat × Fl
  | .nan inv => (f.nanCode, if inv then fNV else 0)
  | .inf n => ((if n then f.signBit else 0) + f.infCode, 0)
  | .fin x z => roundDyadic f mode false z x.m x.e

/-- The product of two values; `none` is the invalid 0 × ∞ (R88). -/
def FVal.mul (x y : FVal) : Option FVal :=
  match x, y with
  | .nan n q m, _ => some (.nan n q m)
  | _, .nan n q m => some (.nan n q m)
  | .inf a, .inf b => some (.inf (a != b))
  | .inf a, .fin b m _ => if m = 0 then none else some (.inf (a != b))
  | .fin a m _, .inf b => if m = 0 then none else some (.inf (a != b))
  | .fin a m e, .fin b m' e' => some (.fin (a != b) (m * m') (e + e'))

def FVal.negate : FVal → FVal
  | .nan n q m => .nan (!n) q m
  | .inf n => .inf (!n)
  | .fin n m e => .fin (!n) m e

/-- a + b, one rounding (R88, R89). -/
def fAdd (f : Fmt) (mode : RMode) (a b : FVal) : Nat × Fl :=
  let (c, fl) := (sumTerms mode [a, b]).round f mode
  (c, fl ||| snanFl [a, b])

/-- a × b + c, one rounding; an invalid product sets NV even beside a NaN (R88, R90). -/
def fFma (f : Fmt) (mode : RMode) (a b c : FVal) : Nat × Fl :=
  let sn := snanFl [a, b, c]
  match a.mul b with
  | none => (f.nanCode, fNV)
  | some p =>
    let (r, fl) := (sumTerms mode [p, c]).round f mode
    (r, fl ||| sn)

/-- a × b, one rounding (R88, R89). -/
def fMul (f : Fmt) (mode : RMode) (a b : FVal) : Nat × Fl :=
  let sn := snanFl [a, b]
  match a.mul b with
  | none => (f.nanCode, fNV)
  | some (.nan _ _ _) => (f.nanCode, sn)
  | some (.inf n) => ((if n then f.signBit else 0) + f.infCode, sn)
  | some (.fin n m e) => roundMag f mode false n ⟨m, 1, e⟩

/-- Order of values with −0 below +0, for MIN and MAX (R91). -/
def fLtSigned (a b : FVal) : Bool :=
  match a, b with
  | .inf n, .inf n' => n && !n'
  | .inf n, _ => n
  | _, .inf n => !n
  | x, y => x.dy.lt y.dy || (x.isZero && y.isZero && x.neg && !y.neg)

/-- Order by value, −0 = +0 (R108). -/
def fLt (a b : FVal) : Bool :=
  match a, b with
  | .inf n, .inf n' => n && !n'
  | .inf n, _ => n
  | _, .inf n => !n
  | x, y => x.dy.lt y.dy

/-- MIN or MAX on codes of one format (R91). -/
def fMinMax (f : Fmt) (isMax : Bool) (ca cb : Nat) : Nat × Fl :=
  let a := f.decode ca
  let b := f.decode cb
  let fl := snanFl [a, b]
  if a.isNan && b.isNan then (f.nanCode, fl)
  else if a.isNan then (cb, fl)
  else if b.isNan then (ca, fl)
  else if isMax then (if fLtSigned a b then cb else ca, fl)
  else (if fLtSigned b a then cb else ca, fl)

end Sys2Proof.Machine
end

