-- ==== Sys2Proof/Machine/State.lean ====
section
/-! DEFINITION. The state of the machine: every piece of state the manual gives the part, as plain
data (01_machine_state.md and the chapters it names), the state after device reset, and the reasons
a step can stop. INVENTORY.md lists each field with its rule and its reset value. -/

namespace Sys2Proof.Machine

/-- A sparse map from natural keys in one canonical form: keys strictly rising, no entry equal to
the value an unlisted key reads as. The operations that keep it stand in Ops.lean. -/
abbrev Store (α : Type) := List (Nat × α)

/-- Byte-addressed memory: a list of cells in the canonical form of `Store`, where an unlisted
address reads as `Memory.empty`. -/
abbrev Memory := List Host.Cell

/-- What an unlisted byte reads as (DESIGN CHOICE, log entry 1; shared memory and tile allocations:
R268). -/
def Memory.empty : Byte := 0

/-- Trap causes (R235). -/
inductive Cause where
  | illegal | tag | uniform | align | page | prot | scope | specstore
  | trit | barrier | lock | ecc | version | handle | software | preempt
  deriving DecidableEq, Repr

/-- Kinds of trap (R355). -/
inductive Kind where
  | precise | attributed | reported
  deriving DecidableEq, Repr

/-- A trap before it is taken: TRAPCAUSE and TRAPVAL (R356). -/
structure Trap where
  cause : Cause
  sub : Nat
  val : DWord
  kind : Kind := .precise
  deriving DecidableEq, Repr

/-- A register with its tag (R17). -/
structure Reg where
  val : Word
  tag : Tag
  deriving DecidableEq, Repr

/-- A register not written since allocation or restart (R17). -/
def Reg.void : Reg := ⟨0, .void⟩

/-- The hints a thread has pending, with the PC of the first (R72 to R75). -/
structure Hints where
  imm : Option (BitVec 24) := none
  src : Option Sel := none
  rnd : Option RMode := none
  ord : Option (Bool × BitVec 2 × Scope) := none
  pol : Option (BitVec 2) := none
  sch : Option (BitVec 2) := none
  off : Option (BitVec 24) := none
  first : Option Word := none
  deriving DecidableEq, Repr

/-- Why a thread is blocked at its instruction (R30, R135); `latch` is an arrival at the gang latch
(R182), not a blocking instruction of R30, and `rslv` a queue thread whose commit peers have still to
acknowledge (R300). -/
inductive Block where
  | bank | lock | barw | dwait | waitg | latch | rslv
  deriving DecidableEq, Repr

/-- A pending attributed trap: what it reports, the PC it carries, the registers it is held against
(selectors, 0xF8 for `lat`), or the thread's next instruction (R196, R355, R159); for a TRIT trap, the
selector of the DLD's d (R32). -/
structure AttrTrap where
  trap : Trap
  pc : Word
  regs : List Nat
  next : Bool
  sel : Nat := 0
  deriving DecidableEq, Repr

/-- A thread (R9, R10, R13 to R17, R29, R32). Registers are keyed by selector: 0x00 to 0xEF `v`, 0xF0
to 0xF7 `c`, 0xF8 `lat`. -/
structure Thread where
  tid : Nat
  lane : Nat
  pc : Word
  regs : Store Reg := []
  /-- registers whose parity fails, by selector (R358) -/
  parity : List Nat := []
  exited : Bool := false
  inHandler : Bool := false
  block : Option Block := none
  paused : Bool := false
  trapCause : DWord := 0
  trapPc : DWord := 0
  trapVal : DWord := 0
  rndm : DWord := 0
  flags : DWord := 0
  hints : Hints := {}
  passOver : Nat := 0
  attr : List AttrTrap := []
  reported : List Trap := []
  /-- the outstanding operation that is to write `lat`, if the youngest producer is one (R14) -/
  latOwner : Option Nat := none
  /-- in an open idempotent region (R326) -/
  regionOpen : Bool := true
  /-- an IDEM has completed (R133) -/
  checkpointed : Bool := false
  parked : Bool := false
  /-- a PREEMPT save trap is due (R329) -/
  saveDue : Bool := false
  deriving DecidableEq, Repr

/-- Phase count and arrivals of a barrier; an arrival is (`tmid`, `tid`) (R162, R163). -/
structure Bar where
  phase : BitVec 24
  arrived : List (Nat × Nat)
  deriving DecidableEq, Repr

/-- A barrier at the start of a team. -/
def Bar.fresh : Bar := ⟨0, []⟩

/-- A group, or a queue thread as a group of one (R8, R23, R308, R321). -/
structure Group where
  key : GKey
  width : Nat
  nregs : Nat
  threads : List Thread
  vid : Tag16 := 0
  lockTmo : DWord := 0
  held : List Nat := []
  awaited : Option Nat := none
  /-- waiters whose request left its queue while they were absent: thread, line and STAT code, for the
  LLOCK that each issues again (R156) -/
  lockEnded : List (Nat × Nat × Nat) := []
  bars : Store Bar := []
  /-- core of the device, 80 × die + index; the queue core for a queue thread -/
  core : Nat := 0
  /-- on the upper core of a pair -/
  upper : Bool := false
  quad : Nat := 0
  active : Bool := false
  /-- the order in which it became ready in the pending set, while it is ready there (R323) -/
  readyAt : Option Nat := none
  /-- order of residency (R322) -/
  resid : Nat := 0
  priv : Bool := false
  /-- context of a queue thread -/
  qctx : Nat := 0
  deriving DecidableEq, Repr

/-- A stationary plane (R179): values keyed by 256 × row + column, column words by column. -/
structure Plane where
  fmt : Nat
  passes : Nat
  had : Nat
  poison : Bool
  tritBad : Bool
  vals : Store Int
  cols : Store (BitVec 16)
  counts : List Nat
  deriving DecidableEq, Repr

/-- The column word of an all-zero block (R180). -/
def Plane.zeroCol : BitVec 16 := 0x8000

/-- An all-zero block (R180). -/
def Plane.zero : Plane := ⟨0, 0, 0, false, false, [], [], List.replicate 8 0⟩

/-- The score program (R210). -/
structure Score where
  ops : List Word
  k : List Word
  n : Nat
  deriving DecidableEq, Repr

/-- The score program of a new gang (R180). -/
def Score.empty : Score := ⟨List.replicate 16 0, [0, 0, 0, 0], 0⟩

/-- An arrival at the rendezvous latch (R182, R183): the operand values that the instruction reads,
in the order d, a, b, HSRC, and the codebook entries of a DLDL. A DPASS that has issued behind arrivals
of its member waits among them, under the number its results carry (R198). -/
structure Arrival where
  key : GKey
  tids : List Nat
  instr : Instr
  vals : List Word
  book : List Reg
  hints : Hints
  pc : Word
  /-- a DGANG at a forming rendezvous: its list -/
  forming : Option (List Nat)
  /-- a DPASS: the number of its operation -/
  pass : Option Nat := none
  deriving DecidableEq, Repr

/-- The participants of one member at a rendezvous: threads, destination, PC a later trap carries. -/
structure ArrMember where
  key : GKey
  tids : List Nat
  dst : Option Sel
  pc : Word
  deriving DecidableEq, Repr

/-- A gang operation that has passed its rendezvous (R186, R187). -/
structure ArrOp where
  id : Nat
  instr : Instr
  vals : List Word
  book : List Reg
  hints : Hints
  /-- the team, and whether its core is the upper one of a pair: the shared memory it reaches -/
  team : TKey
  upper : Bool
  /-- version of the members -/
  vtag : Tag16
  /-- words captured at the rendezvous, in address order, and the indexes of those that were poisoned -/
  captured : List Word
  capturedBad : List Nat := []
  members : List ArrMember
  /-- STAT, when the operation has started and its effects are made -/
  stat : Option Word
  /-- the list of a re-forming or releasing DGANG -/
  newList : Option (List Nat)
  deriving DecidableEq, Repr

/-- Digit array of a core (R24, R29 GANG). Accumulators are keyed by 16,384 × tile + 256 × row +
column, statistics by 64 × tile + row. -/
structure Arr where
  core : Nat
  owner : Option TKey := none
  gang : DWord := 0xFFFFFFFFFFFF
  /-- the members the latch uses (R421) -/
  latchList : List Nat := []
  active : Plane := Plane.zero
  shadow : Plane := Plane.zero
  acc : Store Word := []
  smax : Store Word := []
  ssum : Store Word := []
  score : Score := Score.empty
  waiting : List Arrival := []
  ops : List ArrOp := []
  deriving DecidableEq, Repr

/-- A request waiting at a shared-memory bank for a full bit (R144). -/
structure BankWait where
  granule : Nat
  addr : Nat
  key : GKey
  tid : Nat
  dst : Sel
  tag : Tag
  clear : Bool
  deriving DecidableEq, Repr

/-- How a team is being or was saved (R332). -/
inductive SaveKind where
  | full | idempotent | handler
  deriving DecidableEq, Repr

/-- Where a team stands. -/
inductive TeamPhase where
  | staging
  | running
  | saved (kind : SaveKind)
  /-- every group has retired; kept until its outstanding operations have completed (R8, R131) -/
  | retired
  deriving DecidableEq, Repr

/-- A team that has been dispatched (R9, R23, R221, R313). While it is saved its groups stand in
`frozen`. -/
structure Team where
  key : TKey
  die : Nat
  core : Nat
  pair : Bool
  phase : TeamPhase
  shared : Memory := []
  /-- poisoned 8-byte units of shared memory (R357, R358) -/
  poison : List Nat := []
  full : Store Bool := []
  bankQ : List BankWait := []
  bars : Store Bar := []
  tileBase : Nat := 0
  tileWords : Nat := 0
  idemBase : DWord := 0
  migrations : Nat := 0
  /-- pre-emption asked for, and the way it is being done (R327, R329) -/
  req : Option SaveKind := none
  order : Nat := 0
  frozen : List Group := []
  /-- digit arrays saved with the team (R31, R33) -/
  frozenArrs : List Arr := []
  /-- offset of the save record in the area, and the order of the save -/
  savedAt : Nat := 0
  saveOrder : Nat := 0
  /-- the words of the header and the group records as they were written (R31, R334) -/
  savedHead : List Word := []
  deriving DecidableEq, Repr

/-- A working-set region (R220). -/
structure Region where
  src : Nat
  dest : Nat
  bytes : Nat
  tile : Bool
  deriving DecidableEq, Repr

/-- A launch record as the part keeps it (R219). -/
structure LaunchRec where
  entry : Word
  width : Nat
  nregs : Nat
  trapMode : Bool
  cls : Nat
  preden : Bool
  autofree : Bool
  queue : Nat
  teams : Nat
  threads : Nat
  spanp : Nat
  spanf : Nat
  shared : Nat
  tile : Nat
  paramb : Nat
  predoff : Nat
  gbars : BitVec 16
  tbars : BitVec 16
  dbars : BitVec 8
  regions : List Region
  vtag : Tag16
  compl : Nat
  deriving DecidableEq, Repr

/-- A grid (R8, R222, R225). -/
structure Grid where
  ctx : Nat
  handle : BitVec 16
  rcd : LaunchRec
  params : Memory
  /-- teams with `tmid` below this have been dispatched or dropped -/
  nextTmid : Nat := 0
  retired : Nat := 0
  trapped : Nat := 0
  notRun : Nat := 0
  firstFault : Option Word := none
  bars : Store Bar := []
  /-- queue threads blocked in WAITG: slot and destination -/
  waiters : List (Nat × Sel) := []
  /-- code the completion word will carry when a cause other than DONE ended the grid -/
  endCode : Option Nat := none
  done : Option Word := none
  deriving DecidableEq, Repr

/-- State of a version number's latest allocation (R231). -/
inductive VState where
  | live | committed | squashed
  deriving DecidableEq, Repr

/-- A version number that has been allocated (R226, R293, R299). -/
structure Ver where
  tag : Tag16
  st : VState
  parent : Tag16
  pred : Word
  age : Nat
  peers : List Nat := []
  /-- peers whose acknowledgement of a notice is awaited -/
  awaiting : List Nat := []
  deriving DecidableEq, Repr

/-- A tensor layout table entry (R170). -/
structure Layout where
  ctx : Nat
  kind : Nat
  opt : Nat
  count : Nat
  base : Nat
  pool : Nat
  hdrs : Nat
  nblk : Nat
  stride : Nat
  rowbytes : Nat
  trows : Nat
  deriving DecidableEq, Repr

/-- The invalid entry. -/
def Layout.invalid : Layout := ⟨0, 0, 0, 0, 0, 0, 0, 0, 0, 0, 0⟩

/-- Where a context stands (R333 to R336, R376); the argument is the device address of the command
block that is being carried out. -/
inductive CtxStatus where
  | active
  | switchingOut (block : Nat)
  | out
  | tearing (block : Nat)
  | lost
  deriving DecidableEq, Repr

/-- A context (R25, R29, R376). -/
structure Ctx where
  id : Nat
  status : CtxStatus := .active
  ptRoot : Nat
  saveBase : Nat
  saveBytes : Nat
  /-- save records that a restore may still read: offset in the area and bytes (R334) -/
  saves : List (Nat × Nat) := []
  faultBase : Nat
  faultLen : Nat
  faultSeq : Word := 0
  vecFirst : Nat
  vecCount : Nat
  codeBase : DWord
  trapVec : DWord := 0
  trapMask : DWord := 1
  preempt : DWord := 0x100
  quota : BitVec 16 := 0x40
  drops : BitVec 16 := 0
  layout : Store Layout := []
  vers : List Ver := []
  /-- committed versions whose copies wait for the peers' acknowledgements before they are merged, latest first
  (R261, R300) -/
  merging : List Tag16 := []
  nextAge : Nat := 0
  ah : List (BitVec 8) := List.replicate 8 128
  /-- generation of each of the 1,024 grid slots -/
  slotGen : Store Nat := []
  /-- queue threads saved by a switch-out, with the offsets of their records -/
  savedQ : List (Group × Nat) := []
  deriving DecidableEq, Repr

/-- A location of a 32-bit word (R245). Global words carry their physical address: device addresses
below 2^39, peer addresses with bit 50 set (R348), host addresses with bit 51 set. -/
inductive Loc where
  | shared (t : TKey) (addr : Nat)
  | tile (word : Nat)
  | global (pa : Nat)
  deriving DecidableEq, Repr

/-- Ordering class of an access's page or space (R251, R282). -/
inductive OrdClass where
  | so | rc | uo
  deriving DecidableEq, Repr

/-- Coherence class (R282). -/
inductive CohClass where
  | dir | self | nc
  deriving DecidableEq, Repr

/-- One word of an access with what its page says of it (R245, R282). -/
structure Acc where
  loc : Loc
  coh : CohClass := .nc
  /-- GRAIN code -/
  grain : Nat := 1
  versioned : Bool := false
  kvpage : Bool := false
  /-- ordering class of its page or space (R251, R253) -/
  ord : OrdClass := .rc
  deriving DecidableEq, Repr

/-- What an outstanding operation does when it is performed. -/
inductive PendKind where
  /-- a load of the words to the registers of `dests` -/
  | load (words : List Acc)
  /-- a store, and the granule STSF sets full -/
  | store (words : List (Acc × Word)) (setFull : Option Nat)
  | atomic (a : Acc) (op : AOp) (tag : Tag) (x : Word) (ret : Bool)
  | cas (a : Acc) (c n : Word) (failAcq : Bool)
  /-- FENCE and FNCX, with the stream mask (R160, R161) -/
  | fence (mask : BitVec 16)
  /-- an engine command: the instruction, its operand values, the HSRC value and the entry read -/
  | engine (i : Instr) (vals : List DWord) (h : Layout)
  /-- a lock instruction that waits for operations of its participants, or for its line: the word it names,
  the participants, and those that still take its STAT, with their destination (R149, R154) -/
  | lock (i : Instr) (a : Acc) (parts : List Nat) (ws : List (Nat × Sel))
  deriving DecidableEq, Repr

/-- A piece of a copying engine command (a row of BCPY or TCPY): the words with their destinations, the addresses of
the pages that it writes, and for a row that Polder may serve its block's header (R272). -/
structure EngPiece where
  words : List (Acc × Acc)
  vas : List Nat := []
  hdr : Option Acc := none
  deriving DecidableEq, Repr

/-- How far a copying command has come: the pieces left and the count of those written (R302 step 4). -/
structure EngProg where
  left : List EngPiece
  wrote : Nat
  deriving DecidableEq, Repr

/-- An outstanding operation of a thread: issued and not yet performed or completed (R14, R59, R166,
R250). -/
structure Pend where
  id : Nat
  key : GKey
  tid : Nat
  pc : Word
  kind : PendKind
  /-- busy destinations: selector and tag, in word order -/
  dests : List (Sel × Tag) := []
  stream : Nat := 0
  acq : Bool := false
  rel : Bool := false
  scope : Scope := .dev
  /-- ordering class of the page or space of its words: an access that straddles pages of different
  classes is outstanding in parts (R251, R253) -/
  ord : OrdClass := .rc
  /-- cache policy (R70, R276) -/
  pol : Nat := 0
  /-- context and version view of the access -/
  ctx : Nat := 0
  vtag : Tag16 := 0
  /-- place of the group that issued it -/
  core : Nat := 0
  upper : Bool := false
  /-- address for a trap it may raise -/
  va : DWord := 0
  /-- the peer device it goes to (R348) -/
  peer : Option Nat := none
  /-- 32-byte sectors whose newest data a die that has failed since held in its L1 (R367) -/
  lost : List Nat := []
  /-- an engine command that has begun -/
  prog : Option EngProg := none
  /-- the first operation of its issue: lanes of one issue group take their places in lane order
  (R147, R267) -/
  batch : Nat := 0
  /-- the participants of an engine command's issue (R254) -/
  lanes : List Nat := []
  deriving DecidableEq, Repr

/-- A lock's holder (R151, R158). -/
structure Holder where
  key : GKey
  ctx : Nat
  vtag : Tag16
  deriving DecidableEq, Repr

/-- A queued lock request: its waiting threads with their destinations (R153, R156). -/
structure LockReq where
  key : GKey
  waiters : List (Nat × Sel)
  ctx : Nat
  vtag : Tag16
  /-- LOCKTMO.LIMIT at issue (R155) -/
  limit : Nat
  present : Bool
  /-- coherence class of its page: the line's data go into the new holder's L1, but on an NC page (R154) -/
  coh : CohClass
  /-- order of arrival, for the walker (R157) -/
  seq : Nat
  deriving DecidableEq, Repr

/-- A lock record at a home slice (R152). -/
structure LockRec where
  line : Nat
  holder : Option Holder
  /-- held pending resolve under this context and version (R158) -/
  pending : Option (Nat × Tag16)
  queue : List LockReq
  deriving DecidableEq, Repr

/-- A party of the scope checker (R258). -/
structure Party where
  key : GKey
  deriving DecidableEq, Repr

/-- A scope checker record (R258). -/
structure ScopeRec where
  line : Nat
  scope : Scope
  party : Party
  deriving DecidableEq, Repr

/-- A translation held by a TLB (R281, R282, R285). -/
structure TlbEnt where
  /-- second level: compute die 0 to 7, or 8 and 9 for the base dies; first level: 16 and the number of
  the core's L1 -/
  unit : Nat
  ctx : Nat
  vbase : Nat
  size : Nat
  pte : DWord
  /-- address of the leaf entry read -/
  leafAt : Nat
  /-- D was 1 when the entry was filled or set since (R284) -/
  dirty : Bool
  deriving DecidableEq, Repr

/-- A pointer entry held by a walk cache (R285): the level it was read at, 1 to 3, the virtual addresses it
covers, as their quotient by the bytes an entry of that level covers, and the table it names. -/
structure WalkEnt where
  unit : Nat
  ctx : Nat
  lvl : Nat
  vpart : Nat
  table : Nat
  deriving DecidableEq, Repr

/-- A 64-byte block of code in a core's instruction cache (R76), by context and physical block. -/
structure CodeLine where
  core : Nat
  ctx : Nat
  block : Nat
  words : List Word
  deriving DecidableEq, Repr

/-- A tag of a cache (R275, R276): an L1's 512-byte line, or a home slice's 128-byte line, which may be a
version's copy; the keep mark; the valid 32-byte sectors. A list of tags is in order of use, most recent first. -/
structure CacheEnt where
  unit : Nat
  line : Nat
  copy : Option (Nat × Tag16) := none
  keep : Bool := false
  sectors : BitVec 16 := 0
  deriving DecidableEq, Repr

/-- A version's copy of a line (R295): words by index, written mask. -/
structure LineCopy where
  ctx : Nat
  tag : Tag16
  line : Nat
  mask : BitVec 32
  words : Store Word
  /-- its poisoned 32-byte sectors (R357) -/
  poison : BitVec 4 := 0
  pool : Bool
  /-- copy made for a peer's version: the source device -/
  src : Option Nat := none
  deriving DecidableEq, Repr

/-- A page being migrated or split (R286, R288): its frames, the lines that stand at the new frame, the
next line to examine, the way the lines go, and the destination register waiting for the system word. -/
structure Migr where
  ctx : Nat
  va : Nat
  size : Nat
  old : Nat
  new : Nat
  there : Store Bool := []
  next : Nat := 0
  /-- to the new frame; false when a split page's lines go back -/
  toNew : Bool := true
  /-- false for a page left split by an uncorrectable error -/
  running : Bool := true
  dst : Option (GKey × Sel) := none
  deriving DecidableEq, Repr

/-- A Polder entry (R272, R273): the vault that holds it, valid sectors, class, in order of use in `MemSys.polder`. -/
structure PolderEnt where
  die : Nat
  vault : Nat
  block : Nat
  sectors : BitVec 8
  shared : Bool
  deriving DecidableEq, Repr

/-- A vault, as tile addresses name it, that an evacuation copies, or has copied, from one place to another (R365). -/
structure VaultMove where
  die : Nat
  vault : Nat
  fromDie : Nat
  fromVault : Nat
  toDie : Nat
  toVault : Nat
  /-- its 128-byte blocks that stand at the new place, lowest first (R286) -/
  moved : Nat := 0
  deriving DecidableEq, Repr

/-- Words of an abandoned team's allocation that were lost with a die (R367), by context. -/
structure LostTile where
  ctx : Nat
  die : Nat
  base : Nat
  words : Nat
  deriving DecidableEq, Repr

/-- Memories, translations, version copies. -/
structure MemSys where
  ram : Memory := []
  tile : Memory := []
  /-- 32-byte sectors of global memory and tile words marked poisoned, as addresses over 32 and word
  addresses (R357) -/
  poison : List Nat := []
  tilePoison : List Nat := []
  tlb : List TlbEnt := []
  walks : List WalkEnt := []
  icache : List CodeLine := []
  /-- tags of the home slices (R275) -/
  l2 : List CacheEnt := []
  copies : List LineCopy := []
  migr : List Migr := []
  polder : List PolderEnt := []
  vaults : List VaultMove := []
  /-- 64-byte halves of host lines lost with the port that carried them (R346) -/
  lost : List Nat := []
  /-- tile words of live versions' allocations that their subtrees have written, and what versions outside them,
  or 0, have written to such words: version, word, value (R260, R298) -/
  tileMine : List Nat := []
  tileOver : List (Tag16 × Nat × Word) := []
  tileLost : List LostTile := []
  deriving DecidableEq, Repr

/-- Directory states (R341). -/
inductive DirSt where
  | i | s | e | m | o
  deriving DecidableEq, Repr

/-- Messages of the coherence protocol (R342, R343). -/
inductive MsgKind where
  | rds | rdx | upg | wb | evc | fwdS | fwdX | inv | data | invack | fack | done | binv
  deriving DecidableEq, Repr

/-- A message in flight. `die` is the die it names: the sender of a request, the receiver of an FWD,
INV, DATA or BINV. `req` is the requester a forward or an invalidation answers to. -/
structure Msg where
  kind : MsgKind
  die : Nat
  line : Nat
  req : Nat := 0
  grant : DirSt := .i
  acks : Nat := 0
  words : Store Word := []
  /-- marks of the data's 32-byte sectors (R357) -/
  poison : BitVec 4 := 0
  /-- the data are newer than those of L2 -/
  dirty : Bool := false
  /-- cache policy of the access that a request is for (R276) -/
  pol : Nat := 0
  /-- the sender's incarnation (R352) -/
  inc : BitVec 8 := 0
  from_ : Nat := 8
  deriving DecidableEq, Repr

/-- A directory entry with its busy transaction and its waiting requests (R341, R342); the busy number is
the requesting die, or 8 while the entry is back-invalidated (R343). -/
structure DirEnt where
  line : Nat
  st : DirSt
  owner : Option Nat
  sharers : List Nat
  busy : Option Nat
  waiting : List Msg
  deriving DecidableEq, Repr

/-- A die's copy of a line, or of a 64-byte half of a host line (R344), with the cores that hold it as the
die filter records them, and the one among them that holds it writable (R341). -/
structure DieCopy where
  die : Nat
  line : Nat
  st : DirSt
  words : Store Word
  cores : List Nat := []
  writer : Option Nat := none
  /-- its poisoned 32-byte sectors (R357) -/
  poison : BitVec 4 := 0
  deriving DecidableEq, Repr

/-- A die's request in progress: data and grant once DATA has come, acknowledgements expected and
received (R342). -/
structure Miss where
  die : Nat
  line : Nat
  excl : Bool
  data : Option (DirSt × Store Word)
  acksNeeded : Option Nat
  acksGot : Nat
  /-- the data that have come are newer than those of L2, and the marks of their sectors (R357) -/
  dirty : Bool := false
  poison : BitVec 4 := 0
  deriving DecidableEq, Repr

/-- A SELF line in a core's L1 (R337, R339): the sectors held, the words, the words written. -/
structure SelfLine where
  core : Nat
  line : Nat
  valid : BitVec 32
  dirty : BitVec 32
  words : Store Word
  /-- its poisoned 32-byte sectors (R357) -/
  poison : BitVec 4 := 0
  /-- the threads that wrote its dirty words (R257) -/
  writers : List (GKey × Nat) := []
  deriving DecidableEq, Repr

/-- A unit that a core's L1 is still to be filled with: of the fill unit of a miss, or asked for by a PFG (R177,
R338); the sectors of its 512-byte line that it brings. -/
structure Fill where
  die : Nat
  unit : Nat
  core : Nat
  pol : Nat
  sectors : BitVec 16
  deriving DecidableEq, Repr

/-- A host line that a PFG asked for before the host had granted its halves (R177, R344): its address, the halves
that the fill reads, and the core whose L1 takes it as a SELF line, or none for L2 alone. -/
structure Ask where
  pa : Nat
  halves : List Nat
  core : Option Nat
  pol : Nat
  grain : Nat
  deriving DecidableEq, Repr

/-- A 64-byte half of a host line in the device (R344). -/
structure Half where
  half : Nat
  st : DirSt
  words : Store Word
  deriving DecidableEq, Repr

/-- Copies of global lines and the messages about them. -/
structure Coh where
  dir : List DirEnt := []
  copies : List DieCopy := []
  miss : List Miss := []
  /-- fills that no access waits for -/
  fills : List Fill := []
  asks : List Ask := []
  msgs : List Msg := []
  /-- units whose directory or filter entry was lost while they were busy (R358) -/
  broken : List Nat := []
  self : List SelfLine := []
  /-- tags of the L1s (R275) -/
  l1 : List CacheEnt := []
  halves : List Half := []
  deriving DecidableEq, Repr

/-- State of a queue-thread slot (R377 STATE). -/
inductive QtState where
  | idle | running | trapped | held | lost
  deriving DecidableEq, Repr

/-- QTCTL of a slot (R377). -/
structure QtCtl where
  st : QtState
  priv : Bool
  nregs : BitVec 8
  ctx : BitVec 16
  entry : Word
  deriving DecidableEq, Repr

/-- QTCTL at reset. -/
def QtCtl.zero : QtCtl := ⟨.idle, false, 0, 0, 0⟩

/-- State of a compute die (R243). -/
inductive DieSt where
  | online | goingOffline | offline | comingOnline
  deriving DecidableEq, Repr

/-- A device event (R378). -/
structure Event where
  type : Nat
  unit : Nat
  inc : BitVec 8
  detail : Word
  deriving DecidableEq, Repr

/-- A port: link state and what training agreed (R373, R378); the peers it reaches (UALink). -/
structure Port where
  up : Bool
  lanes : BitVec 6
  rate : BitVec 8
  /-- the features agreed, with their versions (R373) -/
  feats : List Feature
  inc : BitVec 8
  peers : List Nat
  deriving DecidableEq, Repr

/-- A port before training. -/
def Port.down : Port := ⟨false, 0, 0, [], 0, []⟩

/-- Registers and units of the device. -/
structure Device where
  failUnit : BitVec 8 := 0
  boot : BitVec 4 := 1
  evOvf : Bool := false
  fatal : Bool := false
  ready : Bool := false
  vaultSplit : List Nat := List.replicate 8 0
  softErrors : BitVec 32 := 0
  deadMsgs : BitVec 16 := 0
  dropped : BitVec 16 := 0
  ctxCmd : DWord := 0
  evqBase : DWord := 0
  evqHead : BitVec 16 := 0
  evqTail : BitVec 16 := 0
  /-- events not yet in the ring, each with its count of events posted -/
  heldEvents : List (Event × DWord) := []
  posted : DWord := 0
  qtctl : List QtCtl := List.replicate 64 QtCtl.zero
  dies : List DieSt := List.replicate 8 .offline
  dieInc : List (BitVec 8) := List.replicate 8 0
  ports : List Port := List.replicate 24 Port.down
  heatmap : List DWord := List.replicate 8 0
  /-- features agreed on the mesh hops: those of the compute dies, then the one between the base dies (R351, R373) -/
  hops : List (List Feature) := List.replicate 9 []
  /-- host ports of the interleave, in order (R280), and bytes of host memory (R280, R373) -/
  hostPorts : List Nat := []
  hostBytes : Nat := 0
  /-- number of this device in its load-store domain (R348, R378) -/
  number : Nat := 0
  /-- the MSI-X table, its pending bits, and the messages sent: vector, address, data (R233, R376) -/
  msix : Store MsixEntry := []
  msixPending : List Nat := []
  msixSent : List (Nat × DWord × Word) := []
  /-- firmware image running, and the last mailbox reply (R371, R372) -/
  image : Option Nat := none
  reply : List Byte := []
  throttled : Bool := false
  deriving DecidableEq, Repr

/-- Queues and distributor (R311, R312, R317). -/
structure Dist where
  prio : List (BitVec 3) := (List.range 64).map (fun q => BitVec.ofNat 3 (q / 8))
  cls : List (BitVec 3) := (List.range 64).map (fun q => BitVec.ofNat 3 q)
  /-- grids (context, handle) of each queue in order of entry, all queues in one list -/
  entered : List (Nat × Nat) := []
  lastServed : List Nat := List.replicate 8 63
  lastQt : List Nat := List.replicate 8 7
  /-- last group issued in a quadrant, keyed by 4 × core + quadrant, as its place of residency -/
  lastGroup : Store Nat := []
  order : Nat := 0
  deriving DecidableEq, Repr

/-- A version tag that a peer has opened here (R299). -/
structure OpenTag where
  src : Nat
  ctx : Nat
  tag : Tag16
  deriving DecidableEq, Repr

/-- Notices and reports between this device and its peers. -/
structure PeerSys where
  /-- tags open here for versions of peers -/
  opened : List OpenTag := []
  /-- drop reports sent back: source device and context -/
  reports : List (Nat × Nat) := []
  /-- notices sent and not yet acknowledged: peer, context, tag -/
  openSent : List (Nat × Nat × Tag16) := []
  commitSent : List (Nat × Nat × Tag16) := []
  squashSent : List (Nat × Nat × Tag16) := []
  /-- acknowledgements sent back to peers: source, context, tag -/
  acks : List (Nat × Nat × Tag16) := []
  /-- open notices acknowledged: peer, context, tag -/
  openAcked : List (Nat × Nat × Tag16) := []
  /-- peers declared dead, with their incarnation -/
  inc : Store (BitVec 8) := []
  /-- stores of squashed versions still on their way: peer, context, tag (R302 step 7) -/
  lateStores : List (Nat × Nat × Tag16) := []
  /-- operations that failed with their peer, whose answers may still come (R352) -/
  late : List Nat := []
  /-- data last returned to the host or to a peer, with their poison mark (R344, R347, R357) -/
  reply : List Word := []
  replyPoison : Bool := false
  deriving DecidableEq, Repr

/-- The issue group chosen and about to run its instruction (R135). -/
structure Issue where
  key : GKey
  tids : List Nat
  deriving DecidableEq, Repr

/-- The machine. `cur`, `agenda`, `turn`, `free` and `next` are the model's own: the issue group about to
run; `agenda` and `turn`, the order in which agents move (log entry 3); the counter of free values (log
entry 6); the counter of outstanding operations. -/
structure State where
  cur : Option Issue := none
  agenda : List Instr := []
  turn : Nat := 0
  free : Nat := 0
  next : Nat := 0
  ctxs : List Ctx := []
  grids : List Grid := []
  teams : List Team := []
  groups : List Group := []
  arrs : List Arr := []
  pends : List Pend := []
  locks : List LockRec := []
  scopes : List ScopeRec := []
  mem : MemSys := {}
  coh : Coh := {}
  dev : Device := {}
  dist : Dist := {}
  peer : PeerSys := {}
  deriving DecidableEq, Repr

/-- Why the machine stops with a fault. The manual's own faults are traps, STAT words, system words
and fault records, all of which are next states. -/
inductive Fault where
  /-- Raised by the meaning of an encoded instruction in a state in which no issue group has been
  chosen: there is no thread to run it. In a run that needs an agenda which names an encoded instruction,
  and no agent's step is one. Safe: the model stops and no claim about a next state holds of it. -/
  | noIssueGroup
  deriving DecidableEq, Repr

/-- Why an instruction has no meaning. -/
inductive Refusal where
  /-- Raised by `exec` for an instruction that has no meaning yet. Safe. -/
  | notModelled (mnemonic : String)
  deriving DecidableEq, Repr

/-- The machine right after device reset (R9, R29, R371, R375, R377): the boot ROM is in step 1, no
context, grid, team or thread exists, every register at the value INVENTORY.md gives. -/
def State.reset : State := {}

end Sys2Proof.Machine
end

