-- ==== Sys2Proof/Machine/Base.lean ====
section
/-! DEFINITION. The smallest operations over the state: sparse stores, little-endian memory words,
finding and replacing groups, threads, teams, grids and contexts, reading and writing registers, and
the coherent value of a global word. -/

namespace Sys2Proof

/-- The team of a kernel group. -/
def GKey.team : GKey → Option TKey
  | .kernel c g t _ => some ⟨c, g, t⟩
  | .queue _ => none

def GKey.isQueue : GKey → Bool
  | .queue _ => true
  | .kernel _ _ _ _ => false

/-- `gid` of a group; 0 for a queue thread (R308). -/
def GKey.gid : GKey → Nat
  | .kernel _ _ _ g => g
  | .queue _ => 0

/-- `tmid` of a group; 0 for a queue thread (R308). -/
def GKey.tmid : GKey → Nat
  | .kernel _ _ t _ => t
  | .queue _ => 0

end Sys2Proof

namespace Sys2Proof.Machine

/-! Sparse stores in canonical form. -/

/-- The value at a key; `d` is what an unlisted key reads as. -/
def Store.get {α : Type} (d : α) : Store α → Nat → α
  | [], _ => d
  | (k', v) :: r, k => if k = k' then v else Store.get d r k

/-- Every entry of a key removed. -/
def Store.erase {α : Type} : Store α → Nat → Store α
  | [], _ => []
  | (k', v) :: r, k => if k' = k then Store.erase r k else (k', v) :: Store.erase r k

/-- Writing a value: the list stays rising, and writing the default removes the entry. -/
def Store.set {α : Type} [DecidableEq α] (d : α) : Store α → Nat → α → Store α
  | [], k, v => if v = d then [] else [(k, v)]
  | (k', v') :: r, k, v =>
    if k < k' then (if v = d then Store.erase ((k', v') :: r) k else (k, v) :: (k', v') :: r)
    else if k = k' then (if v = d then Store.erase r k else (k, v) :: r)
    else (k', v') :: Store.set d r k v

/-- The canonical form: every key above `lo`, rising, and no entry equal to the default. -/
def Store.wfFrom {α : Type} [DecidableEq α] (d : α) : Nat → Store α → Bool
  | _, [] => true
  | lo, (k, v) :: r => decide (lo ≤ k) && decide (v ≠ d) && Store.wfFrom d (k + 1) r

/-- The canonical form of a store. -/
def Store.wf {α : Type} [DecidableEq α] (d : α) (m : Store α) : Bool := Store.wfFrom d 0 m

/-- The canonical form of memory: addresses strictly rising, no cell equal to what an unlisted
address reads as. -/
def Memory.wf (m : Memory) : Bool := Store.wf Memory.empty m

/-- One byte of memory. -/
def Memory.read (m : Memory) (a : Nat) : Byte := Store.get Memory.empty m a
/-- Writing one byte. -/
def Memory.write (m : Memory) (a : Nat) (b : Byte) : Memory := Store.set Memory.empty m a b

/-- A 32-bit word, little-endian (R3). -/
def Memory.readWord (m : Memory) (a : Nat) : Word :=
  wordOfBytes (m.read a) (m.read (a + 1)) (m.read (a + 2)) (m.read (a + 3))

/-- Writing a 32-bit word, little-endian (R3). -/
def Memory.writeWord (m : Memory) (a : Nat) (w : Word) : Memory :=
  (((m.write a (w.extractLsb' 0 8)).write (a + 1) (w.extractLsb' 8 8)).write (a + 2)
    (w.extractLsb' 16 8)).write (a + 3) (w.extractLsb' 24 8)

/-- Writing consecutive words. -/
def Memory.writeWords (m : Memory) (a : Nat) : List Word → Memory
  | [] => m
  | w :: r => Memory.writeWords (m.writeWord a w) (a + 4) r

/-- Element of a list by index, with a default. -/
def nth {α : Type} (l : List α) (i : Nat) (d : α) : α := l.getD i d

/-! Finding and replacing. -/

def State.group? (s : State) (k : GKey) : Option Group := s.groups.find? (fun g => decide (g.key = k))

/-- Replace every group of the same key. -/
def State.setGroup (s : State) (g : Group) : State :=
  { s with groups := s.groups.map (fun x => if x.key = g.key then g else x) }

def State.modGroup (s : State) (k : GKey) (f : Group → Group) : State :=
  { s with groups := s.groups.map (fun x => if x.key = k then f x else x) }

def Group.thread? (g : Group) (tid : Nat) : Option Thread := g.threads.find? (fun t => decide (t.tid = tid))

def Group.modThread (g : Group) (tid : Nat) (f : Thread → Thread) : Group :=
  { g with threads := g.threads.map (fun t => if t.tid = tid then f t else t) }

/-- Change one thread of one group. -/
def State.modThread (s : State) (k : GKey) (tid : Nat) (f : Thread → Thread) : State :=
  s.modGroup k (fun g => g.modThread tid f)

/-- Change the threads named. -/
def State.modThreads (s : State) (k : GKey) (tids : List Nat) (f : Thread → Thread) : State :=
  s.modGroup k (fun g => { g with threads := g.threads.map (fun t => if t.tid ∈ tids then f t else t) })

def State.thread? (s : State) (k : GKey) (tid : Nat) : Option Thread :=
  match s.group? k with
  | some g => g.thread? tid
  | none => none

def State.team? (s : State) (k : TKey) : Option Team := s.teams.find? (fun t => decide (t.key = k))

def State.modTeam (s : State) (k : TKey) (f : Team → Team) : State :=
  { s with teams := s.teams.map (fun x => if x.key = k then f x else x) }

def State.teamOf? (s : State) (k : GKey) : Option Team :=
  match k.team with
  | some t => s.team? t
  | none => none

def State.grid? (s : State) (ctx handle : Nat) : Option Grid :=
  s.grids.find? (fun g => decide (g.ctx = ctx) && decide (g.handle.toNat = handle))

def State.modGrid (s : State) (ctx handle : Nat) (f : Grid → Grid) : State :=
  { s with grids := s.grids.map (fun g => if g.ctx = ctx ∧ g.handle.toNat = handle then f g else g) }

def State.ctx? (s : State) (id : Nat) : Option Ctx := s.ctxs.find? (fun c => decide (c.id = id))

def State.modCtx (s : State) (id : Nat) (f : Ctx → Ctx) : State :=
  { s with ctxs := s.ctxs.map (fun c => if c.id = id then f c else c) }

/-- The context a group belongs to. -/
def Group.ctx (g : Group) : Nat :=
  match g.key with
  | .kernel c _ _ _ => c
  | .queue _ => g.qctx

/-- The groups of a team. -/
def State.teamGroups (s : State) (t : TKey) : List Group :=
  s.groups.filter (fun g => decide (g.key.team = some t))

/-- Digit array of a core; one that no gang has touched is at its reset values. -/
def State.arr (s : State) (core : Nat) : Arr :=
  match s.arrs.find? (fun a => decide (a.core = core)) with
  | some a => a
  | none => { core := core }

def State.setArr (s : State) (a : Arr) : State :=
  { s with arrs := a :: s.arrs.filter (fun x => decide (x.core ≠ a.core)) }

/-- The compute die of a core number. -/
def dieOf (core : Nat) : Nat := core / 80

/-- The L1 of a group, by number: its core's, or its queue core's. -/
def Group.l1 (g : Group) : Nat := if g.key.isQueue then 640 + g.core else g.core

/-- The first-level TLB that serves a group: its core's (R285). -/
def Group.tlbUnit (g : Group) : Nat := 16 + g.l1

/-- The second-level TLB behind a unit: its die's, or its base die's for a queue core; a unit below 16 is
itself one (R285). -/
def tlbDie (unit : Nat) : Nat :=
  if unit < 16 then unit else if unit < 656 then (unit - 16) / 80 else 8 + (unit - 656) / 4

/-! Registers. -/

/-- A register as it stands in the thread, by selector below 0xF9. -/
def Thread.reg (t : Thread) (sel : Nat) : Reg := Store.get Reg.void t.regs sel

/-- Reading an operand selector (R15, R64); `zero` reads as INT here, and value sources give it its
tag in Operands.lean. -/
def readSel (g : Group) (t : Thread) (s : Sel) : Reg :=
  let n := s.toNat
  if n < 0xF9 then t.reg n
  else if n = 0xF9 then ⟨0, .int⟩
  else if n = 0xFA then ⟨BitVec.ofNat 32 t.tid, .nat⟩
  else if n = 0xFB then ⟨BitVec.ofNat 32 t.lane, .nat⟩
  else if n = 0xFC then ⟨BitVec.ofNat 32 g.key.gid, .nat⟩
  else if n = 0xFD then ⟨BitVec.ofNat 32 g.key.tmid, .nat⟩
  else if n = 0xFE then ⟨g.vid.setWidth 32, .nat⟩
  else Reg.void

/-- Attributed traps stop being held against an overwritten register, and are dropped when no
register holds the result (R196, R355). -/
def dropAttr (sel : Nat) (l : List AttrTrap) : List AttrTrap :=
  (l.map (fun a => { a with regs := a.regs.filter (fun r => decide (r ≠ sel)) })).filter
    (fun a => a.next || !a.regs.isEmpty)

/-- Is the thread in a PREEMPT handler, and is it the restore one (R329, R330)? -/
def Thread.inPreempt (t : Thread) (sub : BitVec 8) : Bool :=
  t.inHandler && t.trapCause.extractLsb' 0 8 == 0x13#8 && t.trapCause.extractLsb' 16 8 == sub

/-- Writing one register by selector below 0xF9, with its tag: its parity is good again (R358). Writes of a
handler that saves or restores the thread drop no pending trap (R196). -/
def Thread.setReg (t : Thread) (sel : Nat) (r : Reg) : Thread :=
  { t with
    regs := Store.set Reg.void t.regs sel r, parity := t.parity.filter (fun n => decide (n ≠ sel))
    attr := if t.inPreempt 1 || t.inPreempt 2 then t.attr else dropAttr sel t.attr }

/-- Writing a result to a destination selector: the register and `lat`; 0xF8 writes `lat` only and
0xF9 discards (R14, R65). The result is the youngest, so no outstanding operation writes `lat`. -/
def Thread.result (t : Thread) (d : Sel) (r : Reg) : Thread :=
  if d.toNat < 0xF8 then { (t.setReg d.toNat r).setReg 0xF8 r with latOwner := none }
  else if d.toNat = 0xF8 then { t.setReg 0xF8 r with latOwner := none }
  else t

/-- Writing a register of a set other than the first: no write of `lat` (R14). -/
def Thread.resultMore (t : Thread) (d : Sel) (r : Reg) : Thread :=
  if d.toNat < 0xF8 then t.setReg d.toNat r else t

/-- Raising sticky FLAGS bits (R29). -/
def Thread.raise (t : Thread) (f : Fl) : Thread :=
  if f = 0 then t else { t with flags := t.flags ||| f.setWidth 64 }

/-- The PC a trap of the instruction carries: the first hint's, or its own (R74). -/
def Thread.seqPc (t : Thread) : Word := t.hints.first.getD t.pc

/-- On to the next word, with no hint pending (R16: the PC wraps). -/
def Thread.advance (t : Thread) : Thread := { t with pc := t.pc + 4, hints := {} }

/-- A taken transfer (R130). -/
def Thread.goto (t : Thread) (pc : Word) : Thread := { t with pc := pc, hints := {} }

/-- Rounding mode in force: HRND or RNDM.MODE (R48, R73). Reserved codes are never stored (R27). -/
def Thread.mode (t : Thread) : RMode :=
  match t.hints.rnd with
  | some m => m
  | none => (rmodeOf (t.rndm.extractLsb' 0 3)).getD .rne

/-- RNDM.FLUSH (R52). -/
def Thread.flush (t : Thread) : Bool := t.rndm.getLsbD 3

/-- Is the selector's register allocated under R10? Only `v` selectors can fail. -/
def allocated (nregs : Nat) (sel : Nat) : Bool :=
  decide (240 ≤ sel) || decide (sel < nregs) || decide (232 ≤ sel)

/-! Coherent values of global words: the value at the location's serialisation point (R247), wherever
the copies of a DIR line or a host half stand. -/

/-- The 128-byte line of an address. -/
def lineOf (pa : Nat) : Nat := pa / 128 * 128

/-- Physical addresses as the model keys them: host addresses have bit 51 set, peer addresses bit 50. -/
def hostBit : Nat := 2 ^ 51
/-- Peer addresses (R348). -/
def peerBit : Nat := 2 ^ 50

/-- What the directory keeps one entry for: a device line, or a half of a host line (R341, R344). -/
def cohUnit (pa : Nat) : Nat := if hostBit ≤ pa then pa / 64 * 64 else lineOf pa

/-- Words of a directory unit. -/
def unitWords (unit : Nat) : Nat := if hostBit ≤ unit then 16 else 32

/-- Index of a word in its directory unit. -/
def unitIdx (pa : Nat) : Nat := (pa - cohUnit pa) / 4

/-! Poison marks of global sectors (R357). -/

/-- Is the 32-byte sector of an address marked poisoned? -/
def State.poisoned (s : State) (pa : Nat) : Bool := decide (pa / 32 ∈ s.mem.poison)

/-- The marks of those words. -/
def Coh.dirtyMarks (c : Coh) (line : Nat) : Option (BitVec 4) :=
  match c.copies.find? (fun x => decide (x.line = line) && (x.st == .m || x.st == .o || x.st == .e)) with
  | some x => some x.poison
  | none =>
    match c.miss.find? (fun x => decide (x.line = line) && x.data.isSome) with
    | some x => some x.poison
    | none => (c.msgs.find? (fun x => decide (x.line = line) && x.kind == .data)).map Msg.poison

/-- Is the value of a word at its serialisation point marked (R357)? The mark travels with the data that give it, as
`Coh.dirtyWords` finds them. -/
def State.marked (s : State) (pa : Nat) : Bool :=
  match s.coh.dirtyMarks (cohUnit pa) with
  | some p => p.getLsbD ((pa - cohUnit pa) / 32)
  | none => s.poisoned pa

/-- Mark or clear sectors. -/
def State.setPoison (s : State) (sectors : List Nat) : State :=
  { s with mem := { s.mem with poison := sectors.filter (fun x => !decide (x ∈ s.mem.poison)) ++ s.mem.poison } }
def State.clearPoison (s : State) (sectors : List Nat) : State :=
  { s with mem := { s.mem with poison := s.mem.poison.filter (fun x => !decide (x ∈ sectors)) } }

/-- The sectors that a run of words covers whole. -/
def runSectors (pa n : Nat) : List Nat :=
  (List.range ((pa + 4 * n) / 32 - (pa + 31) / 32)).map (fun k => (pa + 31) / 32 + k)

/-- The words in flight or held dirty for a line, if any: an owner's copy, an owner's data on its way
to a requester. -/
def Coh.dirtyWords (c : Coh) (line : Nat) : Option (Store Word) :=
  match c.copies.find? (fun x => decide (x.line = line) && (x.st == .m || x.st == .o || x.st == .e)) with
  | some x => some x.words
  | none =>
    match c.miss.find? (fun x => decide (x.line = line) && x.data.isSome) with
    | some x => x.data.map Prod.snd
    | none =>
      match c.msgs.find? (fun x => decide (x.line = line) && x.kind == .data) with
      | some x => some x.words
      | none => none

/-- The device's copy of a host half, if it holds one (R344). -/
def Coh.half? (c : Coh) (pa : Nat) : Option Half :=
  c.halves.find? (fun h => decide (h.half = pa / 64) && h.st != .i)

/-- A global word at its serialisation point. -/
def State.peek (s : State) (pa : Nat) : Word :=
  match s.coh.dirtyWords (cohUnit pa) with
  | some w => Store.get 0 w (unitIdx pa)
  | none =>
    if hostBit ≤ pa then
      match s.coh.half? pa with
      | some h => Store.get 0 h.words (pa % 64 / 4)
      | none => s.mem.ram.readWord pa
    else s.mem.ram.readWord pa

/-- Write one word of a line in every place that holds the line. -/
def Coh.poke (c : Coh) (line i : Nat) (w : Word) : Coh :=
  let f := fun (x : Store Word) => Store.set 0 x i w
  { c with
    copies := c.copies.map (fun x => if x.line = line then { x with words := f x.words } else x)
    miss := c.miss.map (fun x => if x.line = line then { x with data := x.data.map (fun p => (p.1, f p.2)) } else x)
    msgs := c.msgs.map (fun x => if x.line = line ∧ x.kind = .data then { x with words := f x.words } else x) }

/-- Write one word of a host half that the device holds; the half becomes M. -/
def Coh.pokeHalf (c : Coh) (pa : Nat) (w : Word) : Coh :=
  { c with halves := c.halves.map (fun h =>
      if h.half = pa / 64 ∧ h.st ≠ .i then { h with st := .m, words := Store.set 0 h.words (pa % 64 / 4) w } else h) }

/-- A write of any kind invalidates the sector in every Polder before it is performed (R274). -/
def State.polderInval (s : State) (pa : Nat) : State :=
  { s with mem := { s.mem with polder := s.mem.polder.map (fun p =>
      if p.block = pa / 4096 * 4096 then { p with sectors := p.sectors &&& ~~~(1#8 <<< (pa % 4096 / 512)) } else p) } }

/-- A write performed at the serialisation point and seen in every coherent copy. -/
def State.poke (s : State) (pa : Nat) (w : Word) : State :=
  let s := s.polderInval pa
  if hostBit ≤ pa ∧ (s.coh.half? pa).isSome then { s with coh := (s.coh.pokeHalf pa w).poke (cohUnit pa) (unitIdx pa) w }
  else
    { s with
      mem := { s.mem with ram := s.mem.ram.writeWord pa w }
      coh := s.coh.poke (cohUnit pa) (unitIdx pa) w }

/-- Writes of consecutive words. -/
def State.pokeRun (s : State) (pa : Nat) : List Word → State
  | [] => s
  | w :: r => State.pokeRun (s.poke pa w) (pa + 4) r

/-- A record written whole: the sectors it covers whole lose their marks (R357). -/
def State.pokes (s : State) (pa : Nat) (l : List Word) : State :=
  (s.pokeRun pa l).clearPoison (runSectors pa l.length)

/-- The 32-bit halves of a 64-bit value, low first. -/
def halves64 (x : DWord) : List Word := [x.extractLsb' 0 32, x.extractLsb' 32 32]

/-- A 64-bit little-endian value at a physical address. -/
def State.peek64 (s : State) (pa : Nat) : DWord := (s.peek (pa + 4)) ++ (s.peek pa)

/-! Tile words (R269), through the vault moves of an evacuation (R365). -/

/-- The 128-byte blocks of a vault (R286, R365). -/
def vaultBlocks : Nat := 524288

/-- Is an evacuation still copying a vault's blocks? -/
def VaultMove.going (v : VaultMove) : Bool := decide (v.moved < vaultBlocks)

/-- The evacuation of the vault that the address of a tile word names. -/
def State.vaultMove? (s : State) (word : Nat) : Option VaultMove :=
  s.mem.vaults.find? (fun v => decide (v.die = word / 2 ^ 28) && decide (v.vault = word / 2 ^ 24 % 16))

/-- Is the block of a tile word one that an evacuation has still to move (R286, R287)? -/
def State.tileWaits (s : State) (word : Nat) : Bool :=
  match s.vaultMove? word with
  | some v => v.going && decide (v.moved ≤ word % 2 ^ 24 / 32)
  | none => false

/-- Has an evacuation still to move a block of a run of tile words? -/
def State.tileMoving (s : State) (lo n : Nat) : Bool :=
  s.mem.vaults.any (fun v => v.going && decide ((v.die * 16 + v.vault) * 2 ^ 24 + 32 * v.moved < lo + n) && decide (lo < (v.die * 16 + v.vault + 1) * 2 ^ 24))

/-- Where a tile word now lives: byte address in `MemSys.tile`. -/
def State.tileByte (s : State) (word : Nat) : Nat :=
  match s.vaultMove? word with
  | some v =>
    if word % 2 ^ 24 / 32 < v.moved then 4 * ((v.toDie * 16 + v.toVault) * 2 ^ 24 + word % 2 ^ 24)
    else 4 * ((v.fromDie * 16 + v.fromVault) * 2 ^ 24 + word % 2 ^ 24)
  | none => 4 * word

def State.readTile (s : State) (word : Nat) : Word := s.mem.tile.readWord (s.tileByte word)

/-- A write covers a tile word's unit, so it clears its mark (R357). -/
def State.writeTile (s : State) (word : Nat) (w : Word) : State :=
  { s with mem := { s.mem with
      tile := s.mem.tile.writeWord (s.tileByte word) w
      tilePoison := s.mem.tilePoison.filter (fun y => decide (y ≠ word)) } }

/-- Does a word lie in an allocation that stands? -/
def State.tileHeld (s : State) (word : Nat) : Bool :=
  s.teams.any (fun t => decide (t.tileBase ≤ word) && decide (word < t.tileBase + t.tileWords))

/-- Is it a word of an abandoned allocation that was lost with its die (R367)? -/
def LostTile.holds (l : LostTile) (word : Nat) : Bool := decide (l.base ≤ word) && decide (word < l.base + l.words)
def State.tileGone (s : State) (word : Nat) : Bool := !s.tileHeld word && s.mem.tileLost.any (fun l => l.holds word)

/-- Is a word of the address part of some tile allocation of the context, checkpoint areas included
(R137), or of one that was lost with its die (R367)? -/
def State.tileAllocated (s : State) (ctx word : Nat) : Bool :=
  decide (word < 2 ^ 31) &&
  (s.teams.any (fun t => decide (t.key.ctx = ctx) && decide (t.tileBase ≤ word) && decide (word < t.tileBase + t.tileWords)) ||
   (!s.tileHeld word && s.mem.tileLost.any (fun l => decide (l.ctx = ctx) && l.holds word)))

/-! Events to the host (R378). -/

/-- Entries of the ring. -/
def Device.ringLen (d : Device) : Nat := 2 ^ (Nat.min (d.evqBase.toNat % 16) 11 + 4)

/-- Entries of the ring that are free for events: one is always left unused. -/
def Device.ringFree (d : Device) : Nat := (d.evqHead.toNat % d.ringLen + d.ringLen - 1 - d.evqTail.toNat % d.ringLen) % d.ringLen

/-- The part counts an event and holds it until EVENT_POST writes it. What the ring has no room for is held up to 256
events; beyond, the newest is dropped. -/
def State.post (s : State) (e : Event) : State :=
  let n := s.dev.posted + 1
  if s.dev.heldEvents.length < 256 + s.dev.ringFree then
    { s with dev := { s.dev with posted := n, heldEvents := s.dev.heldEvents ++ [(e, n)] } }
  else { s with dev := { s.dev with posted := n, evOvf := true } }

/-- An event of a slot or a context, whose incarnation and detail the manual does not state (R378). -/
def State.postUnit (s : State) (type unit : Nat) : State := s.post ⟨type, unit, Config.eventInc type, Config.eventDetail type⟩

/-! Fault records (R360 to R362). -/

/-- Codes of R235. -/
def Cause.code : Cause → Nat
  | .illegal => 1 | .tag => 2 | .uniform => 3 | .align => 4 | .page => 5 | .prot => 6 | .scope => 7
  | .specstore => 8 | .trit => 9 | .barrier => 0xA | .lock => 0xB | .ecc => 0xD | .version => 0xE
  | .handle => 0xF | .software => 0x12 | .preempt => 0x13

/-- Codes of R355. -/
def Kind.code : Kind → Nat
  | .precise => 0 | .attributed => 1 | .reported => 2

/-- What a fault record says beyond its number (R361). -/
structure FaultRec where
  type : Nat
  cause : Nat := 0
  sub : Nat := 0
  flags : Nat := 0
  grid : Nat := 0xFFFF
  vtag : Tag16 := 0
  tmid : Nat := 0
  gid : Nat := 0xFFFF
  place : Nat := 0
  core : Nat := 0
  pc : Word := 0
  value : DWord := 0
  extra : DWord := 0

/-- The 16 words of a fault record (R361). -/
def FaultRec.words (f : FaultRec) (seq : Word) : List Word :=
  [ seq,
    BitVec.ofNat 32 (f.type + 2 ^ 8 * f.cause + 2 ^ 16 * f.sub + 2 ^ 24 * f.flags),
    BitVec.ofNat 32 (f.grid + 2 ^ 16 * f.vtag.toNat),
    BitVec.ofNat 32 (f.tmid % 2 ^ 24),
    BitVec.ofNat 32 (f.gid + 2 ^ 16 * f.place + 2 ^ 24 * f.core),
    f.pc ] ++ halves64 f.value ++ halves64 f.extra ++ List.replicate 6 0

/-- SEQ after a record: it passes from 0xFFFF_FFFE to 0 (R360). -/
def nextSeq (q : Word) : Word := if q = 0xFFFFFFFE then 0 else q + 1

/-- Write a fault record in the context's ring; a record whose slot is not device memory is dropped
and counted, and uses up its number (R360). The first record written that names a grid is noted (R222). -/
def State.faultLog (s : State) (ctx : Nat) (f : FaultRec) : State :=
  match s.ctx? ctx with
  | none => s
  | some c =>
    let at_ := c.faultBase + 64 * (c.faultSeq.toNat % c.faultLen)
    let s := s.modCtx ctx (fun c => { c with faultSeq := nextSeq c.faultSeq })
    if at_ + 64 ≤ 2 ^ 39 then
      let s := if f.grid = 0xFFFF then s else
        s.modGrid ctx f.grid (fun g => { g with firstFault := g.firstFault.orElse (fun _ => some c.faultSeq) })
      s.pokes at_ (f.words c.faultSeq)
    else { s with dev := { s.dev with dropped := if s.dev.dropped = 0xFFFF then 0xFFFF else s.dev.dropped + 1 } }

/-- The party fields of a fault record for a group (R361). -/
def Group.faultRec (g : Group) (type : Nat) : FaultRec :=
  match g.key with
  | .kernel _ grid tmid gid =>
    { type := type, grid := grid, vtag := g.vid, tmid := tmid, gid := gid, place := dieOf g.core, core := g.core % 80 }
  | .queue slot => { type := type, gid := 0, place := 128 + slot / 8, core := slot % 8 }

/-! STAT and system words. -/

/-- A STAT word (R150): DONE, ERR, CODE, DETAIL. -/
def statWord (err : Bool) (code detail : Nat) : Word :=
  BitVec.ofNat 32 (2 ^ 31 + (if err then 2 ^ 30 else 0) + 2 ^ 24 * (code % 64) + detail % 2 ^ 24)

/-- ERR of a STAT code (R150). -/
def statErr (code : Nat) : Bool :=
  code = 1 || code = 2 || code = 3 || code = 4 || code = 7 || code = 8 || (decide (0x20 ≤ code) && decide (code ≤ 0x2D))

/-- The STAT of a code, ERR as R150 gives it. -/
def stat (code : Nat) (detail : Nat := 0) : Word := statWord (statErr code) code detail

/-- A system word (R218): ERR for every code but OK and MASKED. -/
def sysWord (code : Nat) (detail : Nat := 0) : Word :=
  BitVec.ofNat 32 ((if code = 0 ∨ code = 0xC then 0 else 2 ^ 31) + 2 ^ 24 * (code % 128) + detail % 2 ^ 24)

end Sys2Proof.Machine
end

