-- ==== Sys2Proof/Machine/Flags.lean ====
section
/-! DEFINITION. Flag computations beyond the rounding step of Num.lean: clamping of integers (R51,
R93, R112), FLUSH (R52), the NaN flags of compares (R108). Each answers the FLAGS bits to raise. -/

namespace Sys2Proof.Machine

/-- Bounds of an integer format (R34). -/
def intLo (signed : Bool) (bits : Nat) : Int := if signed then -(2 ^ (bits - 1) : Int) else 0
/-- Upper bound (R34). -/
def intHi (signed : Bool) (bits : Nat) : Int := if signed then 2 ^ (bits - 1) - 1 else 2 ^ bits - 1

/-- The code of an integer that the format holds: two's complement in `bits` bits (R34). -/
def intCode (bits : Nat) (v : Int) : Nat := (v % (2 ^ bits : Int)).toNat

/-- The integer a code stands for (R34). -/
def intVal (signed : Bool) (bits : Nat) (c : Nat) : Int :=
  if signed && decide (2 ^ (bits - 1) ≤ c) then (c : Int) - 2 ^ bits else c

/-- A value clamped to a format: code, and `fl` when it was clamped (R93, R112: SAT and NX). -/
def clampInt (signed : Bool) (bits : Nat) (fl : Fl) (v : Int) : Nat × Fl :=
  if v < intLo signed bits then (intCode bits (intLo signed bits), fl)
  else if intHi signed bits < v then (intCode bits (intHi signed bits), fl)
  else (intCode bits v, 0)

/-- A magnitude rounded to an integer format: out of range saturates with NV, SAT and NX (R49, R51). -/
def magToInt (signed : Bool) (bits : Nat) (mode : RMode) (neg : Bool) (x : Mag) : Nat × Fl :=
  let (v, inexact) := roundToInt mode neg x
  let (c, fl) := clampInt signed bits (fNV ||| fSAT ||| fNX) v
  (c, if fl = 0 then (if inexact then fNX else 0) else fl)

/-- Is a binary32 code subnormal? -/
def subnormal32 (c : Nat) : Bool := decide (c % 2 ^ 31 < 2 ^ 23) && decide (c % 2 ^ 31 ≠ 0)

/-- A binary32 operand under FLUSH: a subnormal reads as zero of its sign, with no flag (R52). -/
def flushIn (flush : Bool) (c : Nat) : Nat :=
  if flush && subnormal32 c then c / 2 ^ 31 * 2 ^ 31 else c

/-- A binary32 result under FLUSH: a subnormal is written as zero of its sign, with UF and NX (R52). -/
def flushOut (flush : Bool) (r : Nat × Fl) : Nat × Fl :=
  if flush && subnormal32 r.1 then (r.1 / 2 ^ 31 * 2 ^ 31, r.2 ||| fUF ||| fNX) else r

/-- Flags of a compare (R108): a signaling NaN sets NV, and a quiet one does too in an ordering. -/
def cmpFl (ordering : Bool) (a b : FVal) : Fl :=
  if a.isSnan || b.isSnan || (ordering && (a.isNan || b.isNan)) then fNV else 0

end Sys2Proof.Machine
end

