-- ==== Sys2Proof/Machine/Operands.lean ====
section
/-! DEFINITION. Operand forms: how an instruction reads its register fields, immediates and offsets
(R61, R62, R64 to R67), the encoding checks made when it issues (R71 checks 2 and 4 to 8, R73), the
tag checks and what a TAG trap reports (R15, R19), and what one lane of an instruction produces. -/

namespace Sys2Proof.Machine

/-! Encoding checks. -/

/-- Instructions only a queue thread may run (R71 check 2). -/
def queueOnly : Instr → Bool
  | .lnch _ _ | .lnchs _ _ _ | .rslv _ _ _ | .vsq _ _ | .waitg _ _ | .hosti _ _ => true
  | _ => false

/-- Instructions only a privileged queue thread may run (R71 check 2). -/
def privileged : Instr → Bool
  | .tlwr _ _ _ | .kvfrk _ _ _ | .migr _ _ _ | .ptinv _ _ | .dieop _ _ => true
  | _ => false

/-- The same two sets by opcode, for a word whose fields fail check 3 (R68, R71). -/
def queueOnlyOp (op : BitVec 8) : Bool :=
  op == 0xD0 || op == 0xD1 || op == 0xD2 || op == 0xD3 || op == 0xD5 || op == 0xD7
/-- Privileged opcodes. -/
def privilegedOp (op : BitVec 8) : Bool := decide (0xE4 ≤ op.toNat) && decide (op.toNat ≤ 0xE8)

/-- Check 4 for one field use. -/
def Use.check4 : Use → Bool
  | .src s | .srcSet _ s => s != 0xFF
  | .dst s | .rw s => decide (s.toNat < 0xFA)
  | .dstSet _ s | .rwSet _ s => s != 0xFF

/-- Check 5 for one field use: the register named is allocated. The registers of a set are check 6's
(R67). -/
def Use.check5 (nregs : Nat) : Use → Bool
  | .src s | .dst s | .rw s => allocated nregs s.toNat
  | .srcSet _ _ | .dstSet _ _ | .rwSet _ _ => true

/-- Check 6 for one field use (R67): a `v` or `c` register with an index that is a multiple of the
count, every register of the set allocated. -/
def Use.check6 (nregs : Nat) : Use → Bool
  | .src _ | .dst _ | .rw _ => true
  | .srcSet n s | .dstSet n s | .rwSet n s =>
    decide (s.toNat < 0xF8) && decide (s.toNat % n = 0) &&
      (decide (240 ≤ s.toNat) || (decide (s.toNat + n ≤ 240) && (List.range n).all (fun i => allocated nregs (s.toNat + i))))

/-- The field uses of an instruction under its hints: the d field of an FMA with HSRC is written
only (R90). -/
def usesWith (h : Hints) (i : Instr) : List Use :=
  match i, h.src with
  | .fma d a b, some _ => [.dst d, .src a, .src b]
  | i, _ => uses i

/-- Instructions HIMM applies to (R73). -/
def takesHimm : Instr → Bool
  | .addi _ _ _ | .muli _ _ _ | .mini _ _ _ | .maxi _ _ _ | .andi _ _ _ | .ori _ _ _ | .xori _ _ _
  | .ceqi _ _ _ | .cnei _ _ _ | .clti _ _ _ | .clei _ _ _ | .cgti _ _ _ | .cgei _ _ _
  | .br _ | .bnz _ _ | .bz _ _ | .call _ _ => true
  | _ => false

/-- Instructions whose description names an HSRC operand (R73, R90, R170, R176, R199, R213). -/
def takesHsrc : Instr → Bool
  | .fma _ _ _ | .bcpy _ _ _ | .tcpy _ _ _ | .kvapp _ _ _ | .selt _ _ _
  | .dstr _ _ _ | .dstrn _ _ _ | .dscr _ _ _ => true
  | _ => false

/-- Class 0x8 except LDP, and their kind. -/
def isLoad : Instr → Bool
  | .lds _ _ _ _ | .lds2 _ _ _ _ | .lds4 _ _ _ _ | .ldse _ _ _ _ | .ldsc _ _ _ _
  | .ldt _ _ _ _ | .ldt2 _ _ _ _ | .ldt4 _ _ _ _ | .ldg _ _ _ _ | .ldg2 _ _ _ _ | .ldg4 _ _ _ _
  | .ldga _ _ _ _ | .ldta _ _ _ _ => true
  | _ => false

/-- Class 0x9. -/
def isStore : Instr → Bool
  | .sts _ _ _ _ | .sts2 _ _ _ _ | .sts4 _ _ _ _ | .stsf _ _ _ _ | .stt _ _ _ _ | .stt2 _ _ _ _
  | .stt4 _ _ _ _ | .stg _ _ _ _ | .stg2 _ _ _ _ | .stg4 _ _ _ _ | .stgr _ _ _ _ | .sttr _ _ _ _ => true
  | _ => false

/-- CASG and CASS. -/
def isCas : Instr → Bool
  | .casg _ _ _ | .cass _ _ _ => true
  | _ => false

/-- Atomics and compare-and-swap. -/
def isAtomic : Instr → Bool
  | .atg _ _ _ _ | .atgr _ _ _ _ | .ats _ _ _ _ | .atsr _ _ _ _ | .casg _ _ _ | .cass _ _ _ => true
  | _ => false

/-- Lock instructions. -/
def isLock : Instr → Bool
  | .llock _ _ _ | .ltry _ _ _ | .lunlk _ _ _ | .lstat _ _ _ => true
  | _ => false

/-- CPY, BCPY, TCPY, KVAPP. -/
def isCopy : Instr → Bool
  | .cpy _ _ _ | .bcpy _ _ _ | .tcpy _ _ _ | .kvapp _ _ _ => true
  | _ => false

/-- The array operations HORD names (R73). -/
def isArrayMem : Instr → Bool
  | .dld _ _ _ | .dldl _ _ _ | .dstr _ _ _ | .dstrn _ _ _ | .ddrn _ _ _ | .ddrq _ _ _ | .dscr _ _ _ => true
  | _ => false

/-- Opcode of an encoded instruction. -/
def opcodeOf (i : Instr) : Nat :=
  match encode i with
  | some w => (wOp w).toNat
  | none => 0

/-- Instructions HRND applies to: classes 0x0 and 0x3, class 0x5 except TAGR and TAGQ, RDADD, SCAN
(R73). -/
def takesHrnd (i : Instr) : Bool :=
  match i with
  | .tagr _ _ _ | .tagq _ _ => false
  | .rdadd _ _ | .scan _ _ => true
  | i =>
    let c := opcodeOf i / 16
    (c == 0 && (encode i).isSome) || c == 3 || c == 5

/-- Does HORD with this failure bit and order apply (R73)? The fixed orders of LDGA, LDTA, STGR and
STTR allow only 0 or their own. -/
def hordOk (i : Instr) (f : Bool) (u : BitVec 2) : Bool :=
  (isLoad i || isStore i || isAtomic i || isCopy i || isArrayMem i ||
    (match i with | .selt _ _ _ => true | _ => false)) &&
  (!f || isCas i) &&
  (if isStore i then u == 0 || u == 2 else if isLoad i then u == 0 || u == 1 else true)

/-- Does every pending hint apply to the instruction (R73)? A hint following hints needs a kind not
pending. -/
def hintsOk (h : Hints) (i : Instr) : Bool :=
  match i with
  | .himm _ => h.imm.isNone
  | .hsrc _ => h.src.isNone
  | .hrnd _ => h.rnd.isNone
  | .hord _ _ _ => h.ord.isNone
  | .hpol _ => h.pol.isNone
  | .hsch _ => h.sch.isNone
  | .hoff _ => h.off.isNone
  | i =>
    (h.imm.isNone || takesHimm i) && (h.src.isNone || takesHsrc i) && (h.rnd.isNone || takesHrnd i) &&
    (match h.ord with | none => true | some (f, u, _) => hordOk i f u) &&
    (h.pol.isNone || isLoad i || isAtomic i || isCopy i) &&
    (h.off.isNone || isLoad i || (match i with | .ldp _ _ _ _ | .pfg _ _ _ => true | _ => false) || isStore i || isAtomic i || isLock i)

/-- The word of an instruction, for TRAPVAL. -/
def wordOf (i : Instr) : Word := (encode i).getD 0

/-- An ILLEGAL trap of an instruction (R71). -/
def illegal (sub : Nat) (i : Instr) : Trap := ⟨.illegal, sub, (wordOf i).setWidth 64, .precise⟩

/-- Checks 2 and 4 to 8 of R71 in order, on an instruction that decoded, in a group, with the hints of
the issue group. -/
def encCheck (g : Group) (h : Hints) (i : Instr) : Option Trap :=
  if (queueOnly i && !g.key.isQueue) || (privileged i && !(g.key.isQueue && g.priv)) then some (illegal 2 i)
  else if !(usesWith h i).all Use.check4 then some (illegal 4 i)
  else if !(usesWith h i).all (Use.check5 g.nregs) then some (illegal 5 i)
  else if !(usesWith h i).all (Use.check6 g.nregs) then some (illegal 6 i)
  else if !hintsOk h i then some (illegal 7 i)
  else if reservedField g.width i then some (illegal 8 i)
  else none

/-- The trap of a word that does not decode: unassigned, not permitted here, or a bad field (R71
checks 1 to 3). -/
def decodeTrap (g : Group) (w : Word) (e : DecodeError) : Trap :=
  let sub := match e with
    | .unassigned => 1
    | .badField op =>
      if (queueOnlyOp op && !g.key.isQueue) || (privilegedOp op && !(g.key.isQueue && g.priv)) then 2 else 3
  ⟨.illegal, sub, w.setWidth 64, .precise⟩

/-! A lane and its operands. -/

/-- A thread of the issue group with its group. -/
structure View where
  g : Group
  t : Thread

/-- The register a selector names. -/
def View.reg (v : View) (s : Sel) : Reg := readSel v.g v.t s
/-- Its value. -/
def View.val (v : View) (s : Sel) : Word := (v.reg s).val
/-- Its tag; `zero` is INT outside value sources (R15). -/
def View.tag (v : View) (s : Sel) : Tag := (v.reg s).tag

/-- The registers of a set, first at the selector (R67). -/
def View.regAt (v : View) (s : Sel) (k : Nat) : Reg := v.reg (s + BitVec.ofNat 8 k)

/-- The source fields of an instruction as a TAG trap reports them (R19): under HSRC its operand
stands in place of d. -/
structure Slots where
  a : Option Sel := none
  b : Option Sel := none
  d : Option Sel := none

/-- The slots of an instruction whose sources are given, under the pending HSRC. -/
def View.slots (v : View) (a b d : Option Sel := none) : Slots :=
  ⟨a, b, match v.t.hints.src with | some h => some h | none => d⟩

/-- The selectors of the slots that are present. -/
def Slots.list (sl : Slots) : List Sel := sl.a.toList ++ sl.b.toList ++ sl.d.toList

/-- What `zero` reads as among value sources: the common tag of the others, or INT when there are none
(R15). Where the others disagree the manual names no tag, and it reads INT (DEDUCED, log entry 83). -/
def View.common (v : View) (sels : List Sel) : Tag :=
  match (sels.filter (· != 0xF9)).map v.tag with
  | [] => .int
  | t :: r => if r.all (· == t) then t else .int

/-- The tag of a value source among its fellows (R15). -/
def View.vtag (v : View) (sels : List Sel) (s : Sel) : Tag := if s = 0xF9 then v.common sels else v.tag s

/-- A nibble of TRAPVAL: the tag, or 15 where the instruction has no such source. -/
def nibble : Option Tag → Nat
  | some t => (tagCode t).toNat
  | none => 15

/-- A TAG trap with SUB 0x01 in the layout of R19. -/
def tagTrap (expected : Nat) (a b d : Option Tag) : Trap :=
  ⟨.tag, 1, BitVec.ofNat 64 (nibble a + 16 * nibble b + 256 * nibble d + 4096 * expected), .precise⟩

/-- A TAG trap of an instruction with no value sources; 15 is expected unless its description names a
tag. -/
def View.tagTrap (v : View) (sl : Slots) (expected : Nat := 15) : Trap :=
  Machine.tagTrap expected (sl.a.map v.tag) (sl.b.map v.tag) (sl.d.map v.tag)

/-- The expected tag of R19 over value sources. -/
def expectedTag (accept : Tag → Bool) (tags : List Tag) : Nat :=
  match tags.filter (· != .void) with
  | [] => 15
  | t :: r => if r.all (· == t) && accept t then (tagCode t).toNat else 15

/-- The check of value sources (R19): every slot carries one tag that the instruction accepts. -/
def View.values (v : View) (sl : Slots) (accept : Tag → Bool) : Except Trap Tag :=
  let tags := sl.list.map (v.vtag sl.list)
  let t := tags.headD .int
  if t != .void && accept t && tags.all (· == t) then .ok t
  else .error (Machine.tagTrap (expectedTag accept tags) (sl.a.map (v.vtag sl.list)) (sl.b.map (v.vtag sl.list)) (sl.d.map (v.vtag sl.list)))

/-- Any tag but VOID. -/
def notVoid (t : Tag) : Bool := t != .void
/-- Tags an address operand may carry (R19). -/
def addrTag (t : Tag) : Bool := t == .raw || t == .int || t == .nat

/-- 64-bit value of a register pair (R67). -/
def View.pair (v : View) (s : Sel) : DWord := (v.regAt s 1).val ++ (v.regAt s 0).val

/-- The tag a TAG trap shows for a pair: that of the half that fails, the first one first. -/
def View.pairTag (v : View) (ok : Tag → Bool) (s : Sel) : Tag :=
  if ok (v.regAt s 0).tag then (if ok (v.regAt s 1).tag then (v.regAt s 0).tag else (v.regAt s 1).tag)
  else (v.regAt s 0).tag

/-- The tag a TAG trap shows for a set of `n` registers: the first that is VOID, or the first. -/
def View.setTag (v : View) (n : Nat) (s : Sel) : Tag :=
  if (List.range n).any (fun k => (v.regAt s k).tag == .void) then .void else (v.regAt s 0).tag

/-- The immediate of an RI instruction (R61). -/
def View.imm8 (v : View) (imm : BitVec 8) : Word :=
  match v.t.hints.imm with
  | some p => p ++ imm
  | none => imm.signExtend 32

/-- The target of a BR-format instruction (R62): words from the instruction itself, modulo 2^32. -/
def View.target (v : View) (off : BitVec 16) : Word :=
  match v.t.hints.imm with
  | some p => v.t.pc + ((p ++ off : BitVec 40).setWidth 32) * 4
  | none => v.t.pc + (off.signExtend 32) * 4

/-- The HOFF offset, zero when none is pending (R72). -/
def View.hoff (v : View) : Int :=
  match v.t.hints.off with
  | some p => p.toInt
  | none => 0

/-! What a lane produces. -/

/-- The effects of one lane of an instruction of classes 0x0 to 0x7: a result for d, flags, a taken
transfer. -/
structure LaneOut where
  d : Option (Sel × Reg) := none
  fl : Fl := 0
  pc : Option Word := none
  deriving DecidableEq, Repr

/-- A result and its flags. -/
def LaneOut.res (d : Sel) (val : Word) (tag : Tag) (fl : Fl := 0) : LaneOut := { d := some (d, ⟨val, tag⟩), fl := fl }

/-- The thread after its lane: result, flags, program counter; the hints are used up. -/
def Thread.apply (t : Thread) (o : LaneOut) : Thread :=
  let t := match o.d with
    | some (d, r) => t.result d r
    | none => t
  let t := t.raise o.fl
  match o.pc with
  | some pc => t.goto pc
  | none => t.advance

/-- A lane whose value sources carry one accepted tag. -/
def View.withValues (v : View) (sl : Slots) (accept : Tag → Bool) (k : Tag → LaneOut) : Except Trap LaneOut :=
  match v.values sl accept with
  | .ok t => .ok (k t)
  | .error e => .error e

/-- A lane whose operand tags pass its own list, with 15 expected otherwise. -/
def View.withTags (v : View) (sl : Slots) (ok : Bool) (k : LaneOut) : Except Trap LaneOut :=
  if ok then .ok k else .error (v.tagTrap sl)

/-- A value that a register supplies and the description reserves (R423), checked after the tags. -/
def reservedValue (i : Instr) (bad : Bool) (k : Except Trap LaneOut) : Except Trap LaneOut :=
  match k with
  | .ok o => if bad then .error (illegal 8 i) else .ok o
  | .error e => .error e

end Sys2Proof.Machine
end

