-- ==== Sys2Proof/Machine/Formats.lean ====
section
/-! DEFINITION. Elements of packed registers (R39), conversions between formats (R48 to R54, R111,
R112), scales and their choice (R43 to R46), trits (R41, R42) and the Hadamard transform (R55). -/

namespace Sys2Proof.Machine

/-- Format of one element. -/
inductive Elem where
  | int (signed : Bool) (bits : Nat)
  | flt (f : Fmt)
  deriving DecidableEq, Repr

/-- Bits of one element. -/
def Elem.bits : Elem → Nat
  | .int _ b => b
  | .flt f => f.magBits + 1

/-- Element format of a numeric tag (R39, R110); the other tags hold one 32-bit pattern. -/
def Tag.elem : Tag → Elem
  | .int => .int true 32
  | .flt => .flt f32
  | .half2 => .flt f16
  | .bflt2 => .flt bf16
  | .e4m3q => .flt e4m3
  | .e5m2q => .flt e5m2
  | .e2m1o => .flt e2m1
  | .int4o => .int true 4
  | .int8q => .int true 8
  | .nat | .raw | .trit | .scale | .pred | .stat | .void => .int false 32

/-- Elements in a register of the tag (R39). -/
def tagCount (t : Tag) : Nat := 32 / (Tag.elem t).bits

/-- Element codes from `n`, `bits` bits each, element 0 least significant (R39). -/
def splitBits (bits : Nat) : Nat → Nat → List Nat
  | 0, _ => []
  | k + 1, n => n % 2 ^ bits :: splitBits bits k (n / 2 ^ bits)

/-- Elements of a register (R39). -/
def elems (t : Tag) (w : Word) : List Nat := splitBits (Tag.elem t).bits (tagCount t) w.toNat

/-- Codes joined with element 0 least significant. -/
def joinBits (bits : Nat) : List Nat → Nat
  | [] => 0
  | c :: r => c % 2 ^ bits + 2 ^ bits * joinBits bits r

/-- A register from its elements (R39). -/
def joinElems (t : Tag) (cs : List Nat) : Word := BitVec.ofNat 32 (joinBits (Tag.elem t).bits cs)

/-- All flags of a list of results. -/
def orFl (l : List (Nat × Fl)) : Fl := l.foldl (fun a r => a ||| r.2) 0

/-- A NaN in binary32: sign kept, mantissa in the high bits (R54). -/
def nanTo32 (f : Fmt) (neg : Bool) (m : Nat) : Nat :=
  (if neg then 2 ^ 31 else 0) + 0x7F800000 + m * 2 ^ (23 - f.mbits)

/-- A binary32 NaN in a narrower float format (R54); E2M1 gives zero by sign with NV. -/
def nanFrom32 (f : Fmt) (neg : Bool) (m32 : Nat) : Nat × Fl :=
  let s := if neg then f.signBit else 0
  match f.special with
  | .infNan =>
    let m := m32 / 2 ^ (23 - f.mbits)
    (s + f.infCode + (if m = 0 then 2 ^ (f.mbits - 1) else m), 0)
  | .nanOnly => (s + f.nanCode, 0)
  | .none => (s, fNV)

/-- A float value converted to a float format (R48, R50, R54); `src` is the format it came from. An infinity
follows R50 with SAT against R53 (DEDUCED, log entry 84), and sets the flags R50 lists, without NX where it
lists none (DEDUCED, log entry 85). -/
def convFloat (src dst : Fmt) (mode : RMode) (sat : Bool) (x : FVal) : Nat × Fl :=
  match x with
  | .nan neg quiet m =>
    let (c, fl) := nanFrom32 dst neg (m * 2 ^ (23 - src.mbits))
    (c, fl ||| (if quiet then 0 else fNV))
  | .inf neg =>
    let s := if neg then dst.signBit else 0
    match dst.special with
    | .infNan => if sat then (s + dst.maxCode, fSAT ||| fNX) else (s + dst.infCode, 0)
    | .nanOnly => if sat then (s + dst.maxCode, fSAT ||| fNV ||| fNX) else (s + dst.nanCode, fNV)
    | .none => (s + dst.maxCode, fSAT ||| fNV ||| fNX)
  | .fin neg m e => roundMag dst mode sat neg ⟨m, 1, e⟩

/-- A float value converted to an integer format (R51). -/
def convToInt (signed : Bool) (bits : Nat) (mode : RMode) (x : FVal) : Nat × Fl :=
  match x with
  | .nan _ _ _ => (0, fNV)
  | .inf neg => (intCode bits (if neg then intLo signed bits else intHi signed bits), fNV ||| fSAT ||| fNX)
  | .fin neg m e => magToInt signed bits mode neg ⟨m, 1, e⟩

/-- One element converted straight to another format (R48 to R54, R111, R112), FLUSH applied to a
binary32 source and target (R52). -/
def convElem (src dst : Elem) (mode : RMode) (sat flush : Bool) (c : Nat) : Nat × Fl :=
  match src, dst with
  | .int s b, .int s' b' => clampInt s' b' (fSAT ||| fNX) (intVal s b c)
  | .int s b, .flt f =>
    let r := roundDyadic f mode sat false (intVal s b c) 0
    if f = f32 then flushOut flush r else r
  | .flt f, .int s b => convToInt s b mode (f.decode (if f = f32 then flushIn flush c else c))
  | .flt f, .flt f' =>
    let r := convFloat f f' mode sat (f.decode (if f = f32 then flushIn flush c else c))
    if f' = f32 then flushOut flush r else r

/-- A packed register converted to another tag (R111): the first elements, then +0. -/
def convReg (src dst : Tag) (mode : RMode) (sat flush : Bool) (w : Word) : Word × Fl :=
  let rs := ((elems src w).take (tagCount dst)).map (convElem (Tag.elem src) (Tag.elem dst) mode sat flush)
  (joinElems dst (rs.map Prod.fst), orFl rs)

/-- A float operation applied element by element (R87, R88); `op` takes the codes of one element of
each source. FLUSH applies to binary32 only. -/
def floatWise (t : Tag) (f : Fmt) (flush : Bool) (op : List Nat → Nat × Fl) (srcs : List Word) : Word × Fl :=
  let fl := flush && decide (f = f32)
  let rs := (List.range (tagCount t)).map (fun i =>
    flushOut fl (op (srcs.map (fun w => flushIn fl (nth (elems t w) i 0)))))
  (joinElems t (rs.map Prod.fst), orFl rs)

/-! Scales (R43 to R46). -/

/-- Value of a scale code other than 0xFFF: `m × 2^e` (R43). -/
def scaleVal (c : Nat) : Nat × Int :=
  let e := c / 16
  let m := c % 16
  if e = 0 then (m, -130) else (16 + m, (e : Int) - 131)

/-- The NaN scale. -/
def scaleNan : Nat := 0xFFF

/-- The scale halves of a SCALE register or a scale word (R39, R44). -/
def scaleOf (w : Word) (i : Nat) : Nat := if i = 0 then w.toNat % 4096 else w.toNat / 2 ^ 16 % 4096

/-- emax of an element format (R45). -/
def emaxOf : Elem → Nat
  | .flt f => if f = e2m1 then 6 else if f = e4m3 then 448 else if f = e5m2 then 57344 else 0
  | .int _ b => if b = 4 then 7 else 127

/-- Element formats of MX12 blocks (R44). -/
def mxTag : Tag → Bool
  | .e2m1o | .e4m3q | .e5m2q | .int4o | .int8q => true
  | _ => false

/-- `a × 2^i ≤ b × 2^j` for naturals. -/
def leScaled (a : Nat) (i : Int) (b : Nat) (j : Int) : Bool :=
  if i ≤ j then decide (a ≤ b * 2 ^ (j - i).toNat) else decide (a * 2 ^ (i - j).toNat ≤ b)

/-- Does a scale code reach amax / emax, for amax = m × 2^e? -/
def scaleReaches (emax : Nat) (m : Nat) (e : Int) (c : Nat) : Bool :=
  leScaled m e ((scaleVal c).1 * emax) (scaleVal c).2

/-- The lowest code that reaches amax / emax, by bisection below `lo + 2^k`; the values rise with the
code (R43, R45). -/
def scaleSearch (emax m : Nat) (e : Int) : Nat → Nat → Nat
  | 0, lo => lo
  | k + 1, lo =>
    if scaleReaches emax m e (lo + 2 ^ k - 1) then scaleSearch emax m e k lo
    else scaleSearch emax m e k (lo + 2 ^ k)

/-- The scale chosen for values (R45) and NV. -/
def chooseScale (el : Elem) (xs : List FVal) : Nat × Fl :=
  if xs.any (fun x => x.isNan || x.isInf) then (scaleNan, fNV)
  else
    let a := xs.foldl (fun acc x => if acc.lt x.dy.abs then x.dy.abs else acc) Dy.zero
    if a.m = 0 then (0, 0)
    else (scaleSearch (emaxOf el) a.m.natAbs a.e 12 1, 0)

/-- An exact magnitude rounded to an element format without range flags of its own, for a value known
to lie within ±emax. -/
def roundElem (el : Elem) (mode : RMode) (neg : Bool) (x : Mag) : Nat × Fl :=
  match el with
  | .flt f => roundMag f mode false neg x
  | .int s b =>
    if x.num = 0 then (0, 0)
    else magToInt s b mode neg x

/-- ±emax, or ±0, of an element format. -/
def elemMax (el : Elem) (neg : Bool) : Nat :=
  match el with
  | .flt f => f.maxCode + if neg then f.signBit else 0
  | .int s b => intCode b (if neg then -(intHi s b) else intHi s b)

/-- Zero of a sign in an element format. -/
def elemZero (el : Elem) (neg : Bool) : Nat :=
  match el with
  | .flt f => if neg then f.signBit else 0
  | .int _ _ => 0

/-- Is `m × 2^e / (sm × 2^se)` above emax in magnitude? -/
def aboveEmax (el : Elem) (m : Nat) (e : Int) (sm : Nat) (se : Int) : Bool :=
  !leScaled m e (sm * emaxOf el) se

/-- Quantising a value under a scale code (R46, R117). No rule gives INT4 and INT8 a code for an infinity: it goes to
their bounds as R51 has it (log entry 108). -/
def quantise (el : Elem) (mode : RMode) (scale : Nat) (x : FVal) : Nat × Fl :=
  if scale = scaleNan then (elemZero el x.neg, fNV)
  else
    match x with
    | .fin neg m e =>
      if m = 0 then (elemZero el neg, 0)
      else
        let (sm, se) := scaleVal scale
        if sm = 0 then (elemMax el neg, fSAT ||| fNX)
        else if aboveEmax el m e sm se then
          (elemMax el neg, match el with | .flt _ => fSAT ||| fNX ||| fOF | .int _ _ => fSAT ||| fNX)
        else roundElem el mode neg ⟨m, sm, e - se⟩
    | x =>
      match el with
      | .flt f => convFloat f32 f mode false x
      | .int s b => convToInt s b mode x

/-- The exact value of an element under a scale (R44); a NaN where the scale or the element is one. -/
def dequant (el : Elem) (scale : Nat) (c : Nat) : FVal :=
  if scale = scaleNan then .nan false true 0
  else
    let (sm, se) := scaleVal scale
    match el with
    | .int s b => .fin (decide (intVal s b c < 0)) ((intVal s b c).natAbs * sm) se
    | .flt f =>
      match f.decode c with
      | .fin n m e => .fin n (m * sm) (e + se)
      | .inf n => .inf n
      | .nan _ _ _ => .nan false true 0

/-! Trits (R41, R42). -/

/-- The five trits of a byte, none for an illegal byte. -/
def tritsOf (b : Nat) : Option (List Int) :=
  if 243 ≤ b then none
  else some ((List.range 5).map (fun k =>
    match b / 3 ^ k % 3 with
    | 0 => 0
    | 1 => 1
    | _ => -1))

/-- The byte of five trits, each taken by its sign. -/
def tritByte : List Int → Nat
  | [] => 0
  | t :: r => (if t = 0 then 0 else if 0 < t then 1 else 2) + 3 * tritByte r

/-! The Hadamard transform (R55). -/

/-- Is the popcount of `i AND j` odd? Five bits are enough for n = 32. -/
def hadNeg (i j : Nat) : Bool :=
  ((List.range 5).foldl (fun acc b => if (i / 2 ^ b) % 2 = 1 ∧ (j / 2 ^ b) % 2 = 1 then !acc else acc) false)

/-- The terms of output `i` of a group. -/
def hadTerms (i : Nat) (xs : List FVal) : List FVal :=
  (List.range xs.length).map (fun j =>
    let x := nth xs j (.fin false 0 0)
    if hadNeg i j then x.negate else x)

end Sys2Proof.Machine
end

