-- ==== Sys2Proof/Machine/LaneInt.lean ====
section
/-! DEFINITION. What one lane of the arithmetic, integer, logic and move instructions computes (classes
0x0, 0x1, 0x2: R86 to R101). -/

namespace Sys2Proof.Machine

/-! Accepted tags. -/

/-- INT NAT FLT HALF2 BFLT2 (R89). -/
def genTag (t : Tag) : Bool := t == .int || t == .nat || t == .flt || t == .half2 || t == .bflt2
/-- INT NAT FLT. -/
def immTag (t : Tag) : Bool := t == .int || t == .nat || t == .flt
/-- FLT HALF2 BFLT2. -/
def fltTag (t : Tag) : Bool := t == .flt || t == .half2 || t == .bflt2
/-- INT NAT INT8Q (R93). -/
def satTag (t : Tag) : Bool := t == .int || t == .nat || t == .int8q
/-- INT NAT RAW (R95). -/
def shiftTag (t : Tag) : Bool := t == .int || t == .nat || t == .raw

/-- The float format of FLT, HALF2 and BFLT2. -/
def fmtOf (t : Tag) : Fmt := if t = .half2 then f16 else if t = .bflt2 then bf16 else f32

/-- An operation on values of one tag: on INT and NAT `iop`, on floats `fop` element by element (R87,
R88). -/
def onTag (v : View) (t : Tag) (iop : List Word → Word) (fop : Fmt → List Nat → Nat × Fl) (srcs : List Word) : Word × Fl :=
  if fltTag t then floatWise t (fmtOf t) v.t.flush (fop (fmtOf t)) srcs else (iop srcs, 0)

/-- A two-source instruction of class 0x0 (R89). -/
def gen2 (v : View) (d a b : Sel) (iop : Tag → Word → Word → Word) (fop : Fmt → Nat → Nat → Nat × Fl) : Except Trap LaneOut :=
  v.withValues (v.slots (some a) (some b)) genTag (fun t =>
    let r := onTag v t (fun l => iop t (nth l 0 0) (nth l 1 0)) (fun f l => fop f (nth l 0 0) (nth l 1 0)) [v.val a, v.val b]
    LaneOut.res d r.1 t r.2)

/-- An immediate form of class 0x0 (R92): the immediate is read in the tag of a. -/
def genI (v : View) (d a : Sel) (imm : BitVec 8) (iop : Tag → Word → Word → Word) (fop : Fmt → Nat → Nat → Nat × Fl) : Except Trap LaneOut :=
  v.withValues (v.slots (some a)) immTag (fun t =>
    let r := onTag v t (fun l => iop t (nth l 0 0) (nth l 1 0)) (fun f l => fop f (nth l 0 0) (nth l 1 0)) [v.val a, v.imm8 imm]
    LaneOut.res d r.1 t r.2)

/-- Addition on codes (R88, R89). -/
def fopAdd (v : View) (f : Fmt) (x y : Nat) : Nat × Fl := fAdd f v.t.mode (f.decode x) (f.decode y)
/-- Subtraction on codes (R88, R89). -/
def fopSub (v : View) (f : Fmt) (x y : Nat) : Nat × Fl := fAdd f v.t.mode (f.decode x) (f.decode y).negate
/-- Multiplication on codes (R88, R89). -/
def fopMul (v : View) (f : Fmt) (x y : Nat) : Nat × Fl := fMul f v.t.mode (f.decode x) (f.decode y)

/-- Is `x` below `y`, signed on INT and unsigned on NAT (R91)? -/
def intLt (t : Tag) (x y : Word) : Bool := if t = .int then x.slt y else x.ult y
/-- The smaller (R91). -/
def iopMin (t : Tag) (x y : Word) : Word := if intLt t y x then y else x
/-- The larger (R91). -/
def iopMax (t : Tag) (x y : Word) : Word := if intLt t x y then y else x

/-- ADD (R89). -/
def laneAdd (d a b : Sel) (v : View) : Except Trap LaneOut := gen2 v d a b (fun _ x y => x + y) (fopAdd v)
/-- SUB (R89). -/
def laneSub (d a b : Sel) (v : View) : Except Trap LaneOut := gen2 v d a b (fun _ x y => x - y) (fopSub v)
/-- MUL (R89). -/
def laneMul (d a b : Sel) (v : View) : Except Trap LaneOut := gen2 v d a b (fun _ x y => x * y) (fopMul v)
/-- MIN (R91). -/
def laneMin (d a b : Sel) (v : View) : Except Trap LaneOut := gen2 v d a b iopMin (fun f => fMinMax f false)
/-- MAX (R91). -/
def laneMax (d a b : Sel) (v : View) : Except Trap LaneOut := gen2 v d a b iopMax (fun f => fMinMax f true)
/-- ADDI (R92). -/
def laneAddi (d a : Sel) (imm : BitVec 8) (v : View) : Except Trap LaneOut := genI v d a imm (fun _ x y => x + y) (fopAdd v)
/-- MULI (R92). -/
def laneMuli (d a : Sel) (imm : BitVec 8) (v : View) : Except Trap LaneOut := genI v d a imm (fun _ x y => x * y) (fopMul v)
/-- MINI (R92). -/
def laneMini (d a : Sel) (imm : BitVec 8) (v : View) : Except Trap LaneOut := genI v d a imm iopMin (fun f => fMinMax f false)
/-- MAXI (R92). -/
def laneMaxi (d a : Sel) (imm : BitVec 8) (v : View) : Except Trap LaneOut := genI v d a imm iopMax (fun f => fMinMax f true)

/-- FMA (R90): the addend is d, or the HSRC operand, which the slots put in place of d. -/
def laneFma (d a b : Sel) (v : View) : Except Trap LaneOut :=
  let c := v.t.hints.src.getD d
  v.withValues (v.slots (some a) (some b) (some d)) genTag (fun t =>
    let r := onTag v t (fun l => nth l 0 0 * nth l 1 0 + nth l 2 0)
      (fun f l => fFma f v.t.mode (f.decode (nth l 0 0)) (f.decode (nth l 1 0)) (f.decode (nth l 2 0))) [v.val a, v.val b, v.val c]
    LaneOut.res d r.1 t r.2)

/-- The sign bits of a float tag's elements (R94). -/
def signBits (t : Tag) : Word := if t = .flt then 0x80000000 else 0x80008000

/-- ABS (R94). -/
def laneAbs (d a : Sel) (v : View) : Except Trap LaneOut :=
  v.withValues (v.slots (some a)) genTag (fun t =>
    let x := v.val a
    LaneOut.res d (if fltTag t then x &&& ~~~ signBits t else if t = .int ∧ x.msb then -x else x) t)

/-- NEG (R94). -/
def laneNeg (d a : Sel) (v : View) : Except Trap LaneOut :=
  v.withValues (v.slots (some a)) genTag (fun t =>
    LaneOut.res d (if fltTag t then v.val a ^^^ signBits t else -v.val a) t)

/-- CPSGN (R94). -/
def laneCpsgn (d a b : Sel) (v : View) : Except Trap LaneOut :=
  v.withValues (v.slots (some a) (some b)) fltTag (fun t =>
    LaneOut.res d ((v.val a &&& ~~~ signBits t) ||| (v.val b &&& signBits t)) t)

/-- A saturating operation, element by element (R93). -/
def satWise (t : Tag) (op : Int → Int → Int) (x y : Word) : Word × Fl :=
  let signed := t != .nat
  let bits := (Tag.elem t).bits
  let rs := (List.range (tagCount t)).map (fun i =>
    clampInt signed bits (fSAT ||| fNX) (op (intVal signed bits (nth (elems t x) i 0)) (intVal signed bits (nth (elems t y) i 0))))
  (joinElems t (rs.map Prod.fst), orFl rs)

/-- SADD (R93). -/
def laneSadd (d a b : Sel) (v : View) : Except Trap LaneOut :=
  v.withValues (v.slots (some a) (some b)) satTag (fun t =>
    LaneOut.res d (satWise t (· + ·) (v.val a) (v.val b)).1 t (satWise t (· + ·) (v.val a) (v.val b)).2)

/-- SSUB (R93). -/
def laneSsub (d a b : Sel) (v : View) : Except Trap LaneOut :=
  v.withValues (v.slots (some a) (some b)) satTag (fun t =>
    LaneOut.res d (satWise t (· - ·) (v.val a) (v.val b)).1 t (satWise t (· - ·) (v.val a) (v.val b)).2)

/-! Class 0x1 (R95 to R97). -/

/-- A two-source integer instruction. -/
def int2 (v : View) (d a b : Sel) (accept : Tag → Bool) (op : Word → Word → Word) : Except Trap LaneOut :=
  v.withValues (v.slots (some a) (some b)) accept (fun t => LaneOut.res d (op (v.val a) (v.val b)) t)
/-- A one-source integer instruction, or one with a count in the word. -/
def int1 (v : View) (d a : Sel) (accept : Tag → Bool) (op : Word → Word) : Except Trap LaneOut :=
  v.withValues (v.slots (some a)) accept (fun t => LaneOut.res d (op (v.val a)) t)

/-- MULHI (R95). -/
def laneMulhi (d a b : Sel) (v : View) : Except Trap LaneOut :=
  int2 v d a b (· == .int) (fun x y => BitVec.ofInt 32 (x.toInt * y.toInt / 2 ^ 32))
/-- MULHN (R95). -/
def laneMulhn (d a b : Sel) (v : View) : Except Trap LaneOut :=
  int2 v d a b (· == .nat) (fun x y => BitVec.ofNat 32 (x.toNat * y.toNat / 2 ^ 32))
/-- DIV (R96): truncating; a zero divisor gives all ones. -/
def laneDiv (d a b : Sel) (v : View) : Except Trap LaneOut :=
  int2 v d a b (· == .int) (fun x y => if y = 0 then 0xFFFFFFFF else BitVec.ofInt 32 (x.toInt.tdiv y.toInt))
/-- REM (R96). -/
def laneRem (d a b : Sel) (v : View) : Except Trap LaneOut :=
  int2 v d a b (· == .int) (fun x y => if y = 0 then 0xFFFFFFFF else BitVec.ofInt 32 (x.toInt.tmod y.toInt))
/-- DIVN (R96). -/
def laneDivn (d a b : Sel) (v : View) : Except Trap LaneOut :=
  int2 v d a b (· == .nat) (fun x y => if y = 0 then 0xFFFFFFFF else x / y)
/-- REMN (R96). -/
def laneRemn (d a b : Sel) (v : View) : Except Trap LaneOut :=
  int2 v d a b (· == .nat) (fun x y => if y = 0 then 0xFFFFFFFF else x % y)

/-- Shift left; 0 from 32 on (R97). -/
def shlWord (x : Word) (n : Nat) : Word := x <<< n
/-- Logical shift right; 0 from 32 on (R97). -/
def shrWord (x : Word) (n : Nat) : Word := x >>> n
/-- Arithmetic shift right; copies of bit 31 from 32 on (R97). -/
def sraWord (x : Word) (n : Nat) : Word := x.sshiftRight (if n < 32 then n else 31)

/-- SHL (R97). -/
def laneShl (d a b : Sel) (v : View) : Except Trap LaneOut := int2 v d a b shiftTag (fun x y => shlWord x y.toNat)
/-- SHR (R97). -/
def laneShr (d a b : Sel) (v : View) : Except Trap LaneOut := int2 v d a b shiftTag (fun x y => shrWord x y.toNat)
/-- SRA (R97). -/
def laneSra (d a b : Sel) (v : View) : Except Trap LaneOut := int2 v d a b shiftTag (fun x y => sraWord x y.toNat)
/-- ROL (R97). -/
def laneRol (d a b : Sel) (v : View) : Except Trap LaneOut := int2 v d a b shiftTag (fun x y => x.rotateLeft (y.toNat % 32))
/-- SHLI (R97). -/
def laneShli (d a : Sel) (imm : BitVec 8) (v : View) : Except Trap LaneOut := int1 v d a shiftTag (fun x => shlWord x imm.toNat)
/-- SHRI (R97). -/
def laneShri (d a : Sel) (imm : BitVec 8) (v : View) : Except Trap LaneOut := int1 v d a shiftTag (fun x => shrWord x imm.toNat)
/-- SRAI (R97). -/
def laneSrai (d a : Sel) (imm : BitVec 8) (v : View) : Except Trap LaneOut := int1 v d a shiftTag (fun x => sraWord x imm.toNat)

/-- The bits of a word, least significant first. -/
def wordBits (x : Word) : List Bool := (List.range 32).map x.getLsbD

/-- CLZ (R95). -/
def laneClz (d a : Sel) (v : View) : Except Trap LaneOut :=
  int1 v d a shiftTag (fun x => BitVec.ofNat 32 ((wordBits x).reverse.takeWhile (!·)).length)
/-- POPC (R95). -/
def lanePopc (d a : Sel) (v : View) : Except Trap LaneOut :=
  int1 v d a shiftTag (fun x => BitVec.ofNat 32 ((wordBits x).filter id).length)
/-- BREV (R95). -/
def laneBrev (d a : Sel) (v : View) : Except Trap LaneOut := int1 v d a shiftTag BitVec.reverse

/-! Class 0x2 (R98 to R101). -/

/-- A bitwise instruction of two sources, of any tags but VOID; the result is RAW (R98). -/
def logic2 (v : View) (d a b : Sel) (op : Word → Word → Word) : Except Trap LaneOut :=
  v.withTags (v.slots (some a) (some b)) (notVoid (v.tag a) && notVoid (v.tag b)) (LaneOut.res d (op (v.val a) (v.val b)) .raw)
/-- A bitwise instruction of one source. -/
def logic1 (v : View) (d a : Sel) (op : Word → Word) : Except Trap LaneOut :=
  v.withTags (v.slots (some a)) (notVoid (v.tag a)) (LaneOut.res d (op (v.val a)) .raw)
/-- A bitwise instruction of two sources that reads d too. -/
def logic3 (v : View) (d a b : Sel) (o : LaneOut) : Except Trap LaneOut :=
  v.withTags (v.slots (some a) (some b) (some d)) (notVoid (v.tag a) && notVoid (v.tag b) && notVoid (v.tag d)) o

/-- AND (R98). -/
def laneAnd (d a b : Sel) (v : View) : Except Trap LaneOut := logic2 v d a b (· &&& ·)
/-- OR (R98). -/
def laneOr (d a b : Sel) (v : View) : Except Trap LaneOut := logic2 v d a b (· ||| ·)
/-- XOR (R98). -/
def laneXor (d a b : Sel) (v : View) : Except Trap LaneOut := logic2 v d a b (· ^^^ ·)
/-- ANDN (R98). -/
def laneAndn (d a b : Sel) (v : View) : Except Trap LaneOut := logic2 v d a b (fun x y => x &&& ~~~ y)
/-- ORN (R98). -/
def laneOrn (d a b : Sel) (v : View) : Except Trap LaneOut := logic2 v d a b (fun x y => x ||| ~~~ y)
/-- NOT (R98). -/
def laneNot (d a : Sel) (v : View) : Except Trap LaneOut := logic1 v d a (fun x => ~~~ x)
/-- ANDI (R98). -/
def laneAndi (d a : Sel) (imm : BitVec 8) (v : View) : Except Trap LaneOut := logic1 v d a (fun x => x &&& v.imm8 imm)
/-- ORI (R98). -/
def laneOri (d a : Sel) (imm : BitVec 8) (v : View) : Except Trap LaneOut := logic1 v d a (fun x => x ||| v.imm8 imm)
/-- XORI (R98). -/
def laneXori (d a : Sel) (imm : BitVec 8) (v : View) : Except Trap LaneOut := logic1 v d a (fun x => x ^^^ v.imm8 imm)

/-- SEL (R99): d is the condition; the result is the source chosen, value and tag. -/
def laneSel (d a b : Sel) (v : View) : Except Trap LaneOut :=
  let r := if v.val d ≠ 0 then v.reg a else v.reg b
  logic3 v d a b (LaneOut.res d r.val r.tag)

/-- Position and width of a bit field (R99). -/
def bfPos (b : Word) : Nat := b.toNat % 32
/-- Width, at most 32 (R99). -/
def bfWidth (b : Word) : Nat := min (b.toNat / 256 % 64) 32

/-- BFX (R99). -/
def laneBfx (d a b : Sel) (v : View) : Except Trap LaneOut :=
  logic2 v d a b (fun x y => BitVec.ofNat 32 (x.toNat / 2 ^ bfPos y % 2 ^ bfWidth y))

/-- The mask of a bit field, bits above 31 dropped (R99). -/
def bfMask (y : Word) : Word := (BitVec.ofNat 32 (2 ^ bfWidth y - 1)) <<< bfPos y

/-- BFI (R99). -/
def laneBfi (d a b : Sel) (v : View) : Except Trap LaneOut :=
  let y := v.val b
  logic3 v d a b (LaneOut.res d ((v.val d &&& ~~~ bfMask y) ||| ((v.val a <<< bfPos y) &&& bfMask y)) .raw)

/-- One byte of PRMB's result (R100). -/
def prmbByte (src : DWord) (sel : Word) (i : Nat) : Byte :=
  if sel.getLsbD (4 * i + 3) then 0
  else src.extractLsb' (8 * (sel.extractLsb' (4 * i) 3).toNat) 8

/-- PRMB (R100). -/
def lanePrmb (d a b : Sel) (v : View) : Except Trap LaneOut :=
  let src : DWord := v.val b ++ v.val a
  let sel := v.val d
  logic3 v d a b (LaneOut.res d (wordOfBytes (prmbByte src sel 0) (prmbByte src sel 1) (prmbByte src sel 2) (prmbByte src sel 3)) .raw)

/-- LUI (R98). -/
def laneLui (d : Sel) (imm : BitVec 16) (_ : View) : Except Trap LaneOut :=
  .ok (LaneOut.res d (imm ++ (0 : BitVec 16)) .raw)
/-- LLI (R98, R101): d is read. -/
def laneLli (d : Sel) (imm : BitVec 16) (v : View) : Except Trap LaneOut :=
  v.withTags (v.slots none none (some d)) (notVoid (v.tag d)) (LaneOut.res d ((v.val d).extractLsb' 16 16 ++ imm) .raw)
/-- MOV (R98, R101). -/
def laneMov (d a : Sel) (v : View) : Except Trap LaneOut :=
  v.withTags (v.slots (some a)) (notVoid (v.tag a)) (LaneOut.res d (v.val a) (v.tag a))

end Sys2Proof.Machine
end

