-- ==== Sys2Proof/Machine/Link.lean ====
section
/-! DEFINITION. What travels over the links: the features that training agrees (R351, R373), the compressed
blocks of reductions (R57, R58), and the port that an access to a peer takes (R349, R350). -/

namespace Sys2Proof.Machine

/-! Features (R373). -/

/-- What both ends list, at the lower of the two versions (R351, R373). -/
def agreed (mine theirs : List Feature) : List Feature :=
  mine.filterMap (fun f => (theirs.find? (fun x => decide (x.1 = f.1))).map (fun x => (f.1, Nat.min f.2 x.2)))

/-- Has a link agreed a feature, by its code: 1 exponent compression, 2 the version-tag extension? -/
def hasFeature (l : List Feature) (code : Nat) : Bool := l.any (fun f => decide (f.1 = code))

/-- The feature mask of PORTSTAT: bit code − 1 (R378). -/
def featMask (l : List Feature) : BitVec 16 := l.foldl (fun m f => m ||| (1#16 <<< (f.1 - 1))) 0

/-- The features the part offers on a port: compression and version tags on UALink (R373). -/
def portOffer (port : Nat) : List Feature := if port < 8 then [] else [(1, 1), (2, 1)]

/-- What it offers on a mesh hop (R373). -/
def hopOffer : List Feature := [(1, 1)]

/-! Compressed blocks (R57, R58). -/

/-- Exponent field of a binary32 word. -/
def expField (w : Word) : Nat := (w.extractLsb' 23 8).toNat

/-- EB of a block. -/
def blockBase (ws : List Word) : Nat := ws.foldl (fun m w => Nat.max m (expField w)) 0

/-- Largest delta of a block. -/
def blockDelta (ws : List Word) : Nat := ws.foldl (fun m w => Nat.max m (blockBase ws - expField w)) 0

/-- The fewest bits that hold a number. -/
def bitsFor (n : Nat) : Nat := if n = 0 then 0 else Nat.log2 n + 1

/-- One value in its field of 24 + W bits: sign, delta, mantissa, from the least significant bit. -/
def packValue (width base : Nat) (w : Word) : Nat :=
  w.toNat / 2 ^ 31 + 2 * (base - expField w) + 2 ^ (1 + width) * (w.toNat % 2 ^ 23)

/-- A number as bytes, least significant first. -/
def bytesLe : Nat → Nat → List Byte
  | 0, _ => []
  | n + 1, x => BitVec.ofNat 8 (x % 256) :: bytesLe n (x / 256)

/-- Bytes as a number, least significant first. -/
def natLe : List Byte → Nat
  | [] => 0
  | b :: r => b.toNat + 256 * natLe r

/-- The block of sixteen values: two bytes of header and the payload. -/
def compressBlock (ws : List Word) : List Byte :=
  let width := bitsFor (blockDelta ws)
  if width ≤ 7 then
    bytesLe 2 (blockBase ws + 2 ^ 8 * width) ++ bytesLe (2 * (24 + width)) (joinBits (24 + width) (ws.map (packValue width (blockBase ws))))
  else bytesLe 2 (2 ^ 15) ++ bytesLe 64 (joinBits 32 (ws.map BitVec.toNat))

/-- One value out of its field; `none` when its delta exceeds EB. -/
def unpackValue (width base x : Nat) : Option Word :=
  let delta := x / 2 % 2 ^ width
  if base < delta then none
  else some (BitVec.ofNat 32 (x % 2 * 2 ^ 31 + (base - delta) * 2 ^ 23 + x / 2 ^ (1 + width) % 2 ^ 23))

/-- The values of a block; `none` is the protocol error of R58. R58 lists no refusal of a byte count that does not
match the header: bytes that are missing count as zero and further ones are left out (log entry 109). -/
def expandBlock (bs : List Byte) : Option (List Word) :=
  match bs with
  | b0 :: b1 :: rest =>
    let base := b0.toNat
    let width := b1.toNat % 16
    if b1.toNat / 16 % 8 ≠ 0 then none
    else if b1.toNat / 128 = 1 then
      if width ≠ 0 ∨ base ≠ 0 then none else some ((splitBits 32 16 (natLe rest)).map (BitVec.ofNat 32))
    else if 7 < width then none
    else (splitBits (24 + width) 16 (natLe rest)).mapM (unpackValue width base)
  | _ => none

/-- A value of a reduction as it leaves a link that has agreed `feats`: in a block of sixteen, or raw (R57). A value
that travels alone fills its block by itself (log entry 97). -/
def overLink (feats : List Feature) (x : Word) : Word :=
  if hasFeature feats 1 then
    match expandBlock (compressBlock (List.replicate 16 x)) with
    | some (y :: _) => y
    | _ => x
  else x

/-! Peers and their ports. -/

/-- Device number in a peer address (R348). -/
def peerOf (pa : Nat) : Nat := pa / 2 ^ 40 % 1024

/-- Is an address a peer's? -/
def isPeer (pa : Nat) : Bool := decide (peerBit ≤ pa) && decide (pa < hostBit)

/-- The ports that reach a peer, or those of them with the version-tag extension (R350). -/
def State.peerPorts (s : State) (peer : Nat) (ext : Bool) : List Port :=
  s.dev.ports.filter (fun p => p.up && decide (peer ∈ p.peers) && (!ext || hasFeature p.feats 2))

/-- The port that an access takes, by a hash of its line address (R349, R350). -/
def State.peerPort (s : State) (pa : Nat) (ext : Bool) : Option Port :=
  let l := s.peerPorts (peerOf pa) ext
  l[Config.portHash (lineOf pa) % l.length]?

/-- Does some port to a peer carry the version-tag extension (R350)? -/
def State.peerExt (s : State) (peer : Nat) : Bool := !(s.peerPorts peer true).isEmpty

/-- Does a speculative load of a peer's word go over a port without the extension, so that it reads committed
memory (R350)? -/
def State.plainPort (s : State) (pa : Nat) : Bool :=
  match s.peerPort pa false with
  | some p => !hasFeature p.feats 2
  | none => false

/-! Messages of the dead (R352). -/

/-- Count a message dropped (R352, R375). -/
def State.countDead (s : State) : State :=
  { s with dev := { s.dev with deadMsgs := if s.dev.deadMsgs = 0xFFFF then 0xFFFF else s.dev.deadMsgs + 1 } }

/-- A message of a peer: one of an earlier incarnation is dropped and counted (R352). -/
def State.fromPeer (s : State) (p : Sender) (f : State) : State := if p.inc = Store.get 0 s.peer.inc p.agent then f else s.countDead

/-- The answer to an operation that failed with its peer comes from an earlier incarnation: it is dropped and
counted. -/
def State.lateAnswer (s : State) (id : Nat) : State :=
  if id ∈ s.peer.late then State.countDead { s with peer := { s.peer with late := s.peer.late.erase id } } else s

end Sys2Proof.Machine
end

