-- ==== Sys2Proof/Machine/Cache.lean ====
section
/-! DEFINITION. Where lines stand: home slices, the tags of the caches and what leaves them, and the spill pools
(R275 to R278, R344, R357). -/

namespace Sys2Proof.Machine

/-- Base die of a device address (R279), or of a host address (R275). -/
def baseDie (pa : Nat) : Nat := if hostBit ≤ pa then pa / 2 ^ 12 % 2 else pa / 2 ^ 38 % 2

/-- Home slice of a line: base die and slice (R275). -/
def sliceOf (pa : Nat) : Nat × Nat :=
  (baseDie pa, (pa / 2 ^ 7 % 64) ^^^ (pa / 2 ^ 13 % 64) ^^^ (pa / 2 ^ 19 % 64) ^^^ (pa / 2 ^ 25 % 64) ^^^ (pa / 2 ^ 31 % 32))

/-- Its number among the 128. -/
def sliceNo (pa : Nat) : Nat := 64 * (sliceOf pa).1 + (sliceOf pa).2

/-- Lines in the spill pool of a base die, live or dead, remote ones included (R278, R299). -/
def State.poolUse (s : State) (die : Nat) : Nat :=
  (s.mem.copies.filter (fun c => c.pool && decide (baseDie c.line = die))).length

/-- Lines of a spill pool (R278). -/
def poolLines : Nat := 8388608

/-! Tags of the caches (R275, R276). A policy is 0 NORM, 1 STRM, 2 KEEP, 3 NOAL. -/

/-- A use of a line in a cache of `ways` ways: a hit becomes most recent, but keeps its place under NOAL; an
allocated line enters at the most recent place, or at the least recent one under STRM and NOAL; the least
recently used line of a full set leaves, one with the keep mark only when no other is left; at most 8 lines
of a set keep the mark. The answer holds the tag that left. -/
def cacheUse (ways : Nat) (set : Nat → Nat) (pol : Nat) (alloc : Bool) (e : CacheEnt) (l : List CacheEnt) : List CacheEnt × Option CacheEnt :=
  let same := fun (x : CacheEnt) => decide (x.unit = e.unit) && decide (x.line = e.line) && decide (x.copy = e.copy)
  let unit := l.filter (fun x => decide (x.unit = e.unit) && !same x)
  let peers := if unit.length < Nat.min ways 8 then [] else unit.filter (fun x => decide (set x.line = set e.line))
  let marked := peers.filter CacheEnt.keep
  let l := match (if e.keep && decide (8 ≤ marked.length) then marked.getLast? else none) with
    | some v => l.map (fun x => if x = v then { x with keep := false } else x)
    | none => l
  match l.find? same with
  | some x =>
    let y := { x with keep := x.keep || e.keep, sectors := x.sectors ||| e.sectors }
    (if pol = 3 then l.map (fun z => if same z then y else z) else y :: l.filter (fun z => !same z), none)
  | none =>
    if !alloc then (l, none)
    else
      let victim := if peers.length < ways then none else ((peers.filter (fun x => !x.keep)).getLast?).orElse (fun _ => peers.getLast?)
      let l := match victim with | some v => l.erase v | none => l
      (if pol = 1 ∨ pol = 3 then l ++ [e] else e :: l, victim)

/-- A versioned copy evicted from L2 goes to its base die's pool (R277). While the pool is full it stays where
it is (DESIGN CHOICE, log entry 116). -/
def State.spillCopy (s : State) (ctx : Nat) (v : Tag16) (line : Nat) : State :=
  if poolLines ≤ s.poolUse (baseDie line) then s
  else { s with mem := { s.mem with copies := s.mem.copies.map (fun c =>
    if c.src = none ∧ c.ctx = ctx ∧ c.tag = v ∧ c.line = line then { c with pool := true } else c) } }

/-- A half of a host line leaves L2: dirty data go back to host memory and the device holds it no more, unless
L1s hold copies of it that the directory knows (R344). -/
def State.leaveHalf (s : State) (half : Nat) : State :=
  if s.coh.dir.any (fun d => decide (d.line = 64 * half)) then s
  else
    match s.coh.half? (64 * half) with
    | none => s
    | some h =>
      let s := if h.st = .m then
        { s with mem := { s.mem with ram := s.mem.ram.writeWords (64 * half) ((List.range 16).map (fun i => Store.get 0 h.words i)) } } else s
      { s with coh := { s.coh with halves := s.coh.halves.filter (fun x => decide (x.half ≠ half)) } }

/-- A device line leaves L2 for memory, where a mark stands for a burst of 64 bytes (R357). -/
def State.burstMarks (s : State) (line : Nat) : State :=
  s.setPoison ((List.range 4).filterMap (fun k =>
    if s.poisoned (line + 32 * (k / 2 * 2)) || s.poisoned (line + 32 * (k / 2 * 2) + 32) then some (line / 32 + k) else none))

/-- What becomes of a line, or of a version's copy, that leaves L2. -/
def State.l2Leave (s : State) (e : CacheEnt) : State :=
  match e.copy with
  | some (ctx, v) => s.spillCopy ctx v e.line
  | none => if hostBit ≤ e.line then (s.leaveHalf (e.line / 64)).leaveHalf (e.line / 64 + 1) else s.burstMarks e.line

/-- The 32-byte sector of an address in its 128-byte line. -/
def l2Sector (pa : Nat) : BitVec 16 := 1#16 <<< (pa % 128 / 32)

/-- A use of sectors of a line, or of a version's copy of it, at its home slice: 16 ways of 1,536 sets (R275 to
R277). -/
def State.l2Use (s : State) (pol pa : Nat) (copy : Option (Nat × Tag16)) (sectors : BitVec 16 := l2Sector pa) : State :=
  let r := cacheUse 16 (fun l => Config.l2Set l % 1536) pol true
    { unit := sliceNo pa, line := lineOf pa, copy := copy, keep := pol == 2, sectors := sectors } s.mem.l2
  let s := { s with mem := { s.mem with l2 := r.1 } }
  match r.2 with
  | some e => s.l2Leave e
  | none => s

/-- Sectors of a line are no longer in L2. -/
def State.l2Lose (s : State) (line : Nat) (sectors : BitVec 16) : State :=
  { s with mem := { s.mem with
      l2 := (s.mem.l2.map (fun e => if e.copy.isNone ∧ e.line = line then { e with sectors := e.sectors &&& ~~~sectors } else e)).filter (fun e => e.sectors != 0) } }

/-- Does L2 hold the sector of an address? -/
def State.l2Holds (s : State) (pa : Nat) : Bool :=
  s.mem.l2.any (fun e => e.copy.isNone && decide (e.line = lineOf pa) && (e.sectors &&& l2Sector pa) != 0)

/-- The sectors of a directory unit in its line. -/
def unitSectors (unit : Nat) : BitVec 16 := if hostBit ≤ unit then 0x3#16 <<< (unit % 128 / 32) else 0xF

/-- Line copies freed, with their tags in L2. -/
def State.dropCopies (s : State) (f : LineCopy → Bool) : State :=
  { s with mem := { s.mem with
      copies := s.mem.copies.filter (fun c => !f c)
      l2 := s.mem.l2.filter (fun e => match e.copy with
        | some (ctx, v) => !s.mem.copies.any (fun c => f c && decide (c.src = none) && decide (c.ctx = ctx) && c.tag == v && decide (c.line = e.line))
        | none => true) } }

end Sys2Proof.Machine
end

