-- ==== Sys2Proof/Machine/Translate.lean ====
section
/-! DEFINITION. Page tables, TLBs and translation (09_memory_hierarchy.md R279 to R289, R348), the
forwarding of migrating lines (R287) and instruction fetch (R76). -/

namespace Sys2Proof.Machine

/-- Does a page's old frame hold the address? -/
def Migr.covers (m : Migr) (pa : Nat) : Bool := decide (m.old ≤ pa) && decide (pa < m.old + m.size)

/-- Does the line of an address stand at the new frame? -/
def Migr.moved (m : Migr) (pa : Nat) : Bool := Store.get false m.there ((pa - m.old) / 128)

/-- Where a physical address stands while its page migrates or is split: lines already moved are at
the new frame (R286 to R288). -/
def State.fwd (s : State) (pa : Nat) : Nat :=
  match s.mem.migr.find? (fun m => m.covers pa && m.moved pa) with
  | some m => pa - m.old + m.new
  | none => pa

/-- Is a version's copy of the line in a spill pool, committed and still to be merged (R300 step 2)? -/
def State.mergeWaits (s : State) (pa : Nat) : Bool :=
  s.mem.copies.any (fun c => c.pool && c.src.isNone && decide (c.line = lineOf pa) &&
    (match s.ctx? c.ctx with | some x => decide (c.tag ∈ x.merging) | none => false))

/-- Do accesses to a line wait: is it to be moved (R287), or to be merged (R300)? -/
def State.lineWaits (s : State) (pa : Nat) : Bool :=
  s.mergeWaits (s.fwd pa) ||
  s.mem.migr.any (fun m => m.running && m.covers pa && m.moved pa != m.toNew)

/-! Fields of a page table entry (R282). -/

def pteV (e : DWord) : Bool := e.getLsbD 0
def pteLeaf (e : DWord) : Bool := e.getLsbD 1
def pteRd (e : DWord) : Bool := e.getLsbD 2
def pteW (e : DWord) : Bool := e.getLsbD 3
def pteX (e : DWord) : Bool := e.getLsbD 4
def pteD (e : DWord) : Bool := e.getLsbD 7
def pteA (e : DWord) : Bool := e.getLsbD 8
def pteSize (e : DWord) : Nat := (e.extractLsb' 9 3).toNat
/-- Frame address: FRAME × 4,096. -/
def pteFrame (e : DWord) : Nat := (e.extractLsb' 12 39).toNat * 4096
def pteOrdCode (e : DWord) : Nat := (e.extractLsb' 53 2).toNat
def pteCohCode (e : DWord) : Nat := (e.extractLsb' 55 2).toNat
def pteGrain (e : DWord) : Nat := (e.extractLsb' 57 2).toNat
def pteTherm (e : DWord) : Nat := (e.extractLsb' 59 2).toNat
def pteKv (e : DWord) : Bool := e.getLsbD 61
def pteVers (e : DWord) : Bool := e.getLsbD 62
def pteHost (e : DWord) : Bool := e.getLsbD 63

/-- Ordering class of a leaf. -/
def pteOrd (e : DWord) : OrdClass := if pteOrdCode e = 0 then .so else if pteOrdCode e = 1 then .rc else .uo
/-- Coherence class of a leaf. -/
def pteCoh (e : DWord) : CohClass := if pteCohCode e = 0 then .dir else if pteCohCode e = 1 then .self else .nc

/-- Bytes of a page of a size code (R281). -/
def pageBytes (code : Nat) : Nat :=
  match code with
  | 0 => 2 ^ 12 | 1 => 2 ^ 16 | 2 => 2 ^ 18 | 3 => 2 ^ 21 | 4 => 2 ^ 24 | 5 => 2 ^ 27 | 6 => 2 ^ 30 | _ => 2 ^ 34

/-- Size codes a leaf may have at a level (R281). -/
def sizeAtLevel (lvl code : Nat) : Bool :=
  match lvl with
  | 0 => decide (code ≤ 3)
  | 1 => decide (4 ≤ code) && decide (code ≤ 6)
  | 2 => code == 7
  | _ => false

/-- Check 2 of R283. -/
def pteMalformed (lvl : Nat) (e : DWord) : Bool :=
  (e.extractLsb' 51 2 != 0) || (e.extractLsb' 5 2 != 0) ||
  pteTherm e == 3 || pteGrain e == 3 || pteCohCode e == 3 || pteOrdCode e == 3 ||
  (if pteLeaf e then !sizeAtLevel lvl (pteSize e) || (pteHost e && (pteVers e || pteKv e))
   else lvl == 0 || (e &&& ~~~(((BitVec.allOnes 39 : BitVec 39).setWidth 64 <<< 12) ||| 1#64)) != 0 || (e.extractLsb' 12 2 != 0))

/-- Ranges reserved for the spill pools (R279). -/
def reservedFrame (base bytes : Nat) : Bool :=
  (decide (base < 0x4000000000) && decide (0x3FC0000000 < base + bytes)) ||
  (decide (base < 0x8000000000) && decide (0x7FC0000000 < base + bytes))

/-- Is a device number in the domain map of the trained ports (R348, R378)? -/
def State.peerKnown (s : State) (n : Nat) : Bool :=
  decide (n ≠ s.dev.number) && s.dev.ports.any (fun p => p.up && decide (n ∈ p.peers))

/-- Is a frame good (check 3 of R283, R280, R348)? -/
def State.frameOk (s : State) (host : Bool) (frame bytes : Nat) : Bool :=
  decide (frame % bytes = 0) &&
  (if host then decide (frame + bytes ≤ s.dev.hostBytes)
   else if peerBit ≤ frame then
     frame / 2 ^ 39 % 2 == 0 && s.peerKnown (frame / 2 ^ 40 % 1024)
   else decide (frame + bytes ≤ 2 ^ 39) && !reservedFrame frame bytes)

/-- A leaf found by a walk: the entry, its address and the base of its page. -/
structure Leaf where
  pte : DWord
  leafAt : Nat
  vbase : Nat
  deriving DecidableEq, Repr

/-- A walk from a table of level `n - 1` (R281, R283): a leaf, or the SUB of the PAGE fault. -/
def State.walk (s : State) (va : Nat) : Nat → Nat → Except Nat Leaf
  | 0, _ => .error 2
  | lvl + 1, table =>
    let pos := table + 8 * (va / 2 ^ (12 + 11 * lvl) % 2048)
    let e := s.peek64 (s.fwd pos)
    if !pteV e then .error 1
    else if pteMalformed lvl e then .error 2
    else if pteLeaf e then
      if s.frameOk (pteHost e) (pteFrame e) (pageBytes (pteSize e)) then
        .ok ⟨e, pos, va / pageBytes (pteSize e) * pageBytes (pteSize e)⟩
      else .error 3
    else if s.frameOk false (pteFrame e) 16384 && decide (pteFrame e < 2 ^ 39) then State.walk s va lvl (pteFrame e)
    else .error 3

/-- What an access needs of a leaf (R283): cache maintenance and PFG need nothing. -/
inductive Need where
  | fetch | rd | wr | rw | nothing
  deriving DecidableEq, Repr

/-- The permission check of R283. -/
def Need.allowed (n : Need) (e : DWord) : Bool :=
  match n with
  | .fetch => pteX e
  | .rd => pteRd e
  | .wr => pteW e
  | .rw => pteRd e && pteW e
  | .nothing => true

/-! Walk caches and TLBs (R285). -/

/-- The pointer entries that a walk reads, each with its level and the table it names. -/
def State.walkPtrs (s : State) (va : Nat) : Nat → Nat → List (Nat × Nat)
  | 0, _ => []
  | lvl + 1, table =>
    let e := s.peek64 (s.fwd (table + 8 * (va / 2 ^ (12 + 11 * lvl) % 2048)))
    if pteV e && !pteMalformed lvl e && !pteLeaf e && s.frameOk false (pteFrame e) 16384 && decide (pteFrame e < 2 ^ 39)
    then (lvl, pteFrame e) :: State.walkPtrs s va lvl (pteFrame e) else []

/-- The addresses of the entries that a walk reads. -/
def State.walkReads (s : State) (va n table : Nat) : List Nat :=
  ((n, table) :: s.walkPtrs va n table).map (fun p => s.fwd (p.2 + 8 * (va / 2 ^ (12 + 11 * (p.1 - 1)) % 2048)))

/-- Does a walk read an entry whose line waits to be moved (R287)? -/
def State.walkWaits (s : State) (va : Nat) : Nat → Nat → Bool
  | 0, _ => false
  | lvl + 1, table =>
    let pos := table + 8 * (va / 2 ^ (12 + 11 * lvl) % 2048)
    let e := s.peek64 (s.fwd pos)
    s.lineWaits pos || (pteV e && !pteMalformed lvl e && !pteLeaf e && State.walkWaits s va lvl (pteFrame e))

/-- A pointer entry in a walk cache. -/
def State.walkHit (s : State) (unit ctx lvl va : Nat) : Option WalkEnt :=
  s.mem.walks.find? (fun w => decide (w.unit = unit) && decide (w.ctx = ctx) && decide (w.lvl = lvl) && decide (w.vpart = va / 2 ^ (12 + 11 * lvl)))

/-- Where a walk starts: past the deepest pointer entry held, or at the root. -/
def State.walkStart (s : State) (unit ctx va root : Nat) : Nat × Nat :=
  match s.walkHit unit ctx 1 va, s.walkHit unit ctx 2 va, s.walkHit unit ctx 3 va with
  | some w, _, _ => (1, w.table)
  | none, some w, _ => (2, w.table)
  | none, none, some w => (3, w.table)
  | none, none, none => (4, root)

/-- A unit's walk cache holds 512 entries; the oldest leaves (log entry 91). -/
def putWalk (l : List WalkEnt) (w : WalkEnt) : List WalkEnt :=
  let same := l.filter (fun x => decide (x.unit = w.unit))
  w :: (if 512 ≤ same.length then (match same.getLast? with | some v => l.erase v | none => l) else l)

/-- Do two entries stand in one set: a first-level TLB is fully associative, a second-level one has 1,024
sets by the virtual address bits just above the page size (R285)? -/
def TlbEnt.sameSet (x y : TlbEnt) : Bool :=
  decide (x.unit = y.unit) && (decide (16 ≤ x.unit) || decide (x.vbase / x.size % 1024 = y.vbase / y.size % 1024))

/-- Entries of the set: 128, or 16 ways. -/
def TlbEnt.ways (x : TlbEnt) : Nat := if 16 ≤ x.unit then 128 else 16

/-- An entry joins its TLB; the oldest of a full set leaves (log entry 91). -/
def putTlb (l : List TlbEnt) (t : TlbEnt) : List TlbEnt :=
  let same := l.filter t.sameSet
  t :: (if t.ways ≤ same.length then (match same.getLast? with | some v => l.erase v | none => l) else l)

/-- A translation in a TLB (R285). -/
def State.tlbFind (s : State) (unit ctx va : Nat) : Option TlbEnt :=
  s.mem.tlb.find? (fun t => decide (t.unit = unit) && decide (t.ctx = ctx) && decide (t.vbase ≤ va) && decide (va < t.vbase + t.size))

/-- Put a translation into a TLB. -/
def State.tlbPut (s : State) (t : TlbEnt) : State := { s with mem := { s.mem with tlb := putTlb s.mem.tlb t } }

/-- Set a bit of the low word of an entry, at its home slice (R284). -/
def State.setPteBit (s : State) (leafAt : Nat) (bit : Word) : State :=
  (s.poke (s.fwd leafAt) (s.peek (s.fwd leafAt) ||| bit)).l2Use 0 (s.fwd leafAt) none

/-- A walk for a second-level TLB (R283 to R285): its entry enters with A set, and the pointer entries it
read enter the walk cache. The error is the SUB of the PAGE fault, or `none` while an entry's line waits
to be moved. -/
def State.tlbWalk (s : State) (unit ctx va : Nat) : State × Except (Option Nat) TlbEnt :=
  match s.ctx? ctx with
  | none => (s, .error (some 1))
  | some c =>
    let (n, table) := s.walkStart unit ctx va c.ptRoot
    if s.walkWaits va n table then (s, .error none)
    else
      let ptrs := s.walkPtrs va n table
      let cached := ptrs.foldl (fun l p => putWalk l ⟨unit, ctx, p.1, va / 2 ^ (12 + 11 * p.1), p.2⟩) s.mem.walks
      let leaf := s.walk va n table
      let s := (s.walkReads va n table).foldl (fun s pa => s.l2Use 0 pa none) s
      match leaf with
      | .error e => ({ s with mem := { s.mem with walks := cached } }, .error (some e))
      | .ok l =>
        let t : TlbEnt := ⟨unit, ctx, l.vbase, pageBytes (pteSize l.pte), l.pte, l.leafAt, pteD l.pte⟩
        let s := s.setPteBit l.leafAt 0x100
        (({ s with mem := { s.mem with walks := cached } }).tlbPut t, .ok t)

/-- The TLB entry for an address: the core's, its die's, or a walk's (R283 to R285). -/
def State.tlbFill (s : State) (unit ctx va : Nat) : State × Except (Option Nat) TlbEnt :=
  match s.tlbFind unit ctx va with
  | some t => (s, .ok t)
  | none =>
    if unit < 16 then s.tlbWalk unit ctx va
    else
      match s.tlbFind (tlbDie unit) ctx va with
      | some t => (s.tlbPut { t with unit := unit }, .ok { t with unit := unit })
      | none =>
        match s.tlbWalk (tlbDie unit) ctx va with
        | (s, .error e) => (s, .error e)
        | (s, .ok t) => (s.tlbPut { t with unit := unit }, .ok { t with unit := unit })

/-- Are two entries of a core's and its die's TLBs for one page? -/
def TlbEnt.twin (x y : TlbEnt) : Bool :=
  decide (tlbDie x.unit = tlbDie y.unit) && decide (x.ctx = y.ctx) && decide (x.vbase = y.vbase) && decide (x.size = y.size)

/-- Drop a translation from a core's TLB and from its die's. -/
def State.tlbDrop (s : State) (t : TlbEnt) : State :=
  { s with mem := { s.mem with tlb := s.mem.tlb.filter (fun x => !((x.unit == t.unit || decide (x.unit < 16)) && x.twin t)) } }

/-- The outcome of a translation: the entry used and the physical address, a PAGE fault with its SUB,
a PROT fault, or a wait for a line of the page table that is being moved (R287). -/
inductive Xlat where
  | ok (pte : DWord) (pa : Nat)
  | page (sub : Nat)
  | prot
  | wait
  deriving DecidableEq, Repr

/-- The physical address of a leaf's page, as the model keys it. -/
def leafBase (e : DWord) : Nat := pteFrame e + (if pteHost e then hostBit else 0)

/-- Translation of an address in a context through the TLB of a unit (R283 to R285). -/
def State.translate (s : State) (unit ctx : Nat) (need : Need) (va : Nat) : State × Xlat :=
  match s.tlbFill unit ctx va with
  | (s, .error none) => (s, .wait)
  | (s, .error (some e)) => (s, .page e)
  | (s, .ok t) => (s, if need.allowed t.pte then .ok t.pte (leafBase t.pte + (va - t.vbase)) else .prot)

/-- May D be set: the entry must still be valid with the same frame (R284). -/
def State.dirtyOk (s : State) (t : TlbEnt) : Bool :=
  pteV (s.peek64 (s.fwd t.leafAt)) && pteFrame (s.peek64 (s.fwd t.leafAt)) == pteFrame t.pte

/-- Set D and record it. -/
def State.setDirty (s : State) (t : TlbEnt) : State :=
  let s := s.setPteBit t.leafAt 0x80
  { s with mem := { s.mem with tlb := s.mem.tlb.map (fun x => if (x.unit == t.unit || decide (x.unit < 16)) && x.twin t then { x with dirty := true } else x) } }

/-- Before the first write through an entry that recorded D = 0, D is set; where it cannot be, the
translation is dropped, the answer is false, and the walk is to be made again (R284). -/
def State.markDirty (s : State) (unit ctx va : Nat) : State × Bool :=
  match s.tlbFill unit ctx va with
  | (s, .error _) => (s, false)
  | (s, .ok t) => if t.dirty then (s, true) else if s.dirtyOk t then (s.setDirty t, true) else (s.tlbDrop t, false)

/-- The same for the pages of several addresses; it stops at the first that fails. -/
def State.markAll (s : State) (unit ctx : Nat) : List Nat → State × Bool
  | [] => (s, true)
  | va :: r =>
    match s.markDirty unit ctx va with
    | (s, false) => (s, false)
    | (s, true) => State.markAll s unit ctx r

/-- Drop the translations of a context that cover an address, or all of them, with the walk-cache entries
that match (R242, R285). -/
def State.tlbInval (s : State) (ctx : Nat) (va : Option Nat) : State :=
  { s with mem := { s.mem with
      tlb := s.mem.tlb.filter (fun t =>
        !(decide (t.ctx = ctx) && (match va with | none => true | some a => decide (t.vbase ≤ a) && decide (a < t.vbase + t.size))))
      walks := s.mem.walks.filter (fun w =>
        !(decide (w.ctx = ctx) && (match va with | none => true | some a => decide (w.vpart = a / 2 ^ (12 + 11 * w.lvl))))) } }

/-! Host ports (R280, R346). -/

/-- The host port that carries a line (R280). -/
def State.hostPort (s : State) (pa : Nat) : Option Nat :=
  let n := s.dev.hostPorts.length
  if n = 0 then none else s.dev.hostPorts[pa / 4096 % n]?

/-- Is the port of a host word down (R346)? -/
def State.portDown (s : State) (pa : Nat) : Bool :=
  match s.hostPort (pa % 2 ^ 51) with
  | some p => !(nth s.dev.ports p Port.down).up
  | none => true

/-! Instruction fetch (R76). -/

/-- Global virtual address of a code offset (R16, R76). -/
def State.codeAddr (s : State) (ctx : Nat) (pc : Word) : Nat :=
  match s.ctx? ctx with
  | some c => (c.codeBase.extractLsb' 12 44).toNat * 4096 + pc.toNat
  | none => pc.toNat

/-- The block of a core's instruction cache that holds an address. -/
def State.codeLine? (s : State) (core ctx pa : Nat) : Option CodeLine :=
  s.mem.icache.find? (fun l => decide (l.core = core) && decide (l.ctx = ctx) && decide (l.block = pa / 64))

/-- A block fetched into an instruction cache of 64 KiB; the oldest of a full one leaves (R1, log entry
91). -/
def putCode (l : List CodeLine) (c : CodeLine) : List CodeLine :=
  let same := l.filter (fun x => decide (x.core = c.core))
  c :: (if 1024 ≤ same.length then (match same.getLast? with | some v => l.erase v | none => l) else l)

/-- A word of code at its physical address, through the instruction cache, which fetches an aligned 64-byte
block whole; `none` is an uncorrectable error (R76, R357). -/
def State.codeWord (s : State) (core ctx pa : Nat) : State × Option Word :=
  match s.codeLine? core ctx pa with
  | some l => (s, some (nth l.words (pa % 64 / 4) 0))
  | none =>
    if s.marked pa then (s, none)
    else if s.marked (pa / 64 * 64) || s.marked (pa / 64 * 64 + 32) then (s, some (s.peek pa))
    else
      let line : CodeLine := ⟨core, ctx, pa / 64, (List.range 16).map (fun i => s.peek (pa / 64 * 64 + 4 * i))⟩
      let s := s.l2Use 0 pa none (0x3#16 <<< (pa % 128 / 64 * 2))
      ({ s with mem := { s.mem with icache := putCode s.mem.icache line } }, some (s.peek pa))

/-- The instruction caches lose their lines of a context (R76). -/
def State.codeInval (s : State) (ctx : Nat) : State :=
  { s with mem := { s.mem with icache := s.mem.icache.filter (fun l => decide (l.ctx ≠ ctx)) } }

/-- Instruction fetch at a program counter (R76): the word; a precise trap with the address; or, as `none`,
a wait for a line that is being moved (R287), or for its half of host memory (R344). -/
def State.fetch (s : State) (g : Group) (pc : Word) : State × Except (Option Trap) Word :=
  let va := s.codeAddr g.ctx pc
  let val := BitVec.ofNat 64 va
  if 2 ^ 56 ≤ va then (s, .error (some ⟨.prot, 1, val, .precise⟩))
  else
    match s.translate g.tlbUnit g.ctx .fetch va with
    | (s, .wait) => (s, .error none)
    | (s, .page e) => (s, .error (some ⟨.page, e, val, .precise⟩))
    | (s, .prot) => (s, .error (some ⟨.prot, 2, val, .precise⟩))
    | (s, .ok _ pa) =>
      let at_ := s.fwd pa
      let held := (s.codeLine? g.l1 g.ctx at_).isSome || decide (at_ < hostBit)
      if s.lineWaits pa then (s, .error none)
      else if !held && (s.portDown at_ || decide (at_ / 64 ∈ s.mem.lost)) then (s, .error (some ⟨.ecc, 2, val, .precise⟩))
      else if !held && (s.coh.half? at_).isNone then (s, .error none)
      else
        match s.codeWord g.l1 g.ctx (s.fwd pa) with
        | (s, some w) => (s, .ok w)
        | (s, none) => (s, .error (some ⟨.ecc, 2, val, .precise⟩))

/-- The word at a program counter, with no effect and no fault, for the scoreboard. -/
def State.peekCode (s : State) (g : Group) (pc : Word) : Option Word :=
  match (s.fetch g pc).2 with
  | .ok w => some w
  | .error _ => none

end Sys2Proof.Machine
end

