-- ==== Sys2Proof/Machine/Memory.lean ====
section
/-! DEFINITION. Reading and writing one word of memory where it is served: a bank, a vault, a version's
view, an L1 that holds SELF lines, a die that holds a DIR line, a host half, a peer, or the home slice
(R247, R260, R295 to R298, R337 to R342, R344, R348). -/

namespace Sys2Proof.Machine

/-! Versions. -/

/-- A version by its tag. -/
def Ctx.ver? (c : Ctx) (v : Tag16) : Option Ver := c.vers.find? (fun x => x.tag == v)

/-- Is a tag live (R227)? Version 0 always is. -/
def Ctx.live (c : Ctx) (v : Tag16) : Bool :=
  v == 0 || (match c.ver? v with | some x => x.st == .live | none => false)

/-- The ancestry path of a version, nearest first, without the root; depth is at most 16 (R293). -/
def Ctx.pathFuel (c : Ctx) : Nat → Tag16 → List Tag16
  | 0, _ => []
  | k + 1, v =>
    if v = 0 then []
    else
      match c.ver? v with
      | some x => if x.st = .live then v :: Ctx.pathFuel c k x.parent else []
      | none => []

def Ctx.path (c : Ctx) (v : Tag16) : List Tag16 := c.pathFuel 17 v

/-- The path of a version of a context. -/
def State.path (s : State) (ctx : Nat) (v : Tag16) : List Tag16 :=
  match s.ctx? ctx with
  | some c => c.path v
  | none => []

/-- The versions whose copies a view reads, nearest first: the path, then the committed versions that are still
to be merged. -/
def State.viewPath (s : State) (ctx : Nat) (v : Tag16) : List Tag16 :=
  match s.ctx? ctx with
  | some c => if v = 0 then [] else c.path v ++ c.merging
  | none => []

/-- Is `v` the version `w` or one of its descendants? -/
def State.descends (s : State) (ctx : Nat) (v w : Tag16) : Bool := w == 0 || decide (w ∈ s.path ctx v)

def State.live (s : State) (ctx : Nat) (v : Tag16) : Bool :=
  match s.ctx? ctx with
  | some c => c.live v
  | none => false

/-! Tile words of versions (R260, R298). -/

/-- The live version, other than 0, to whose team's allocation a tile word belongs. -/
def State.tileOwner (s : State) (ctx word : Nat) : Option Tag16 :=
  match s.teams.find? (fun t => decide (t.key.ctx = ctx) && decide (t.tileBase ≤ word) && decide (word < t.tileBase + t.tileWords)) with
  | none => none
  | some t =>
    match s.grid? t.key.ctx t.key.grid with
    | none => none
    | some g => if g.rcd.vtag = 0 ∨ !s.live ctx g.rcd.vtag then none else some g.rcd.vtag

/-- Is version `v` the owner of the word or one of its descendants, or has the word no owner? Only they return what
the owner's subtree writes (R260). -/
def State.tileInside (s : State) (ctx : Nat) (v : Tag16) (word : Nat) : Bool :=
  match s.tileOwner ctx word with
  | none => true
  | some o => v != 0 && s.descends ctx v o

/-- What the nearest version of a path, or version 0, has written over a word. -/
def State.tileOver (s : State) (path : List Tag16) (word : Nat) : Option Word :=
  (path ++ [0]).findSome? (fun v => (s.mem.tileOver.find? (fun (e : Tag16 × Nat × Word) => e.1 == v && decide (e.2.1 = word))).map (fun (e : Tag16 × Nat × Word) => e.2.2))

/-- A tile word in a version's view: the write of the nearest view (R260); storage is zero when it is allocated
(R268). -/
def State.tileRead (s : State) (ctx : Nat) (v : Tag16) (word : Nat) : Word :=
  match s.tileOwner ctx word with
  | none => s.readTile word
  | some _ =>
    let laid := s.tileOver (s.viewPath ctx v) word
    if s.tileInside ctx v word then (if word ∈ s.mem.tileMine then s.readTile word else laid.getD (s.readTile word)) else laid.getD 0

/-- A word that is written directly (R298): the subtree of its owner reads it where it stands. -/
def State.tileStore (s : State) (word : Nat) (x : Word) : State :=
  let s := s.writeTile word x
  if word ∈ s.mem.tileMine then s else { s with mem := { s.mem with tileMine := word :: s.mem.tileMine } }

/-- Does a word belong to an allocation of a descendant of the version (R298)? -/
def State.tileBelow (s : State) (ctx : Nat) (v : Tag16) (word : Nat) : Bool :=
  match s.tileOwner ctx word with
  | some o => s.descends ctx o v
  | none => false

/-- A write to a tile word in a version's view. One by an ancestor of the owner is direct as well, and stays what the
ancestor's own view reads (R260, R298, log entry 102). -/
def State.tileWrite (s : State) (ctx : Nat) (v : Tag16) (word : Nat) (x : Word) : State :=
  match s.tileOwner ctx word with
  | none => s.writeTile word x
  | some _ =>
    if s.tileInside ctx v word then s.tileStore word x
    else
      let s := if v != 0 && s.tileBelow ctx v word then s.tileStore word x else s
      { s with mem := { s.mem with tileOver := (v, word, x) :: s.mem.tileOver.filter (fun e => !(e.1 == v && decide (e.2.1 = word))) } }

/-- At a commit the version's writes over words of its children's allocations are committed (R261). -/
def State.tileMerge (s : State) (ctx : Nat) (v : Tag16) : State :=
  let mine := fun (e : Tag16 × Nat × Word) => e.1 == v && (s.tileOwner ctx e.2.1).isSome
  let won := s.mem.tileOver.filter mine
  let rest := s.mem.tileOver.filter (fun e => !mine e && !(e.1 == 0 && won.any (fun x => decide (x.2.1 = e.2.1))))
  { s with mem := { s.mem with tileOver := won.map (fun e => (0, e.2)) ++ rest } }

/-- An allocation is gone, and what was kept about its words with it. -/
def State.tileSettle (s : State) (words : Nat → Bool) : State :=
  { s with mem := { s.mem with
      tileMine := s.mem.tileMine.filter (fun w => !words w)
      tileOver := s.mem.tileOver.filter (fun e => !words e.2.1) } }

/-! Line copies (R295 to R297). -/

/-- A version's copy of a line. -/
def State.copy? (s : State) (src : Option Nat) (ctx : Nat) (v : Tag16) (line : Nat) : Option LineCopy :=
  s.mem.copies.find? (fun c => decide (c.src = src) && decide (c.ctx = ctx) && c.tag == v && decide (c.line = line))

/-- The word a path gives, by R296. -/
def State.viewRead (s : State) (src : Option Nat) (ctx : Nat) : List Tag16 → Nat → Word
  | [], pa => s.peek pa
  | v :: r, pa =>
    match s.copy? src ctx v (lineOf pa) with
    | some c => if c.mask.getLsbD (pa % 128 / 4) then Store.get 0 c.words (pa % 128 / 4) else State.viewRead s src ctx r pa
    | none => State.viewRead s src ctx r pa

/-- The word's mark along a path (R357): its copy's sector, or the line's. -/
def State.viewPoison (s : State) (src : Option Nat) (ctx : Nat) : List Tag16 → Nat → Bool
  | [], pa => s.marked pa
  | v :: r, pa =>
    match s.copy? src ctx v (lineOf pa) with
    | some c => if c.mask.getLsbD (pa % 128 / 4) then c.poison.getLsbD (pa % 128 / 32) else State.viewPoison s src ctx r pa
    | none => State.viewPoison s src ctx r pa

/-- Lines of a version held in the L2 of a base die (R277). -/
def State.quotaUse (s : State) (ctx : Nat) (v : Tag16) (die : Nat) : Nat :=
  (s.mem.copies.filter (fun c => c.src.isNone && decide (c.ctx = ctx) && c.tag == v && !c.pool && decide (c.line < 2 ^ 39) && decide (baseDie c.line = die))).length

/-- Make an empty copy of a line if the version has none; `none` when the pool is full (R277, R278). It takes a
place in L2 or in the pool; copies for peers use the pool (R299), and those that a peer keeps for this device
stand in the same list and take no place here. -/
def State.reserve (s : State) (src : Option Nat) (ctx : Nat) (v : Tag16) (line : Nat) (pol : Nat := 0) : Option State :=
  match s.copy? src ctx v line with
  | some _ => some s
  | none =>
    let quota := match s.ctx? ctx with | some c => c.quota.toNat * 1024 | none => 0
    let inL2 := decide (peerBit ≤ line) || (src.isNone && decide (s.quotaUse ctx v (baseDie line) < quota))
    if !inL2 && decide (poolLines ≤ s.poolUse (baseDie line)) then none
    else
      let s := { s with mem := { s.mem with copies := ({ ctx := ctx, tag := v, line := line, mask := 0, words := [], pool := !inL2, src := src } : LineCopy) :: s.mem.copies } }
      some (if inL2 && decide (line < peerBit) then s.l2Use pol line (some (ctx, v)) 0xF else s)

/-- Reserve several lines, all or none. -/
def State.reserveAll (s : State) (src : Option Nat) (ctx : Nat) (v : Tag16) (pol : Nat := 0) : List Nat → Option State
  | [] => some s
  | l :: r =>
    match s.reserve src ctx v l pol with
    | some s => State.reserveAll s src ctx v pol r
    | none => none

/-- Put a word into a copy and set its mask bit. -/
def State.copyWrite (s : State) (src : Option Nat) (ctx : Nat) (v : Tag16) (pa : Nat) (w : Word) : State :=
  let i := pa % 128 / 4
  { s with mem := { s.mem with copies := s.mem.copies.map (fun c =>
      if c.src = src ∧ c.ctx = ctx ∧ c.tag = v ∧ c.line = lineOf pa then
        { c with mask := c.mask ||| (1#32 <<< i), words := Store.set 0 c.words i w }
      else c) } }

/-- Mark or clear a sector of a copy (R357). -/
def State.copyMark (s : State) (src : Option Nat) (ctx : Nat) (v : Tag16) (pa : Nat) (bad : Bool) : State :=
  { s with mem := { s.mem with copies := s.mem.copies.map (fun c =>
      if c.src = src ∧ c.ctx = ctx ∧ c.tag = v ∧ c.line = lineOf pa then
        { c with poison := if bad then c.poison ||| (1#4 <<< (pa % 128 / 32)) else c.poison &&& ~~~(1#4 <<< (pa % 128 / 32)) }
      else c) } }

/-- The lines a write makes copies of: the line, or the aligned 4 KiB of a KVPAGE page (R297), as the
addresses that the translation gives. -/
def unitLines (kv : Bool) (pa : Nat) : List Nat :=
  if kv then (List.range 32).map (fun i => pa / 4096 * 4096 + 128 * i) else [lineOf pa]

/-- Copy the words of a line that the version does not hold yet, from what its path gives, with their marks
(R297, R357). -/
def State.copyUnit (s : State) (src : Option Nat) (ctx : Nat) (path : List Tag16) (v : Tag16) (line : Nat) (words : List Nat) : State :=
  words.foldl (fun s i =>
    match s.copy? src ctx v line with
    | some c =>
      if c.mask.getLsbD i then s
      else
        let bad := s.viewPoison src ctx path (line + 4 * i)
        let s := s.copyWrite src ctx v (line + 4 * i) (s.viewRead src ctx path (line + 4 * i))
        if bad then s.copyMark src ctx v (line + 4 * i) true else s
    | none => s) s

/-- A write by a live version into its view; a write of a squashed tag is dropped (R302 step 7). The lines of
its unit stand where the migration of their page has put them (R287). -/
def State.viewWrite (s : State) (ctx : Nat) (v : Tag16) (kv : Bool) (pa : Nat) (w : Word) (pol : Nat := 0) : State :=
  if !s.live ctx v then s
  else
    let lines := (unitLines kv pa).map s.fwd
    match s.reserveAll none ctx v pol lines with
    | none => s
    | some s =>
      let s := if kv then lines.foldl (fun s l => s.copyUnit none ctx (s.viewPath ctx v) v l (List.range 32)) s else s
      s.copyWrite none ctx v (s.fwd pa) w

/-- The copy that gives a word of a path its value, if one does (R296). -/
def State.viewHolder (s : State) (ctx : Nat) : List Tag16 → Nat → Option LineCopy
  | [], _ => none
  | v :: r, pa =>
    match s.copy? none ctx v (lineOf pa) with
    | some c => if c.mask.getLsbD (pa % 128 / 4) then some c else State.viewHolder s ctx r pa
    | none => State.viewHolder s ctx r pa

/-- A use of a version's copy, or of the committed line, where it stands: in L2, in the pool, or at a peer (R276 to
R278, R337). -/
def State.copyUse (s : State) (pol pa : Nat) (c : Option LineCopy) : State :=
  match c with
  | some c => if c.pool || decide (peerBit ≤ pa ∧ pa < hostBit) then s else s.l2Use pol pa (some (c.ctx, c.tag))
  | none => if peerBit ≤ pa ∧ pa < hostBit then s else s.l2Use pol pa none

/-! The home slice. -/

/-- Is a transaction in progress on a line (R342)? -/
def Coh.busy (c : Coh) (line : Nat) : Bool := c.dir.any (fun d => decide (d.line = line) && d.busy.isSome)

/-- Words of a directory unit by index as the home slice has them: memory's, or the device's copy of a host
half (R344). -/
def State.lineWords (s : State) (unit : Nat) : Store Word :=
  match (if hostBit ≤ unit then s.coh.half? unit else none) with
  | some h => h.words
  | none => (List.range (unitWords unit)).foldl (fun w i => Store.set 0 w i (s.mem.ram.readWord (unit + 4 * i))) []

/-- Put a line's words into memory. -/
def Memory.putLine (m : Memory) (line : Nat) (w : Store Word) : Memory :=
  m.writeWords line ((List.range (unitWords line)).map (fun i => Store.get 0 w i))

/-- The marks of a unit's sectors at its home slice. -/
def State.unitMarks (s : State) (unit : Nat) : BitVec 4 :=
  BitVec.ofNat 4 (((List.range (unitWords unit / 8)).map (fun k => if s.poisoned (unit + 32 * k) then 2 ^ k else 0)).sum)

/-- A die's dirty copy of a unit goes to the home slice, its marks with it (R342, R357); the line takes its place in L2 by
a policy (R276). -/
def State.putHome (s : State) (x : DieCopy) (pol : Nat := 0) : State :=
  let unit := x.line
  let s :=
    if hostBit ≤ unit ∧ (s.coh.half? unit).isSome then
      { s with coh := { s.coh with halves := s.coh.halves.map (fun h => if h.half = unit / 64 ∧ h.st ≠ .i then { h with st := .m, words := x.words } else h) } }
    else { s with mem := { s.mem with ram := s.mem.ram.putLine unit x.words } }
  let ks := List.range (unitWords unit / 8)
  let s := (s.clearPoison (ks.map (fun k => unit / 32 + k))).setPoison ((ks.filter (fun k => x.poison.getLsbD k)).map (fun k => unit / 32 + k))
  s.l2Use pol unit none (unitSectors unit)

/-- The sectors of a unit are invalid in the L1s of some cores. -/
def Coh.l1Drop (c : Coh) (cores : Nat → Bool) (unit : Nat) : Coh :=
  let n := unitWords unit / 8
  let mask : BitVec 16 := BitVec.ofNat 16 ((2 ^ n - 1) * 2 ^ (unit % 512 / 32))
  { c with l1 := (c.l1.map (fun e => if cores e.unit ∧ e.line = unit / 512 * 512 then { e with sectors := e.sectors &&& ~~~mask } else e)).filter (fun e => e.sectors != 0) }

/-- The sectors of L1s that hold a unit of a die are invalid. -/
def Coh.l1Clear (c : Coh) (die unit : Nat) : Coh := c.l1Drop (fun k => decide (k / 80 = die)) unit

/-- The sectors of 128-byte lines are invalid in one L1. -/
def Coh.l1Lose (c : Coh) (core : Nat) (lines : List Nat) : Coh :=
  { c with l1 := (c.l1.map (fun e => if e.unit = core then
      { e with sectors := (lines.filter (fun l => decide (l / 512 * 512 = e.line))).foldl (fun m l => m &&& ~~~(0xF#16 <<< (l % 512 / 32))) e.sectors } else e)).filter (fun e => e.sectors != 0) }

/-- ATM (R342): the slice recalls the owner's data into L2 and drops every copy of the unit. -/
def State.recall (s : State) (unit : Nat) : State :=
  let mine := s.coh.copies.filter (fun x => decide (x.line = unit))
  let s := match mine.find? (fun x => x.st == .m || x.st == .o) with
    | some x => s.putHome x
    | none => s
  { s with coh := mine.foldl (fun c x => c.l1Clear x.die unit) { s.coh with
      copies := s.coh.copies.filter (fun x => !decide (x.line = unit))
      dir := (s.coh.dir.map (fun d => if d.line = unit ∧ d.busy = none then { d with st := .i, owner := none, sharers := [] } else d)).filter
        (fun d => !(decide (d.line = unit) && d.st == .i && d.busy.isNone && d.waiting.isEmpty)) } }

/-- A write of a word performed at its home slice (R337, R342). -/
def State.homeWrite (s : State) (pa : Nat) (w : Word) : State :=
  if s.coh.busy (cohUnit pa) then s.poke pa w else (s.recall (cohUnit pa)).poke pa w

/-- Words performed at the home slice; the sectors they cover whole lose their marks (R357). -/
def State.homeRun (s : State) (pa : Nat) : List Word → State
  | [] => s
  | w :: r => State.homeRun (s.homeWrite pa w) (pa + 4) r

def State.homeWrites (s : State) (pa : Nat) (l : List Word) : State :=
  (s.homeRun pa l).clearPoison (runSectors pa l.length)

/-! The directory (R341, R342). -/

/-- A line's entry; a line without one is I. -/
def Coh.entry (c : Coh) (line : Nat) : DirEnt := (c.dir.find? (fun d => decide (d.line = line))).getD ⟨line, .i, none, [], none, []⟩

/-- Put an entry back; one in I with nothing in progress is not kept (R341). -/
def Coh.setEntry (c : Coh) (e : DirEnt) : Coh :=
  { c with dir := (if e.st == .i && e.busy.isNone && e.waiting.isEmpty then [] else [e]) ++ c.dir.filter (fun d => decide (d.line ≠ e.line)) }

def State.setEntry (s : State) (e : DirEnt) : State := { s with coh := s.coh.setEntry e }

/-- A die's copy dropped. -/
def State.dropCopy (s : State) (die line : Nat) : State :=
  { s with coh := ({ s.coh with copies := s.coh.copies.filter (fun x => !(decide (x.die = die) && decide (x.line = line))) }).l1Clear die line }

/-- The directory after a die has given up its copy. -/
def DirEnt.without (e : DirEnt) (die : Nat) : DirEnt :=
  let sh := e.sharers.filter (fun d => decide (d ≠ die))
  if e.owner = some die then { e with st := if sh.isEmpty then .i else .s, owner := none, sharers := sh }
  else if e.owner.isSome then { e with sharers := sh }
  else { e with st := if sh.isEmpty then .i else .s, sharers := sh }

/-- A die gives up a copy: dirty data go to L2 (R342, R343). -/
def State.giveUp (s : State) (x : DieCopy) : State :=
  let s := if x.st = .m ∨ x.st = .o then s.putHome x else s
  (s.dropCopy x.die x.line).setEntry ((s.coh.entry x.line).without x.die)

/-- A die's copy put in place. A full die filter gives up an entry first (R341, R343, log entry 92). -/
def State.putCopy (s : State) (x : DieCopy) : State :=
  let same := fun (y : DieCopy) => decide (y.die = x.die) && decide (y.line = x.line)
  let mine := s.coh.copies.filter (fun y => decide (y.die = x.die) && !same y)
  let victim := if mine.length < 131072 then none else (mine.filter (fun y => !s.coh.busy y.line)).getLast?
  let s := match victim with | some v => s.giveUp v | none => s
  { s with coh := { s.coh with copies := x :: s.coh.copies.filter (fun y => !same y) } }

/-- Do two units share a set of a directory (R341)? -/
def dirPeers (x y : Nat) : Bool := decide (sliceNo x = sliceNo y) && decide (Config.dirSet x % 1024 = Config.dirSet y % 1024)

/-- Does an entry take a place in the directory, beside requests that wait for one? -/
def DirEnt.placed (e : DirEnt) : Bool := e.st != .i || e.busy.isSome

/-- Entries of a unit's set. -/
def Coh.dirSetOf (c : Coh) (unit : Nat) : List DirEnt := c.dir.filter (fun e => e.placed && dirPeers e.line unit)

/-- Has a unit an entry, or its set a free one? -/
def Coh.dirRoom (c : Coh) (unit : Nat) : Bool := (c.entry unit).placed || decide ((c.dirSetOf unit).length < 16)

/-- Room for a unit's entry: where its set is full, the entry that was changed least recently gives up its copies
(R343, log entry 92). -/
def State.dirMake (s : State) (unit : Nat) : State :=
  if s.coh.dirRoom unit then s
  else
    match ((s.coh.dirSetOf unit).filter (fun e => e.busy.isNone)).getLast? with
    | some e => s.recall e.line
    | none => s

/-! SELF lines in an L1 (R337 to R339). -/

/-- The word indices a miss fills, by line, for a GRAIN code (R338). -/
def fillUnit (grain pa : Nat) : List (Nat × List Nat) :=
  match grain with
  | 0 => [(lineOf pa, (List.range 8).map (fun i => pa % 128 / 32 * 8 + i))]
  | 1 => [(lineOf pa, List.range 32)]
  | _ => (List.range 4).map (fun j => (pa / 512 * 512 + 128 * j, List.range 32))

/-- The sectors of the 512-byte line that it fills. -/
def fillSectors (grain pa : Nat) : BitVec 16 :=
  match grain with
  | 0 => 1#16 <<< (pa % 512 / 32)
  | 1 => 0xF#16 <<< (pa % 512 / 128 * 4)
  | _ => 0xFFFF

/-- The L1's line, or an empty one. -/
def Coh.selfLine (c : Coh) (core line : Nat) : SelfLine :=
  match c.self.find? (fun x => decide (x.core = core) && decide (x.line = line)) with
  | some x => x
  | none => { core := core, line := line, valid := 0, dirty := 0, words := [] }

/-- Replace it. -/
def Coh.setSelf (c : Coh) (x : SelfLine) : Coh :=
  { c with self := x :: c.self.filter (fun y => !(decide (y.core = x.core) && decide (y.line = x.line))) }

/-- Fill the words of one line that are not valid, with the marks of their sectors (R338, R357). -/
def State.selfFill (s : State) (core line : Nat) (words : List Nat) : State :=
  let x := s.coh.selfLine core line
  let x := words.foldl (fun (x : SelfLine) i =>
    if x.valid.getLsbD i then x
    else { x with
      valid := x.valid ||| (1#32 <<< i), words := Store.set 0 x.words i (s.peek (line + 4 * i))
      poison := if s.marked (line + 4 * i) then x.poison ||| (1#4 <<< (i / 8)) else x.poison }) x
  { s with coh := s.coh.setSelf x }

/-- Sectors of a line's eight words that a mask holds whole. -/
def wholeSectors (mask : BitVec 32) : List Nat :=
  (List.range 4).filter (fun k => (List.range 8).all (fun i => mask.getLsbD (8 * k + i)))

/-- The sectors of a line's words that a mask names. -/
def dirtyIn (mask : BitVec 32) : BitVec 16 :=
  BitVec.ofNat 16 (((List.range 4).map (fun k => if (List.range 8).any (fun i => mask.getLsbD (8 * k + i)) then 2 ^ k else 0)).sum)

/-- Write the dirty words of one L1 line through to the home slice, which holds their sectors in L2; the mark of a
sector moves with its data, and a sector written whole has the mark of the L1's (R178, R339, R357). -/
def State.writeThroughLine (s : State) (x : SelfLine) : State :=
  let s := (List.range 32).foldl (fun s i => if x.dirty.getLsbD i then s.homeWrite (x.line + 4 * i) (Store.get 0 x.words i) else s) s
  let s := s.clearPoison ((wholeSectors x.dirty).map (fun k => x.line / 32 + k))
  let s := s.setPoison (((List.range 4).filter (fun k => x.poison.getLsbD k && (List.range 8).any (fun i => x.dirty.getLsbD (8 * k + i)))).map (fun k => x.line / 32 + k))
  let s := if x.dirty = 0 then s else s.l2Use 0 x.line none (dirtyIn x.dirty)
  { s with coh := { s.coh with self := s.coh.self.map (fun y => if y.core = x.core ∧ y.line = x.line then { y with dirty := 0, writers := [] } else y) } }

/-- Write through the dirty SELF lines of an L1 that lie in the set of lines (R339). -/
def State.writeThrough (s : State) (core : Nat) (lines : Nat → Bool) : State :=
  (s.coh.self.filter (fun x => decide (x.core = core) && lines x.line)).foldl State.writeThroughLine s

/-- Write through and drop the SELF lines of an L1 that lie in the set (R339); a line that it also holds as DIR keeps
its sectors. -/
def State.dropSelf (s : State) (core : Nat) (lines : Nat → Bool) : State :=
  let s := s.writeThrough core lines
  let mine := fun (x : SelfLine) => decide (x.core = core) && lines x.line
  let held := fun (l : Nat) => s.coh.copies.any (fun y => decide (lineOf y.line = l) && decide (y.die = dieOf core) && decide (core ∈ y.cores))
  let gone := ((s.coh.self.filter mine).map SelfLine.line).filter (fun l => !held l)
  { s with coh := ({ s.coh with self := s.coh.self.filter (fun x => !mine x) }).l1Lose core gone }

/-- An outward release: every dirty SELF word of the L1 is written through. -/
def State.outwardRelease (s : State) (core : Nat) : State := s.writeThrough core (fun _ => true)
/-- An outward acquire: written through, then every SELF line is invalidated. -/
def State.outwardAcquire (s : State) (core : Nat) : State := s.dropSelf core (fun _ => true)

/-- Is a team saved? It may come back on any core. -/
def Team.away (t : Team) : Bool :=
  match t.phase with
  | .saved _ => true
  | .staging | .running | .retired => false

/-- Is a scope outward for a group (R339): does its instance hold a party that is not on the core? Of a grid, teams
that are on another core, saved, or not dispatched yet are such parties. -/
def State.outward (s : State) (g : Group) (sc : Scope) : Bool :=
  match g.key.team with
  | none => sc == .dev || sc == .sys
  | some t =>
    match sc with
    | .grp => false
    | .team => (match s.team? t with | some x => x.pair | none => false)
    | .grid =>
      (match s.team? t with | some x => x.pair | none => false) ||
      (match s.grid? t.ctx t.grid with | some x => decide (x.nextTmid < x.rcd.teams) | none => true) ||
      s.teams.any (fun x => decide (x.key.ctx = t.ctx) && decide (x.key.grid = t.grid) && (x.pair || decide (x.core ≠ g.core) || x.away))
    | .dev | .sys => true

/-- The effect of a release at a scope on the L1. -/
def State.releaseL1 (s : State) (g : Group) (sc : Scope) : State := if s.outward g sc then s.outwardRelease g.l1 else s
/-- The effect of an acquire at a scope on the L1. -/
def State.acquireL1 (s : State) (g : Group) (sc : Scope) : State := if s.outward g sc then s.outwardAcquire g.l1 else s

/-- A 512-byte line leaves an L1: its dirty SELF words are written through (R339), and a DIR line that no core
of the die holds any more goes back to its home slice, unless a request for it is in progress (R342). -/
def State.evictL1 (s : State) (core line : Nat) : State :=
  let s := s.dropSelf core (fun l => decide (l / 512 * 512 = line))
  let at_ := fun (x : DieCopy) => decide (x.die = dieOf core) && decide (core ∈ x.cores) && decide (x.line / 512 * 512 = line)
  let gone := (s.coh.copies.filter at_).filter (fun x => decide (x.cores = [core]) && !s.coh.busy x.line)
  let s := { s with coh := { s.coh with copies := s.coh.copies.map (fun x =>
    if at_ x then { x with cores := x.cores.filter (fun c => decide (c ≠ core)), writer := if x.writer = some core then none else x.writer } else x) } }
  gone.foldl State.giveUp s

/-- A use of a line in an L1: 12 ways of 32 sets of 512-byte lines, by PA[13:9] (R275, R276, log entry 92). -/
def State.l1Use (s : State) (core pol : Nat) (alloc : Bool) (pa : Nat) (sectors : BitVec 16) : State :=
  let r := cacheUse 12 (fun l => l / 512 % 32) pol alloc { unit := core, line := pa / 512 * 512, sectors := sectors } s.coh.l1
  let s := { s with coh := { s.coh with l1 := r.1 } }
  match r.2 with
  | some v => s.evictL1 core v.line
  | none => s

/-- Who makes an access: the L1 and the compute die it comes from, if any, and the view. -/
structure Who where
  l1 : Option Nat
  die : Option Nat
  ctx : Nat
  vtag : Tag16
  /-- cache policy (R276) -/
  pol : Nat := 0
  /-- the thread that makes it -/
  key : Option (GKey × Nat) := none
  /-- its reads are served by a Polder (R272) -/
  near : Bool := false
  /-- a later word of an access, in the line of the one before it: the access has used the line already -/
  again : Bool := false
  deriving DecidableEq, Repr

/-- The policy by which a word's line takes its place in a cache: an access uses a line once, so that its later words
leave the line where it is (R276). -/
def Who.place (w : Who) : Nat := if w.again then 3 else w.pol

/-- A load from the L1, with a fill on a miss, but under NOAL (R276, R338). A word of a line that another thread has written
is written through before its value is given, so that what depends on it is seen nowhere before it (R257). -/
def State.selfRead (s : State) (w : Who) (core grain pa : Nat) : State × Word :=
  let i := pa % 128 / 4
  let x := s.coh.selfLine core (lineOf pa)
  if x.valid.getLsbD i then
    let s := if x.dirty.getLsbD i && x.writers.any (fun k => decide (some k ≠ w.key)) then s.writeThroughLine x else s
    (s.l1Use core w.place true pa 0, Store.get 0 x.words i)
  else if w.pol = 3 then (s, s.peek pa)
  else
    let s := s.l1Use core w.place true pa (fillSectors grain pa)
    let s := (fillUnit grain pa).foldl (fun s p => s.selfFill core p.1 p.2) s
    (s, Store.get 0 (s.coh.selfLine core (lineOf pa)).words i)

/-- A store into the L1, marking the word written; under NOAL it goes to the home slice, and a line already
present is updated. In L2 the line takes the place that the policy gives, and its data come when they are written
through (R276, R339, log entry 127). -/
def State.selfWrite (s : State) (w : Who) (core pa : Nat) (v : Word) : State :=
  let i := pa % 128 / 4
  let put := fun (x : SelfLine) => { x with valid := x.valid ||| (1#32 <<< i), words := Store.set 0 x.words i v }
  if w.pol = 3 then
    let s := (s.homeWrite pa v).l2Use 3 pa none
    let x := s.coh.selfLine core (lineOf pa)
    if x.valid = 0 then s else { s with coh := s.coh.setSelf { put x with dirty := x.dirty &&& ~~~(1#32 <<< i) } }
  else
    let s := (s.l1Use core w.place true pa (1#16 <<< (pa % 512 / 32))).l2Use w.place pa none 0
    let x := s.coh.selfLine core (lineOf pa)
    let ks := w.key.toList
    { s with coh := s.coh.setSelf { put x with dirty := x.dirty ||| (1#32 <<< i), writers := ks ++ x.writers.filter (fun k => decide (k ∉ ks)) } }

/-! Where an access is served. -/

/-- A thread of a group. -/
def Group.who (g : Group) : Who :=
  { l1 := some g.l1, die := if g.key.isQueue then none else some (dieOf g.core), ctx := g.ctx, vtag := g.vid }

/-- An engine or array operation of a group: it works at the home slice, in the version's view. -/
def Group.engine (g : Group) : Who := { l1 := none, die := none, ctx := g.ctx, vtag := g.vid }

/-- Where an access is served. -/
inductive Route where
  | shared (t : TKey) (addr : Nat)
  | tile (word : Nat)
  | view (pa : Nat)
  | self (l1 : Nat) (pa : Nat)
  | die (d : Nat) (pa : Nat)
  | home (pa : Nat)
  | host (pa : Nat)
  | peer (pa : Nat)
  deriving DecidableEq, Repr

/-- The route of a word: read-modify-writes always go to the home slice (R337), and so does an access to an SO
page, whose order reaches every party (R251 row 1). A view keeps the address before the forwarding of a
migrating page, which its lines follow one by one. -/
def State.route (s : State) (w : Who) (a : Acc) (rmw : Bool) : Route :=
  match a.loc with
  | .shared t x => .shared t x
  | .tile x => .tile x
  | .global pa0 =>
    let pa := s.fwd pa0
    if a.versioned && w.vtag != 0 then .view pa0
    else if pa < hostBit ∧ peerBit ≤ pa then .peer pa
    else
      match a.coh, w.l1, rmw || decide (a.ord = .so) with
      | .self, some c, false => .self c pa
      | _, _, _ =>
        match a.coh, w.die, rmw with
        | .dir, some d, false => .die d pa
        | _, _, _ => if hostBit ≤ pa then .host pa else .home pa

/-- The die's copy of a unit. -/
def Coh.copy? (c : Coh) (die line : Nat) : Option DieCopy :=
  c.copies.find? (fun x => decide (x.die = die) && decide (x.line = line))

/-- Does the line of a word wait for a migration, or its block for an evacuation (R287, R365)? A version's write to a KVPAGE page needs every line of
its unit (R297). -/
def State.accWaits (s : State) (w : Who) (a : Acc) (write : Bool) : Bool :=
  match a.loc with
  | .global pa =>
    if a.versioned && w.vtag != 0 && a.kvpage && write then (unitLines true pa).any s.lineWaits else s.lineWaits pa
  | .tile w => s.tileWaits w
  | .shared _ _ => false

/-- Can a host word be reached: does the device hold its half in the state needed (R344)? -/
def State.halfOk (s : State) (pa : Nat) (excl : Bool) : Bool :=
  match s.coh.half? pa with
  | some h => if excl then h.st == .m || h.st == .e else true
  | none => false

/-- The halves of a host address that a fill reads (R338, R344). -/
def fillHalves (grain pa : Nat) : List Nat :=
  match grain with
  | 0 => [pa / 64 * 64]
  | 1 => [lineOf pa, lineOf pa + 64]
  | _ => (List.range 8).map (fun k => pa / 512 * 512 + 64 * k)

/-- Is the word's line free for a home operation, or held by the die as the access needs (R341, R342)? A host
word needs its half from the host first, and a fill every half that it reads (R344). -/
def State.routeReady (s : State) (r : Route) (grain pol : Nat) (write : Bool) : Bool :=
  match r with
  | .shared _ _ | .tile _ | .view _ | .peer _ => true
  | .self l1 pa =>
    decide (pa < hostBit) ||
    (if write then s.halfOk pa true
     else (s.coh.selfLine l1 (lineOf pa)).valid.getLsbD (pa % 128 / 4) ||
      (if pol = 3 then s.halfOk pa false else (fillHalves grain pa).all (fun h => s.halfOk h false)))
  | .die d pa =>
    (match s.coh.copy? d (cohUnit pa) with
     | some x => !write || x.st == .m || x.st == .e
     | none => false)
  | .home pa => !write || !s.coh.busy (lineOf pa)
  | .host pa => s.halfOk pa write && (!write || !s.coh.busy (cohUnit pa))

/-- Can a word be accessed now? -/
def State.accReady (s : State) (w : Who) (a : Acc) (write rmw : Bool) : Bool :=
  !s.accWaits w a write && s.routeReady (s.route w a rmw) a.grain w.pol write

/-- A word of shared memory. -/
def State.readShared (s : State) (t : TKey) (addr : Nat) : Word :=
  match s.team? t with
  | some x => x.shared.readWord addr
  | none => 0

/-- Writing a word of shared memory. -/
def State.writeShared (s : State) (t : TKey) (addr : Nat) (w : Word) : State :=
  s.modTeam t (fun x => { x with shared := x.shared.writeWord addr w })

/-- The mark that a write of whole units clears: 8 bytes of shared memory (R357, R358). -/
def State.cleanShared (s : State) (t : TKey) (addrs : List Nat) : State :=
  s.modTeam t (fun x => { x with poison := x.poison.filter (fun u => !(decide (8 * u ∈ addrs) && decide (8 * u + 4 ∈ addrs))) })

/-- The sectors of its 512-byte L1 line that a unit holds. -/
def lineSectors (unit : Nat) : BitVec 16 := if hostBit ≤ unit then 0x3#16 <<< (unit % 512 / 32) else 0xF#16 <<< (unit % 512 / 32)

/-- The units of a miss's fill unit (R338): each is requested from its own home slice. Under NOAL nothing more than
the access's own unit is filled (R276). -/
def fillUnits (grain pol pa : Nat) : List Nat :=
  if pol = 3 then [cohUnit pa]
  else if hostBit ≤ pa then fillHalves grain pa
  else if grain ≤ 1 then [lineOf pa] else (List.range 4).map (fun k => pa / 512 * 512 + 128 * k)

/-- The core of a die that uses a copy, as the die filter records it (R341): a write leaves it the only holder,
and a read by another core ends the writable holding. -/
def DieCopy.usedBy (x : DieCopy) (core : Nat) (write : Bool) : DieCopy :=
  if write then { x with cores := [core], writer := some core }
  else { x with cores := if core ∈ x.cores then x.cores else x.cores ++ [core], writer := if x.writer = some core then x.writer else none }

/-- A core's L1 comes to hold units that its die holds (R341); a write takes them from the other L1s of the die that
held them. -/
def State.usedIn (s : State) (d core : Nat) (units : List Nat) (write : Bool) : State :=
  let mine := s.coh.copies.filter (fun x => decide (x.die = d) && decide (x.line ∈ units))
  let coh := if write then mine.foldl (fun c x => c.l1Drop (fun k => decide (k ∈ x.cores) && decide (k ≠ core)) x.line) s.coh else s.coh
  { s with coh := { coh with copies := s.coh.copies.map (fun x => if x.die = d ∧ x.line ∈ units then x.usedBy core write else x) } }

/-- Fills that a core's L1 waits for, each once. -/
def State.addFills (s : State) (l : List Fill) : State :=
  { s with coh := { s.coh with fills := s.coh.fills ++ l.filter (fun f => !s.coh.fills.any (fun x => decide (x.die = f.die) && decide (x.unit = f.unit) && decide (x.core = f.core))) } }

/-- Does an L1 hold the sector of an address? -/
def Coh.l1Holds (c : Coh) (core pa : Nat) : Bool :=
  c.l1.any (fun e => decide (e.unit = core) && decide (e.line = pa / 512 * 512) && (e.sectors &&& (1#16 <<< (pa % 512 / 32))) != 0)

/-- The fill of a load's miss, or of a PFG, on a DIR page: the units of its fill unit that the die holds are in the
L1 at once, the others when they come (R338). -/
def State.dieFill (s : State) (core pol grain d pa : Nat) (place : Nat := pol) : State :=
  let units := fillUnits grain pol pa
  let here := units.filter (fun u => (s.coh.copy? d u).isSome)
  let need := fun u => fillSectors grain pa &&& lineSectors u
  let s := s.l1Use core place true pa (here.foldl (fun m u => m ||| need u) 0)
  (s.usedIn d core here false).addFills ((units.filter (fun u => decide (u ∉ here))).map (fun u => ⟨d, u, core, pol, need u⟩))

/-- Record the use, where the policy lets the L1 hold the line (R276). -/
def State.dieUse (s : State) (w : Who) (grain d pa : Nat) (write : Bool) : State :=
  match w.l1 with
  | none => s
  | some c =>
    let held := (s.coh.copies.any (fun x => decide (x.die = d) && decide (x.line = cohUnit pa) && decide (c ∈ x.cores)))
    if w.pol = 3 ∧ !held then s
    else if write then
      (if w.pol = 3 then s.l1Use c 3 false pa 0
       else if s.coh.l1Holds c pa then s.l1Use c w.place true pa 0
       else s.dieFill c w.pol grain d pa w.place).usedIn d c [cohUnit pa] true
    else if w.pol = 3 ∨ s.coh.l1Holds c pa then (s.l1Use c w.place false pa 0).usedIn d c [cohUnit pa] false
    else s.dieFill c w.pol grain d pa w.place

/-- A copy that no core of its die holds is given up, unless a transaction is in progress (R342). -/
def State.dieLeave (s : State) (d unit : Nat) : State :=
  match s.coh.copy? d unit with
  | some x => if x.cores.isEmpty && !s.coh.busy unit then s.giveUp x else s
  | none => s

/-- The lines that a SELF miss reads take their places in L2: all those of its fill unit, or under NOAL the word's own
(R276, R338). -/
def State.fillUse (s : State) (w : Who) (grain pa : Nat) : State :=
  if w.pol = 3 then s.l2Use 3 pa none
  else (fillUnit grain pa).foldl (fun s p => s.l2Use w.place p.1 none (dirtyIn (p.2.foldl (fun m i => m ||| (1#32 <<< i)) 0))) s

/-- The value read along a route, with any fill it makes. -/
def State.routeRead (s : State) (w : Who) (grain : Nat) (r : Route) : State × Word :=
  match r with
  | .shared t x => (s, s.readShared t x)
  | .tile x => (s, s.tileRead w.ctx w.vtag x)
  | .view pa =>
    let path := s.viewPath w.ctx w.vtag
    (if w.near then s else s.copyUse w.place (s.fwd pa) (s.viewHolder w.ctx path (s.fwd pa)), s.viewRead none w.ctx path (s.fwd pa))
  | .self l1 pa =>
    let hit := (s.coh.selfLine l1 (lineOf pa)).valid.getLsbD (pa % 128 / 4)
    let (s, x) := s.selfRead w l1 grain pa
    (if hit then s else s.fillUse w grain pa, x)
  | .die d pa =>
    (match s.coh.copy? d (cohUnit pa) with
     | some x =>
       let s := s.dieUse w grain d pa false
       (if w.pol = 3 then s.dieLeave d (cohUnit pa) else s, Store.get 0 x.words (unitIdx pa))
     | none => (s, s.peek pa))
  | .home pa | .host pa => (if w.near then s else s.l2Use w.place pa none, s.peek pa)
  | .peer pa => (s, s.peek pa)

/-- An owner's dirty data go to L2 and it holds the unit clean: E, or S beside sharers of an O line. -/
def State.cleanCopy (s : State) (d unit : Nat) (pol : Nat := 0) : State :=
  match s.coh.copy? d unit with
  | none => s
  | some x =>
    let e := s.coh.entry unit
    let s := if x.st = .m ∨ x.st = .o then s.putHome x pol else s
    let st : DirSt := if x.st = .m then .e else if x.st = .o then .s else x.st
    let s := { s with coh := { s.coh with copies := s.coh.copies.map (fun y => if y.die = d ∧ y.line = unit then { y with st := st } else y) } }
    if x.st = .m then s.setEntry { e with st := .e, owner := some d }
    else if x.st = .o then s.setEntry { e with st := .s, owner := none, sharers := e.sharers ++ (if d ∈ e.sharers then [] else [d]) }
    else s

/-- A store performed in a die that holds the unit M or E (R341); a host half becomes M. Under NOAL the data go on to
L2, and the die's copy is clean (R276). -/
def State.dieWrite (s : State) (w : Who) (grain d pa : Nat) (x : Word) : State :=
  let s := (s.polderInval pa).dieUse w grain d pa true
  let s := { s with coh := { s.coh with
      copies := s.coh.copies.map (fun y =>
        if y.die = d ∧ y.line = cohUnit pa then { y with st := .m, words := Store.set 0 y.words (unitIdx pa) x } else y)
      halves := if hostBit ≤ pa then s.coh.halves.map (fun h => if h.half = pa / 64 ∧ h.st = .e then { h with st := .m } else h) else s.coh.halves } }
  if w.pol = 3 then (s.cleanCopy d (cohUnit pa) 3).dieLeave d (cohUnit pa) else s

/-- A write along a route. A version's copy that no write has used yet was given its place for this one (R277). A die
whose copy has left it for the words that its own L1 held as SELF writes at the home slice. -/
def State.routeWrite (s : State) (w : Who) (kv : Bool) (r : Route) (x : Word) (grain : Nat := 0) : State :=
  match r with
  | .shared t a => s.writeShared t a x
  | .tile a => s.tileWrite w.ctx w.vtag a x
  | .view pa =>
    let old := s.copy? none w.ctx w.vtag (lineOf (s.fwd pa))
    let s := s.viewWrite w.ctx w.vtag kv pa x w.pol
    s.copyUse (if old.any (fun c => c.mask != 0) then w.place else 3) (s.fwd pa) (s.copy? none w.ctx w.vtag (lineOf (s.fwd pa)))
  | .self l1 pa => s.selfWrite w l1 pa x
  | .die d pa => if (s.coh.copy? d (cohUnit pa)).isSome then s.dieWrite w grain d pa x else (s.homeWrite pa x).l2Use w.place pa none
  | .home pa | .host pa => (s.homeWrite pa x).l2Use w.place pa none
  | .peer pa => s.poke pa x

/-- Before an access that is not served by SELF lines of the issuing L1: the words of the line that the L1 has written
are written through and its copy is dropped, so that all accesses of a thread to one location keep their order,
whatever the classes of the mappings they use (R245, R247, R251 row 1, R337). -/
def State.beforeHome (s : State) (w : Who) (a : Acc) (rmw : Bool) : State :=
  match a.loc, w.l1 with
  | .global pa, some c =>
    (match s.route w a rmw with
     | .self _ _ => s
     | _ =>
       let mine := fun (l : Nat) => decide (l = lineOf (s.fwd pa))
       if s.coh.self.any (fun x => decide (x.core = c) && mine x.line) then s.dropSelf c mine else s)
  | _, _ => s

/-- Where a load is served: a version's load of a peer's word may take a port without the version-tag extension
(R350). -/
def State.readRoute (s : State) (w : Who) (a : Acc) : Route :=
  match s.route w a false with
  | .view pa => if isPeer pa && s.plainPort pa then .peer pa else .view pa
  | r => r

/-- Reading a word. -/
def State.readAcc (s : State) (w : Who) (a : Acc) : State × Word :=
  let s := s.beforeHome w a false
  s.routeRead w a.grain (s.readRoute w a)

/-- Writing a word. -/
def State.writeAcc (s : State) (w : Who) (a : Acc) (x : Word) : State :=
  let s := s.beforeHome w a false
  s.routeWrite w a.kvpage (s.route w a false) x a.grain

/-- The old word of an atomic: the slice recalls the line's copies (ATM, R342) and reads it. -/
def State.rmwRead (s : State) (w : Who) (a : Acc) : State × Word :=
  let s := s.beforeHome w a true
  match s.route w a true with
  | .home pa => ((s.recall (lineOf pa)).l2Use w.place pa none, s.peek pa)
  | .host pa => ((s.recall (cohUnit pa)).l2Use w.place pa none, s.peek pa)
  | r => s.routeRead w a.grain r

/-- The new word of an atomic, in the line that its read has used. -/
def State.rmwWrite (s : State) (w : Who) (a : Acc) (x : Word) : State :=
  let w := { w with again := true }
  s.routeWrite w a.kvpage (s.route w a true) x

/-- Do two words lie in one line? -/
def Acc.sameLine (a b : Acc) : Bool :=
  match a.loc, b.loc with
  | .global x, .global y => decide (lineOf x = lineOf y)
  | _, _ => false

/-- The words of an access are written in order; one in the line of the word before it uses that line no second time. -/
def State.writeFrom (s : State) (w : Who) (prev : Option Acc) : List (Acc × Word) → State
  | [] => s
  | (a, x) :: r => State.writeFrom (s.writeAcc { w with again := prev.any a.sameLine } a x) w (some a) r

/-- Writing the words of an access. -/
def State.writeAll (s : State) (w : Who) (l : List (Acc × Word)) : State := s.writeFrom w none l

/-- The words of an access are read in order. -/
def State.readFrom (s : State) (w : Who) (prev : Option Acc) : List Acc → State × List Word
  | [] => (s, [])
  | a :: r =>
    let (s, x) := s.readAcc { w with again := prev.any a.sameLine } a
    let (s, xs) := State.readFrom s w (some a) r
    (s, x :: xs)

/-- Reading the words of an access. -/
def State.readAll (s : State) (w : Who) (l : List Acc) : State × List Word := s.readFrom w none l

/-- The new value of an atomic operation (R145, R146): FLAGS, RNDM and FLUSH do not act. -/
def aopApply (op : AOp) (t : Tag) (m x : Word) : Word :=
  match op with
  | .add => if t = .flt then BitVec.ofNat 32 (fAdd f32 .rne (f32.decode m.toNat) (f32.decode x.toNat)).1 else m + x
  | .min =>
    if t = .flt then BitVec.ofNat 32 (fMinMax f32 false m.toNat x.toNat).1
    else if (if t = .int then x.slt m else x.ult m) then x else m
  | .max =>
    if t = .flt then BitVec.ofNat 32 (fMinMax f32 true m.toNat x.toNat).1
    else if (if t = .int then m.slt x else m.ult x) then x else m
  | .and => m &&& x
  | .or => m ||| x
  | .xor => m ^^^ x
  | .xchg => x

/-- Tags d may carry under an atomic operation (R145). -/
def aopTag (op : AOp) (t : Tag) : Bool :=
  match op with
  | .add | .min | .max => t == .int || t == .nat || t == .flt
  | .and | .or | .xor | .xchg => notVoid t

/-! Poison and lost ports (R346, R357). -/

/-- Is the word that an access reads poisoned (R357)? The mark of the copy that serves it counts. -/
def State.accPoison (s : State) (w : Who) (a : Acc) (rmw : Bool := false) : Bool :=
  match (if rmw then s.route w a true else s.readRoute w a) with
  | .shared t x => (match s.team? t with | some y => decide (x / 8 ∈ y.poison) | none => false)
  | .tile x => decide (x ∈ s.mem.tilePoison)
  | .view pa => s.viewPoison none w.ctx (s.viewPath w.ctx w.vtag) (s.fwd pa)
  | .self c pa =>
    let x := s.coh.selfLine c (lineOf pa)
    if x.valid.getLsbD (pa % 128 / 4) then x.poison.getLsbD (pa % 128 / 32) else s.marked pa
  | .die d pa => (match s.coh.copy? d (cohUnit pa) with | some x => x.poison.getLsbD ((pa - cohUnit pa) / 32) | none => s.marked pa)
  | .home pa | .host pa | .peer pa => s.marked pa

/-- Words of an access by what their marks are kept for. -/
inductive MarkUnit where
  | shared (t : TKey)
  | view
  | self (core : Nat)
  | die (d : Nat)
  | home
  deriving DecidableEq, Repr

/-- The unit store and the address of a written word's mark. -/
def State.markOf (s : State) (w : Who) (a : Acc) : Option (MarkUnit × Nat) :=
  match s.route w a false with
  | .shared t x => some (.shared t, x)
  | .tile _ | .peer _ => none
  | .view pa => some (.view, s.fwd pa)
  | .self c pa => some (if w.pol = 3 then .home else .self c, pa)
  | .die d pa => some (.die d, pa)
  | .home pa | .host pa => some (.home, pa)

/-- A write of several words clears the marks of the units it covers whole: 32-byte sectors, or 8 bytes of
shared memory (R357, R358). -/
def State.cleanAccs (s : State) (w : Who) (l : List Acc) : State :=
  let ms := l.filterMap (s.markOf w)
  let whole := fun (m : MarkUnit) (pa : Nat) => (List.range 8).all (fun k => decide ((m, pa / 32 * 32 + 4 * k) ∈ ms))
  ms.foldl (fun s x =>
    match x.1 with
    | .shared t => if x.2 % 8 = 0 ∧ (x.1, x.2 + 4) ∈ ms then s.cleanShared t [x.2, x.2 + 4] else s
    | .view => if x.2 % 32 = 0 ∧ whole x.1 x.2 then s.copyMark none w.ctx w.vtag x.2 false else s
    | .self c =>
      if x.2 % 32 = 0 ∧ whole x.1 x.2 then
        let y := s.coh.selfLine c (lineOf x.2)
        { s with coh := s.coh.setSelf { y with poison := y.poison &&& ~~~(1#4 <<< (x.2 % 128 / 32)) } }
      else s
    | .die d =>
      if x.2 % 32 = 0 ∧ whole x.1 x.2 then
        { s with coh := { s.coh with copies := s.coh.copies.map (fun y =>
          if y.die = d ∧ y.line = cohUnit x.2 then { y with poison := y.poison &&& ~~~(1#4 <<< ((x.2 - y.line) / 32)) } else y) } }
      else s
    | .home => if x.2 % 32 = 0 ∧ whole x.1 x.2 then s.clearPoison [x.2 / 32] else s) s

/-- Has a tile word been lost with a failed die (R367)? -/
def State.accLost (s : State) (a : Acc) : Bool :=
  match a.loc with
  | .tile x =>
    let at_ := nth s.dev.dies (s.tileByte x / 2 ^ 30) .offline
    s.tileGone x || at_ == .offline || at_ == .comingOnline
  | _ => false

/-- Is a word behind a host port that is down, or in a half that was lost with its port (R346)? -/
def State.accPortDown (s : State) (a : Acc) : Bool :=
  match a.loc with
  | .global pa => decide (hostBit ≤ s.fwd pa) && (s.portDown (s.fwd pa) || decide (s.fwd pa / 64 ∈ s.mem.lost))
  | _ => false

end Sys2Proof.Machine
end

