-- ==== Sys2Proof/Machine/Locks.lean ====
section
/-! DEFINITION. Line locks (R149 to R159): records at the home slices, queues, hand-off, limits, and
what becomes of locks when the groups involved change. -/

namespace Sys2Proof.Machine

/-- Change a group wherever it stands: running, saved with its team, or saved as a queue thread. -/
def State.modAnyGroup (s : State) (k : GKey) (f : Group → Group) : State :=
  let h := fun (x : Group) => if x.key = k then f x else x
  { s with
    groups := s.groups.map h
    teams := s.teams.map (fun t => { t with frozen := t.frozen.map h })
    ctxs := s.ctxs.map (fun c => { c with savedQ := c.savedQ.map (fun x => (h x.1, x.2)) }) }

/-- A group wherever it stands. -/
def State.anyGroup? (s : State) (k : GKey) : Option Group :=
  (s.groups ++ s.teams.flatMap Team.frozen ++ s.ctxs.flatMap (fun c => c.savedQ.map Prod.fst)).find? (fun g => decide (g.key = k))

/-- The record of a line. -/
def State.lock? (s : State) (line : Nat) : Option LockRec := s.locks.find? (fun r => decide (r.line = line))

/-- Put a record back; one that is free with no waiter is released (R152). -/
def State.setLock (s : State) (r : LockRec) : State :=
  { s with locks := (if r.holder.isNone && r.pending.isNone && r.queue.isEmpty then [] else [r]) ++
      s.locks.filter (fun x => decide (x.line ≠ r.line)) }

/-- DETAIL of a lock STAT (R150): waiters, absent waiters, and the low byte. -/
def LockRec.detail (r : LockRec) (low : Nat) : Nat :=
  2 ^ 16 * Nat.min 255 r.queue.length + 2 ^ 8 * Nat.min 255 (r.queue.filter (fun q => !q.present)).length + low

/-- DETAIL for a line as it stands; 0 when it has no record. -/
def State.lockDetail (s : State) (line low : Nat) : Nat :=
  match s.lock? line with
  | some r => r.detail low
  | none => low

/-- STAT codes that raise LOCK when TRAPMASK.LOCKEN is set (R159). -/
def lockTraps (code : Nat) : Bool := code == 3 || code == 4 || code == 5

/-- A lock instruction ends in a thread: STAT written, unblocked, PC moved on, and the LOCK trap due
before the next instruction (R149, R159). -/
def Thread.lockDone (t : Thread) (locken : Bool) (d : Sel) (code : Nat) (w : Word) : Thread :=
  let pc := t.seqPc
  let t := { t.result d ⟨w, .stat⟩ with block := none }
  let t := if locken && lockTraps code then { t with attr := t.attr ++ [⟨⟨.lock, code, w.setWidth 64, .attributed⟩, pc, [], true, 0⟩] } else t
  t.advance

/-- TRAPMASK.LOCKEN of a context. -/
def State.locken (s : State) (ctx : Nat) : Bool :=
  match s.ctx? ctx with
  | some c => c.trapMask.getLsbD 1
  | none => false

/-- Write the STAT of a lock instruction to threads of a group. -/
def State.lockAnswer (s : State) (g : Group) (waiters : List (Nat × Sel)) (line code low : Nat) : State :=
  let det := if code = 7 ∨ code = 2 then 0 else s.lockDetail line low
  waiters.foldl (fun s w => s.modThread g.key w.1 (fun t => t.lockDone (s.locken g.ctx) w.2 code (stat code det))) s

/-- The current line data, with their marks (R357), go into the L1 of a lock's new holder, where the page's class allows it (R154): on a
DIR page its die then holds the line alone. -/
def State.lockData (s : State) (g : Group) (coh : CohClass) (line : Nat) : State :=
  match coh with
  | .nc => s
  | .self => (s.l1Use g.l1 0 true line (fillSectors 1 line)).selfFill g.l1 line (List.range 32)
  | .dir =>
    if g.key.isQueue || s.coh.busy line then s
    else
      let s := (s.recall line).dirMake line
      if !s.coh.dirRoom line then s
      else
        let s := s.l1Use g.l1 0 true line (fillSectors 1 line)
        let die := dieOf g.core
        (s.putCopy { die := die, line := line, st := .e, words := s.lineWords line, cores := [g.core], poison := s.unitMarks line }).setEntry
          { s.coh.entry line with st := .e, owner := some die, sharers := [] }

/-- The lock becomes held by a request's group: its acquire at scope DEV, the line data in its L1, and the
STAT (R153, R154). `r` is the record with the request out of its queue. -/
def State.lockGrant (s : State) (r : LockRec) (q : LockReq) (code low : Nat) : State :=
  let s := s.setLock { r with holder := some ⟨q.key, q.ctx, q.vtag⟩, pending := none }
  match s.group? q.key with
  | none => s
  | some g =>
    let s := s.acquireL1 g .dev
    let s := s.lockData g q.coh r.line
    let s := s.modGroup q.key (fun g => { g with held := g.held ++ [r.line], awaited := none })
    s.lockAnswer g q.waiters r.line code low

/-- Pass a released lock to the first present waiter among those eligible; eligible absent waiters that
it reaches move to the tail. With none present it becomes free, or is held pending (R154, R156,
R158). -/
def State.lockPass (s : State) (line : Nat) (elig : LockReq → Bool) (pending : Option (Nat × Tag16)) (code low : Nat) : State :=
  match s.lock? line with
  | none => s
  | some r =>
    match r.queue.find? (fun q => elig q && q.present) with
    | none => s.setLock { r with holder := none, pending := pending }
    | some q =>
      let reached := (r.queue.takeWhile (fun x => decide (x.key ≠ q.key))).filter elig
      let rest := r.queue.filter (fun x => decide (x.key ≠ q.key) && !decide (x ∈ reached))
      s.lockGrant { r with queue := rest ++ reached } q code low

/-- Is a version in the subtree of another of the same context? -/
def State.inSubtree (s : State) (ctx : Nat) (v : Tag16) (owner : Nat × Tag16) : Bool :=
  decide (ctx = owner.1) && s.descends ctx v owner.2

/-- Can a request of this version take the lock now (R153, R158)? -/
def State.lockFree (s : State) (r : LockRec) (ctx : Nat) (v : Tag16) : Bool :=
  r.holder.isNone && (match r.pending with | none => true | some p => s.inSubtree ctx v p)

/-- A record for a line, new if there is none. -/
def State.lockRecord (s : State) (line : Nat) : LockRec := (s.lock? line).getD ⟨line, none, none, []⟩

/-- Would a new record for the line find no room at its slice (R152)? -/
def State.lockFull (s : State) (line : Nat) : Bool :=
  (s.lock? line).isNone && decide (128 ≤ (s.locks.filter (fun r => decide (sliceOf r.line = sliceOf line))).length)

/-- The participants with their destination. -/
def waitersOf (ts : List Thread) (d : Sel) : List (Nat × Sel) := ts.map (fun t => (t.tid, d))

/-- Block the participants at a lock instruction (R153). -/
def State.blockAt (s : State) (g : Group) (ts : List Thread) (b : Block) : State :=
  s.modThreads g.key (ts.map Thread.tid) (fun t => { t with block := some b })

/-- Has a thread a request at the line that left its queue while it was absent (R156)? -/
def Group.ended (g : Group) (line tid : Nat) : Option Nat :=
  (g.lockEnded.find? (fun e => decide (e.1 = tid) && decide (e.2.1 = line))).map (fun e => e.2.2)

/-- The reissued LLOCKs of requests that left their queues while their threads were absent answer at once
(R156). -/
def State.lockReissue (s : State) (g : Group) (ts : List Thread) (d : Sel) (line : Nat) : State :=
  ts.foldl (fun s t =>
    match g.ended line t.tid with
    | some code =>
      (s.modGroup g.key (fun g => { g with lockEnded := g.lockEnded.filter (fun e => !(decide (e.1 = t.tid) && decide (e.2.1 = line))) })).lockAnswer g [(t.tid, d)] line code 0
    | none => s) s

/-- Does an LLOCK, or an LTRY, answer LIMIT from the group's own lock state (R152)? Another line that the group waits
for counts with those it holds, so that it never holds a fifth. -/
def Group.lockLimit (g : Group) (wait : Bool) (line : Nat) : Bool :=
  !decide (line ∈ g.held) &&
    (if wait then !decide (g.awaited = some line) && (decide (4 ≤ g.held.length) || g.awaited.isSome)
     else decide (4 ≤ g.held.length + (if g.awaited.isSome ∧ g.awaited ≠ some line then 1 else 0)))

/-- LLOCK at a line (R149, R152, R153, R156, R158). -/
def State.llock (s : State) (g : Group) (ts : List Thread) (d : Sel) (line : Nat) (coh : CohClass) : State :=
  let ws := waitersOf ts d
  let r := s.lockRecord line
  if line ∈ g.held then s.lockAnswer g ws line 9 0
  else if g.awaited = some line then
    match r.queue.find? (fun q => decide (q.key = g.key)) with
    | none => s.lockAnswer g ws line 7 0
    | some q =>
      if q.present then
        (s.setLock { r with queue := r.queue.map (fun x => if x.key = g.key then { x with waiters := x.waiters ++ ws } else x) }).blockAt g ts .lock
      else if s.lockFree r g.ctx g.vid then
        s.lockGrant { r with queue := r.queue.filter (fun x => decide (x.key ≠ g.key)) } { q with waiters := ws } 0 0
      else
        (s.setLock { r with queue := r.queue.map (fun x => if x.key = g.key then { x with waiters := ws, present := true } else x) }).blockAt g ts .lock
  else if g.lockLimit true line then s.lockAnswer g ws line 7 0
  else if s.lockFull line then s.lockAnswer g ws line 2 0
  else
    let q : LockReq := ⟨g.key, ws, g.ctx, g.vid, g.lockTmo.toNat % 2 ^ 32, true, coh, s.next⟩
    if s.lockFree r g.ctx g.vid then s.lockGrant r q 0 0
    else
      let s := { s with next := s.next + 1 }
      ((s.setLock { r with queue := r.queue ++ [q] }).modGroup g.key (fun g => { g with awaited := some line })).blockAt g ts .lock

/-- LTRY at a line (R149, R152, R153, R158), with the code of its STAT. A group that takes the line which it
awaits, all its waiters there being absent, awaits it no more (log entry 126). -/
def State.ltry (s : State) (g : Group) (line : Nat) (coh : CohClass) : State × Nat :=
  let r := s.lockRecord line
  if line ∈ g.held then (s, 9)
  else if g.lockLimit false line then (s, 7)
  else if s.lockFull line then (s, 2)
  else if s.lockFree r g.ctx g.vid then
    let aw := if g.awaited = some line then none else g.awaited
    let r := { r with queue := r.queue.filter (fun q => decide (q.key ≠ g.key)) }
    ((s.lockGrant r ⟨g.key, [], g.ctx, g.vid, 0, true, coh, s.next⟩ 0 0).modGroup g.key (fun g => { g with awaited := aw }), 0)
  else (s, 1)

/-- The code of an LSTAT at a line (R149, R153). -/
def State.lstat (s : State) (g : Group) (line : Nat) : Nat :=
  match s.lock? line with
  | none => 0x10
  | some r =>
    match r.holder, r.pending with
    | some h, _ => if h.key = g.key then 0x12 else 0x11
    | none, some _ => 0x13
    | none, none => 0x10

/-- LUNLK at a line (R154, R158), with the code of its STAT: release at scope DEV, then the hand-off. -/
def State.lunlk (s : State) (g : Group) (line : Nat) : State × Nat :=
  match s.lock? line with
  | none => (s, 8)
  | some r =>
    if r.holder.any (fun h => decide (h.key = g.key)) then
      let s := s.releaseL1 g .dev
      let s := s.modGroup g.key (fun g => { g with held := g.held.filter (fun l => decide (l ≠ line)) })
      if g.vid = 0 then (s.lockPass line (fun _ => true) none 0 0, 0)
      else
        let elig := fun (q : LockReq) => s.inSubtree q.ctx q.vtag (g.ctx, g.vid)
        let s := s.lockPass line elig (some (g.ctx, g.vid)) 0 0
        let held := match s.lock? line with | some r => r.pending.isSome | none => false
        (s, if held then 0xA else 0)
    else (s, 8)

/-- LLOCK of participants, those of requests that ended while they were absent first (R153, R156). -/
def State.llockAt (s : State) (g : Group) (ts : List Thread) (d : Sel) (line : Nat) (coh : CohClass) : State :=
  let rest := ts.filter (fun t => (g.ended line t.tid).isNone)
  let s := s.lockReissue g ts d line
  if rest.isEmpty then s else s.llock g rest d line coh

/-- Has a group an LUNLK on its way to a line? The line passes when that arrives (R154). -/
def State.unlocking (s : State) (k : GKey) (line : Nat) : Bool :=
  s.pends.any (fun p => decide (p.key = k) && (match p.kind with
    | .lock (.lunlk _ _ _) a _ _ => (match a.loc with | .global pa => decide (lineOf (s.fwd pa) = line) | _ => false)
    | _ => false))

/-- A group's queued requests leave their queues. -/
def State.lockLeave (s : State) (k : GKey) : State :=
  let s := (s.locks.filter (fun r => r.queue.any (fun q => decide (q.key = k)))).foldl
    (fun s r => s.setLock { r with queue := r.queue.filter (fun q => decide (q.key ≠ k)) }) s
  s.modAnyGroup k (fun g => { g with awaited := none })

/-- A group is gone: its request leaves, and each lock it holds passes on (R156, R302), but one that its LUNLK is to
pass. -/
def State.lockDropGroup (s : State) (k : GKey) (code low : Nat) : State :=
  let s := s.lockLeave k
  let s := (s.locks.filter (fun r => r.holder.any (fun h => decide (h.key = k)) && !s.unlocking k r.line)).foldl
    (fun s r => s.lockPass r.line (fun _ => true) none code low) s
  s.modAnyGroup k (fun g => { g with held := [] })

/-- A group's waiting request becomes absent (R156). -/
def State.lockAbsent (s : State) (k : GKey) : State :=
  { s with locks := s.locks.map (fun r => { r with queue := r.queue.map (fun q => if q.key = k then { q with present := false } else q) }) }

/-- A request leaves its queue with an error STAT, now if it is present, at its reissue if it is absent
(R155 to R157). -/
def State.lockFail (s : State) (r : LockRec) (q : LockReq) (code : Nat) : State :=
  let s := s.setLock { r with queue := r.queue.filter (fun x => decide (x.key ≠ q.key)) }
  if q.present then
    match s.group? q.key with
    | none => s
    | some g => (s.modGroup q.key (fun g => { g with awaited := none })).lockAnswer g q.waiters r.line code 0
  else s.modAnyGroup q.key (fun g => { g with awaited := none, lockEnded := g.lockEnded ++ q.waiters.map (fun w => (w.1, r.line, code)) })

/-- The holder that a waiting group waits for. -/
def State.waitsFor (s : State) (k : GKey) : Option GKey :=
  match s.locks.find? (fun r => r.queue.any (fun q => decide (q.key = k))) with
  | some r => r.holder.map Holder.key
  | none => none

/-- The groups met by following wait-for edges from one group (R157). -/
def State.waitChain (s : State) : Nat → GKey → List GKey
  | 0, _ => []
  | n + 1, k =>
    match s.waitsFor k with
    | some h => h :: State.waitChain s n h
    | none => []

/-- The cycle through a group: the groups from its holder back to itself, if there is one. -/
def State.waitCycle (s : State) (k : GKey) : Option (List GKey) :=
  let c := s.waitChain (s.locks.length + 1) k
  if k ∈ c then some (c.takeWhile (fun x => decide (x ≠ k)) ++ [k]) else none

/-- The request of a waiting group, with its record. -/
def State.lockReq? (s : State) (k : GKey) : Option (LockRec × LockReq) :=
  match s.locks.find? (fun r => r.queue.any (fun q => decide (q.key = k))) with
  | some r => (r.queue.find? (fun q => decide (q.key = k))).map (fun q => (r, q))
  | none => none

/-- Is the waiter the youngest of its cycle (R157)? The request that arrived last has waited least. -/
def State.youngest (s : State) (k : GKey) (cycle : List GKey) : Bool :=
  match s.lockReq? k with
  | none => false
  | some (_, q) => cycle.all (fun x => match s.lockReq? x with | some (_, y) => decide (y.seq ≤ q.seq) | none => true)

end Sys2Proof.Machine
end

