-- ==== Sys2Proof/Machine/Barriers.lean ====
section
/-! DEFINITION. Barriers (R162 to R165): where their phases stand, who is a member, and the completion
of a phase. -/

namespace Sys2Proof.Machine

/-- A barrier as a group names it: level 0 GRP, 1 TEAM, 2 GRID, and number (R70). -/
structure BarName where
  level : Nat
  num : Nat
  deriving DecidableEq, Repr

/-- The barrier of an immediate (R70). -/
def barOf (imm : BitVec 8) : BarName := ⟨(imm.extractLsb' 6 2).toNat, (imm.extractLsb' 0 6).toNat⟩

/-- Scope of a level (R165). -/
def BarName.scope (b : BarName) : Scope := if b.level = 0 then .grp else if b.level = 1 then .team else .grid

/-- The phase and arrivals of a barrier as a group sees it (R163). -/
def State.bar (s : State) (g : Group) (b : BarName) : Bar :=
  match g.key with
  | .queue _ => Bar.fresh
  | .kernel c gr t _ =>
    if b.level = 0 then Store.get Bar.fresh g.bars b.num
    else if b.level = 1 then
      match s.team? ⟨c, gr, t⟩ with
      | some x => Store.get Bar.fresh x.bars b.num
      | none => Bar.fresh
    else
      match s.grid? c gr with
      | some x => Store.get Bar.fresh x.bars b.num
      | none => Bar.fresh

/-- Replace it. -/
def State.setBar (s : State) (k : GKey) (b : BarName) (x : Bar) : State :=
  match k with
  | .queue _ => s
  | .kernel c gr t _ =>
    if b.level = 0 then s.modGroup k (fun g => { g with bars := Store.set Bar.fresh g.bars b.num x })
    else if b.level = 1 then s.modTeam ⟨c, gr, t⟩ (fun y => { y with bars := Store.set Bar.fresh y.bars b.num x })
    else s.modGrid c gr (fun y => { y with bars := Store.set Bar.fresh y.bars b.num x })

/-- The groups whose threads are members (R163). -/
def State.barGroups (s : State) (k : GKey) (b : BarName) : List Group :=
  match k with
  | .queue _ => []
  | .kernel c gr t _ =>
    if b.level = 0 then (s.group? k).toList
    else if b.level = 1 then s.teamGroups ⟨c, gr, t⟩
    else (s.groups ++ s.teams.flatMap Team.frozen).filter (fun g =>
      match g.key with
      | .kernel c' gr' _ _ => decide (c' = c) && decide (gr' = gr)
      | .queue _ => false)

/-- The members that have not exited, as (`tmid`, `tid`). -/
def State.barMembers (s : State) (k : GKey) (b : BarName) : List (Nat × Nat) :=
  (s.barGroups k b).flatMap (fun g => (g.threads.filter (fun t => !t.exited)).map (fun t => (g.key.tmid, t.tid)))

/-- Threads blocked in BARW try again (R162). -/
def State.barWake (s : State) (k : GKey) (b : BarName) : State :=
  (s.barGroups k b).foldl (fun s g =>
    s.modGroup g.key (fun g => { g with threads := g.threads.map (fun t => if t.block = some .barw then { t with block := none } else t) })) s

/-- Complete the phase if every member that has not exited has arrived (R163). -/
def State.barSettle (s : State) (g : Group) (b : BarName) : State :=
  let x := s.bar g b
  let ms := s.barMembers g.key b
  if ms.isEmpty || !ms.all (fun m => decide (m ∈ x.arrived)) then s
  else (s.setBar g.key b ⟨x.phase + 1, []⟩).barWake g.key b

/-- Every barrier a group can name. -/
def allBars : List BarName :=
  (List.range 16).map (BarName.mk 0) ++ (List.range 16).map (BarName.mk 1) ++ (List.range 4).map (BarName.mk 2)

/-- After an exit: phases that the remaining members have all arrived at complete (R163). -/
def State.barExit (s : State) (k : GKey) : State :=
  allBars.foldl (fun s b =>
    match s.group? k with
    | some g => if (s.bar g b).arrived.isEmpty then s else s.barSettle g b
    | none => s) s

/-- After a team of a grid is gone: phases of the grid's barriers that the remaining members have all arrived at
complete (R163). -/
def State.gridSettle (s : State) (ctx grid : Nat) : State :=
  (List.range 4).foldl (fun s n =>
    match (s.barGroups (.kernel ctx grid 0 0) ⟨2, n⟩).head? with
    | some g => if (s.bar g ⟨2, n⟩).arrived.isEmpty then s else s.barSettle g ⟨2, n⟩
    | none => s) s

/-- Did the launch declare the barrier (R164)? -/
def State.barDeclared (s : State) (k : GKey) (b : BarName) : Bool :=
  match k with
  | .queue _ => false
  | .kernel c gr _ _ =>
    match s.grid? c gr with
    | none => false
    | some x =>
      if b.level = 0 then x.rcd.gbars.getLsbD b.num
      else if b.level = 1 then x.rcd.tbars.getLsbD b.num
      else x.rcd.dbars.getLsbD b.num

/-- The token of a phase (R162). -/
def barToken (b : BarName) (phase : BitVec 24) : Word :=
  BitVec.ofNat 32 (b.level * 2 ^ 30 + b.num * 2 ^ 24 + phase.toNat)

/-- TRAPVAL of a BARRIER fault (R164). -/
def barVal (imm : BitVec 8) (token : Option Word) : DWord :=
  BitVec.ofNat 64 (imm.toNat + 2 ^ 32 * (token.getD 0).toNat)

/-- The BARRIER fault of a thread, if any (R164, R356): `token` is given where one is read. -/
def State.barTrap (s : State) (k : GKey) (imm : BitVec 8) (token : Option Word) : Option Trap :=
  let b := barOf imm
  if k.isQueue then some ⟨.barrier, 4, barVal imm token, .precise⟩
  else if !s.barDeclared k b then some ⟨.barrier, 1, barVal imm token, .precise⟩
  else
    match token with
    | some w => if w.toNat / 2 ^ 24 ≠ imm.toNat then some ⟨.barrier, 3, barVal imm token, .precise⟩ else none
    | none => none

end Sys2Proof.Machine
end

