-- ==== Sys2Proof/Machine/Latch.lean ====
section
/-! DEFINITION. Gangs and the rendezvous latch (R181 to R187, R421). -/

namespace Sys2Proof.Machine

/-- A trap that comes due in a thread because of another thread's step. -/
structure Due where
  key : GKey
  tid : Nat
  trap : Trap
  deriving DecidableEq, Repr

/-- Core key of the digit array a group can reach; a queue thread has none (R308). -/
def Group.arrCore (g : Group) : Nat := if g.key.isQueue then 1000 + g.core else g.core

/-- MEMBERS of a gang list (R29 GANG). -/
def gangMembers (l : List Nat) : Nat :=
  (List.range 6).foldr (fun i acc => nth l i 0xFF + 256 * acc) 0

/-- GANG of a list, without BUSY (R29). -/
def gangWord (l : List Nat) : DWord := BitVec.ofNat 64 (2 ^ 48 * l.length + gangMembers l)

/-- The members that a GANG word lists (R29). -/
def gangOf (w : DWord) : List Nat := ((List.range 6).map (fun i => w.toNat / 2 ^ (8 * i) % 256)).take (w.toNat / 2 ^ 48 % 8)

/-- COUNT (R29). -/
def gangCount (gang : DWord) : Nat := (gang.extractLsb' 48 3).toNat

/-- Shared-memory key of a byte address as a group's core sees it: address[19] names the other core of
a pair (R137). -/
def sharedKey (upper : Bool) (addr : Nat) : Nat :=
  addr % 2 ^ 19 + (if upper != decide (addr / 2 ^ 19 % 2 = 1) then 2 ^ 19 else 0)

/-- Is a group a member of the gang on its core, as the latch sees it (R182, R421)? -/
def Arr.member (a : Arr) (k : GKey) : Bool :=
  a.owner.isSome && decide (k.team = a.owner) && decide (k.gid ∈ a.latchList)

/-- PROT of a group that is not a member (R184, R421). -/
def Arr.notMember (a : Arr) : Trap := ⟨.prot, 5, BitVec.ofNat 64 (gangMembers a.latchList), .precise⟩

/-- The array with no gang and no state left (R180, R184). -/
def Arr.released (a : Arr) : Arr := { core := a.core, waiting := a.waiting.filter (fun x => x.forming.isSome), ops := a.ops }

/-- The array state of a new gang (R180). -/
def Arr.formed (a : Arr) (team : TKey) (l : List Nat) : Arr :=
  { core := a.core, owner := some team, gang := gangWord l, latchList := l, waiting := a.waiting, ops := a.ops }

/-- The array state that a team on the core brought from its save record and that waits for the core's array to
be free (R33, R313, log entry 25). -/
def State.frozenArr (s : State) (core : Nat) : Option (TKey × Arr) :=
  s.teams.findSome? (fun t =>
    match t.phase with
    | .saved _ => none
    | _ => (t.frozenArrs.find? (fun a => decide (a.core = core))).map (fun a => (t.key, a)))

/-- A free array takes the state that waits for it. -/
def State.claimArr (s : State) (core : Nat) : State :=
  let b := s.arr core
  if b.owner.isSome || !b.ops.isEmpty then s
  else
    match s.frozenArr core with
    | some (k, a) =>
      (s.setArr { a with waiting := b.waiting, ops := [] }).modTeam k (fun t => { t with frozenArrs := t.frozenArrs.filter (fun x => decide (x.core ≠ core)) })
    | none => s

/-- Does a group's team wait for the array of the group's core? -/
def State.arrAwaited (s : State) (g : Group) : Bool :=
  match s.teamOf? g.key with
  | some t => t.frozenArrs.any (fun a => decide (a.core = g.arrCore))
  | none => false

/-- The group of a team by `gid`, if some of its threads have not exited. -/
def State.liveMember (s : State) (team : TKey) (gid : Nat) : Option Group :=
  s.groups.find? (fun g => decide (g.key = .kernel team.ctx team.grid team.tmid gid) && g.threads.any (fun t => !t.exited))

/-- Is a word one of shared memory? -/
def Acc.isShared (a : Acc) : Bool :=
  match a.loc with
  | .shared _ _ => true
  | _ => false

/-- Hints compared at the latch: kind and payload (R183). -/
def Hints.payload (h : Hints) : Hints := { h with first := none }

/-- Do two arrivals agree (R183)? -/
def Arrival.agrees (x y : Arrival) : Bool :=
  decide (opcodeOf x.instr = opcodeOf y.instr) && decide (x.vals = y.vals) && decide (x.hints.payload = y.hints.payload) && decide (x.book = y.book)

/-- The destination an array instruction writes its STAT to (R181). -/
def arrDst : Instr → Option Sel
  | .dld d _ _ | .dldl d _ _ | .dstr d _ _ | .dstrn d _ _ | .ddrn d _ _ | .ddrq d _ _ | .dgang d _
  | .spgm d _ | .dscr d _ _ | .smrg d _ _ | .dpass d _ => some d
  | _ => none

/-- The pipeline of an array operation (R186): 0 recoder, 1 stream, 2 drain, 3 control. -/
def arrPipe : Instr → Nat
  | .dld _ _ _ | .dldl _ _ _ => 0
  | .dstr _ _ _ | .dstrn _ _ _ | .dzro _ => 1
  | .ddrn _ _ _ | .ddrq _ _ _ | .dscr _ _ _ | .smrg _ _ _ | .spgm _ _ => 2
  | _ => 3

/-- A result that arrives late: the register, and `lat` while this operation still owns it (R14). -/
def Thread.late (t : Thread) (id : Nat) (d : Sel) (r : Reg) : Thread :=
  let t := if d.toNat < 0xF8 then t.setReg d.toNat r else t
  if t.latOwner = some id then { t.setReg 0xF8 r with latOwner := none } else t

/-- A thread leaves the latch with an operation in flight: its destination is busy. -/
def Thread.latchGo (t : Thread) (id : Nat) (d : Option Sel) : Thread :=
  let t := match d with
    | some d => if d.toNat ≤ 0xF8 then { t with latOwner := some id } else t
    | none => t
  { t with block := none, regionOpen := false }.advance

/-- A thread leaves the latch with its STAT at once (R185). -/
def Thread.latchStat (t : Thread) (d : Sel) (w : Word) : Thread :=
  { t.result d ⟨w, .stat⟩ with block := none, regionOpen := false }.advance

/-- STAT to every participant of arrivals. -/
def State.arrivalsStat (s : State) (xs : List Arrival) (w : Word) : State :=
  xs.foldl (fun s x => s.modThreads x.key x.tids (fun t => match arrDst x.instr with | some d => t.latchStat d w | none => t)) s

/-- Read `n` words of a team's shared memory from an address as the core sees it. -/
def State.sharedWords (s : State) (team : TKey) (upper : Bool) (addr n : Nat) : List Word :=
  (List.range n).map (fun k => s.readShared team (sharedKey upper (addr + 4 * k)))

/-- Are words of a team's shared memory poisoned, from an address as the core sees it (R357)? -/
def State.sharedBad (s : State) (team : TKey) (upper : Bool) (addr n : Nat) : Bool :=
  match s.team? team with
  | some t => !t.poison.isEmpty && (List.range n).any (fun k => decide (sharedKey upper (addr + 4 * k) / 8 ∈ t.poison))
  | none => false

/-- Address and count of the words an operation captures at its rendezvous (R187, R205). -/
def captureRange (i : Instr) (vals : List Word) : Option (Nat × Nat) :=
  let v := fun k => (nth vals k 0)
  match i with
  | .dld _ _ _ => if (v 0).getLsbD 5 then some ((v 2).toNat, 128) else none
  | .ddrn _ _ _ | .ddrq _ _ _ =>
    if (v 0).getLsbD 8 then some ((v 2).toNat, 768)
    else if (v 0).getLsbD 9 then some ((v 2).toNat + 1024, 256) else none
  | .spgm _ _ => some ((v 0).toNat, 24)
  | _ => none

/-- The list a DGANG's operand names (R185): none if it is not well-formed as a list. -/
def gangListOf (lo hi : Word) : Option (List Nat) :=
  let f := (List.range 4).map (fun i => lo.toNat / 2 ^ (8 * i) % 256) ++ (List.range 2).map (fun i => hi.toNat / 2 ^ (8 * i) % 256)
  let l := f.takeWhile (fun x => decide (x ≠ 0xFF))
  if hi.toNat / 2 ^ 16 = 0xFFFF ∧ (f.drop l.length).all (fun x => decide (x = 0xFF)) ∧ l.length ≠ 1 then some l else none

/-- Is a list valid for an issuing group (R185)? A group all of whose threads had exited before counts as one of the
team's, and the arrival waits for it (DESIGN CHOICE, log entry 134). -/
def State.gangListOk (s : State) (g : Group) (l : List Nat) : Bool :=
  l.isEmpty ||
  match g.key.team with
  | none => false
  | some t =>
    decide (l.Nodup) && decide (g.key.gid ∈ l) &&
      l.all (fun gid => s.groups.any (fun x => decide (x.key = .kernel t.ctx t.grid t.tmid gid) && decide (x.core = g.core)))

/-- The forming arrivals of the groups of a list of one team. -/
def Arr.formingOf (a : Arr) (team : TKey) (l : List Nat) : List Arrival :=
  a.waiting.filter (fun x => x.forming.isSome && decide (x.key.team = some team) && decide (x.key.gid ∈ l))

/-- Take arrivals out of the latch. -/
def Arr.remove (a : Arr) (xs : List Arrival) : Arr := { a with waiting := a.waiting.filter (fun x => !decide (x ∈ xs)) }

/-- A forming rendezvous that can end now: every listed group has an arrival (R185). -/
def State.formStep (s : State) (a : Arr) : Option State :=
  let full := a.waiting.find? (fun x =>
    match x.forming, x.key.team with
    | some l, some t => l.all (fun gid => (a.formingOf t l).any (fun y => decide (y.key.gid = gid)))
    | _, _ => false)
  match full with
  | none => none
  | some x =>
    match x.forming, x.key.team with
    | some l, some t =>
      let firsts := l.filterMap (fun gid => (a.formingOf t l).find? (fun y => decide (y.key.gid = gid)))
      if firsts.all (fun y => decide (y.forming = some l)) then
        if a.owner.isSome then some ((s.setArr (a.remove firsts)).arrivalsStat firsts (stat 1))
        else some ((s.setArr ((a.remove firsts).formed t l)).arrivalsStat firsts (stat 0 l.length))
      else
        let xs := a.formingOf t l
        some ((s.setArr (a.remove xs)).arrivalsStat xs (stat 0x20))
    | _, _ => none

/-- Has a group shared-memory accesses not yet performed (R187)? -/
def State.sharedOutstanding (s : State) (k : GKey) : Bool :=
  s.pends.any (fun p => decide (p.key = k) && (match p.kind with
    | .load ws => ws.any Acc.isShared
    | .store ws _ => ws.any (fun w => w.1.isShared)
    | .atomic a _ _ _ _ | .cas a _ _ _ => a.isShared
    | .fence _ | .engine _ _ _ | .lock _ _ _ _ => false))

/-- The first waiting arrival of each member in gang position order; `none` while a live member has
none (R182, R184), or an exited one has shared-memory accesses that are not performed (R187). -/
def State.rendezvous (s : State) (a : Arr) (team : TKey) : Option (List (Nat × Arrival)) :=
  let xs := a.latchList.mapIdx (fun i gid =>
    (i, gid, a.waiting.find? (fun x => x.forming.isNone && x.pass.isNone && decide (x.key.team = some team) && decide (x.key.gid = gid))))
  if xs.all (fun x => x.2.2.isSome || ((s.liveMember team x.2.1).isNone && !s.sharedOutstanding (.kernel team.ctx team.grid team.tmid x.2.1))) then
    some (xs.filterMap (fun x => x.2.2.map (fun y => (x.1, y))))
  else none

/-- The operation of a matching rendezvous (R186, R187). -/
def State.arrOpOf (s : State) (team : TKey) (g : Group) (id : Nat) (x : Arrival) (xs : List Arrival) : ArrOp :=
  { id := id, instr := x.instr, vals := x.vals, book := x.book, hints := x.hints, team := team, upper := g.upper, vtag := g.vid,
    captured := (match captureRange x.instr x.vals with | some (at_, n) => s.sharedWords team g.upper at_ n | none => []),
    capturedBad := (match captureRange x.instr x.vals with
      | some (at_, n) => (List.range n).filter (fun k => s.sharedBad team g.upper (at_ + 4 * k) 1)
      | none => []),
    members := xs.map (fun y => ⟨y.key, y.tids, arrDst y.instr, y.pc⟩), stat := none,
    newList := (match x.instr with | .dgang _ _ => gangListOf (nth x.vals 0 0) (nth x.vals 1 0) | _ => none) }

/-- Does a DPASS stand behind no arrival of its member any more (R198)? -/
def Arr.passReady (a : Arr) (x : Arrival) : Bool :=
  x.pass.isSome && (a.waiting.takeWhile (fun y => decide (y ≠ x))).all (fun y => y.pass.isSome || y.forming.isSome || decide (y.key ≠ x.key))

/-- The operation of a DPASS (R198). -/
def Arrival.passOp (x : Arrival) : ArrOp :=
  { id := x.pass.getD 0, instr := x.instr, vals := x.vals, book := [], hints := {}, team := (x.key.team.getD ⟨0, 0, 0⟩), upper := false, vtag := 0,
    captured := [], members := [⟨x.key, x.tids, arrDst x.instr, x.pc⟩], stat := none, newList := none }

/-- Every DPASS that stands behind no arrival of its member joins the operations (R198). -/
def Arr.passes (a : Arr) : Arr :=
  let go := a.waiting.filter a.passReady
  { a with waiting := a.waiting.filter (fun x => !a.passReady x), ops := a.ops ++ go.map Arrival.passOp }

/-- The UNIFORM fault of a mismatch (R183): bit 63, and the positions that differ from the lowest. -/
def mismatchTrap (xs : List (Nat × Arrival)) (x : Arrival) : Trap :=
  ⟨.uniform, 2, BitVec.ofNat 64 (2 ^ 63 + (xs.filter (fun y => !y.2.agrees x)).foldl (fun n y => n + 2 ^ y.1) 0), .precise⟩

/-- Traps in every thread of arrivals, which leave the latch. -/
def State.arrivalsTrap (s : State) (xs : List Arrival) (tr : Trap) : State × List Due :=
  (xs.foldl (fun s x => s.modThreads x.key x.tids (fun t => { t with block := none })) s,
   xs.flatMap (fun x => x.tids.map (fun tid => ⟨x.key, tid, tr⟩)))

/-- A rendezvous of the gang, if every member has arrived (R182 to R184, R421). A gang whose members
have all exited is released. -/
def State.gangStep (s : State) (a : Arr) : Option (State × List Due) :=
  match a.owner with
  | none => none
  | some team =>
    match s.rendezvous a team with
    | none => none
    | some [] => if a.latchList.isEmpty || !a.ops.isEmpty then none else some ((s.setArr a.released).claimArr a.core, [])
    | some ((p, x) :: rest) =>
      let all := (p, x) :: rest
      let xs := all.map Prod.snd
      let a := a.remove xs
      if rest.all (fun y => y.2.agrees x) then
        match s.group? x.key with
        | none => some (s.setArr a, [])
        | some g =>
          let op := s.arrOpOf team g s.next x xs
          let s := { s with next := s.next + 1 }
          let s := xs.foldl (fun s y => s.modThreads y.key y.tids (fun t => t.latchGo op.id (arrDst y.instr))) s
          match op.newList with
          | none => some (s.setArr { a with ops := a.ops ++ [op] }, [])
          | some l =>
            let left := a.waiting.filter (fun y => y.forming.isNone && y.pass.isNone && decide (y.key.team = some team) && !decide (y.key.gid ∈ l))
            let a := { a.remove left with ops := a.ops ++ [op], latchList := l }
            some ((s.setArr a).arrivalsTrap left a.notMember)
      else some ((s.setArr a).arrivalsTrap xs (mismatchTrap all x))

/-- Everything the latch of a core can do now. -/
def State.latchLoop : Nat → Nat → State → State × List Due
  | 0, _, s => (s, [])
  | n + 1, core, s =>
    let s := if (s.arr core).waiting.any (s.arr core).passReady then s.setArr (s.arr core).passes else s
    match s.formStep (s.arr core) with
    | some s => State.latchLoop n core s
    | none =>
      match s.gangStep (s.arr core) with
      | some (s, ds) =>
        let (s, ds') := State.latchLoop n core s
        (s, ds ++ ds')
      | none => (s, [])

/-- Run the latch of a core: each step takes an arrival out or releases the gang. -/
def State.latch (s : State) (core : Nat) : State × List Due := s.latchLoop ((s.arr core).waiting.length + 2) core

/-- An arrival (R182): the threads wait at the latch. -/
def State.arrive (s : State) (g : Group) (x : Arrival) : State × List Due :=
  let a := s.arr g.arrCore
  let s := (s.setArr { a with waiting := a.waiting ++ [x] }).modThreads g.key x.tids (fun t => { t with block := some .latch })
  s.latch g.arrCore

/-- A group's last thread has exited: forming rendezvous that list it end with BADDESC (R185), and the
gang's next rendezvous counts it as arrived (R184). -/
def State.latchExit (s : State) (k : GKey) (core : Nat) : State × List Due :=
  match k.team with
  | none => (s, [])
  | some t =>
    let a := s.arr core
    let hit := a.waiting.filter (fun x => match x.forming with
      | some l => decide (x.key.team = some t) && decide (k.gid ∈ l)
      | none => false)
    let gids := hit.flatMap (fun x => x.forming.getD [])
    let ended := a.formingOf t gids
    let s := if ended.isEmpty then s else (s.setArr (a.remove ended)).arrivalsStat ended (stat 0x20)
    s.latch core

/-- A team is gone: its gang, its arrivals and its operations go with it (R185, R188, R302). -/
def State.latchDropTeam (s : State) (t : TKey) : State :=
  let cores := (s.arrs.filter (fun a => decide (a.owner = some t))).map Arr.core
  let s := { s with arrs := s.arrs.map (fun (a : Arr) =>
      let a := { a with waiting := a.waiting.filter (fun x => decide (x.key.team ≠ some t)), ops := a.ops.filter (fun o => decide (o.team ≠ t)) }
      if a.owner = some t then a.released else a) }
  cores.foldl State.claimArr (s.modTeam t (fun x => { x with frozenArrs := [] }))

end Sys2Proof.Machine
end

