-- ==== Sys2Proof/Machine/Ops.lean ====
section
/-! DEFINITION. What every instruction shares: taking a trap (R236, R355), the return from one (R238),
the end of a thread, a team and a queue thread (R131, R236), and the issue of an instruction by an
issue group with its checks in order (R71, R19, R22). -/

namespace Sys2Proof.Machine

/-- An operation without the results that it owes to threads of its group. -/
def Pend.forget (p : Pend) (tids : List Nat) : Pend :=
  match p.kind with
  | .lock i a parts ws => { p with kind := .lock i a parts (ws.filter (fun w => decide (w.1 ∉ tids))) }
  | _ => if p.tid ∈ tids then { p with dests := [] } else p

/-- Late results of a thread that is gone are discarded (R131). -/
def State.discard (s : State) (k : GKey) (tids : List Nat) : State :=
  { s with
    pends := s.pends.map (fun p => if p.key = k then p.forget tids else p)
    arrs := s.arrs.map (fun a => { a with ops := a.ops.map (fun o => { o with members := o.members.map (fun m =>
      if m.key = k then { m with tids := m.tids.filter (fun x => !decide (x ∈ tids)) } else m) }) }) }

/-- Has a team work in flight: accesses, engine commands or array operations? -/
def State.teamBusy (s : State) (t : TKey) : Bool :=
  s.pends.any (fun p => decide (p.key.team = some t)) || s.arrs.any (fun a => a.ops.any (fun o => decide (o.team = t)))

/-- Does a team's allocation hold one of the words `lo` to `hi` of a vault, as tile addresses name it? -/
def Team.inVault (t : Team) (die vault lo hi : Nat) : Bool :=
  decide (0 < t.tileWords) && decide (t.tileBase < (die * 16 + vault) * 2 ^ 24 + hi) && decide ((die * 16 + vault) * 2 ^ 24 + lo < t.tileBase + t.tileWords)

/-- Does a team's allocation lie in a vault that was evacuated (R365)? -/
def VaultMove.used (v : VaultMove) (t : Team) : Bool := t.inVault v.die v.vault 0 (2 ^ 24)

/-- An evacuated vault stays where it was moved until its allocations are released (R368). -/
def State.pruneVaults (s : State) : State :=
  { s with mem := { s.mem with vaults := s.mem.vaults.filter (fun v => s.teams.any v.used) } }

/-- Is a word in a team's allocation? -/
def Team.hasTile (t : Team) (w : Nat) : Bool := decide (t.tileBase ≤ w) && decide (w < t.tileBase + t.tileWords)

/-- The save record of a team is dropped: its place in the area is free (R302, R334). -/
def State.dropSave (s : State) (t : Team) : State :=
  match t.phase with
  | .saved _ => s.modCtx t.key.ctx (fun c => { c with saves := c.saves.filter (fun r => decide (r.1 ≠ t.savedAt)) })
  | _ => s

/-- A team returns what it holds: groups, shared memory, tile allocation, gang, save record (R185, R221, R302). -/
def State.teamFree (s : State) (t : TKey) : State :=
  let s := match s.team? t with | some x => (s.dropSave x).tileSettle x.hasTile | none => s
  State.pruneVaults { s.latchDropTeam t with
    teams := s.teams.filter (fun x => decide (x.key ≠ t))
    groups := s.groups.filter (fun g => decide (g.key.team ≠ some t)) }

/-- The dirty SELF words of a team's cores are written through. -/
def State.teamThrough (s : State) (t : Team) : State :=
  let s := s.outwardRelease t.core
  if t.pair then s.outwardRelease (t.core + 1) else s

/-- Free every retired team whose work has ended; its SELF stores are performed at DEV first (R222, R250). -/
def State.reap (s : State) : State :=
  (s.teams.filter (fun t => decide (t.phase = .retired) && !s.teamBusy t.key)).foldl (fun s t => (s.teamThrough t).teamFree t.key) s

/-- The team counts as retired; `f` counts it in its grid (R222). -/
def State.teamEnd (s : State) (t : TKey) (f : Grid → Grid) : State :=
  let s := s.modTeam t (fun x => { x with phase := .retired, req := none })
  (s.modGrid t.ctx t.grid f).reap

/-- A group's last thread has exited: its locks pass on with ORPHAN, the latch counts it as arrived
(R156, R184), and a team whose groups have all exited retires. -/
def State.groupEnd (s : State) (k : GKey) (core : Nat) : State × List Due :=
  let s := s.lockDropGroup k 5 1
  let (s, ds) := s.latchExit k core
  match k.team with
  | none => (s, ds)
  | some t =>
    if (s.teamGroups t).all (fun g => g.threads.all Thread.exited) then
      (s.teamEnd t (fun g => { g with retired := g.retired + 1 }), ds)
    else (s, ds)

/-- A queue-thread slot's state changes (R377). -/
def State.setQt (s : State) (slot : Nat) (st : QtState) : State :=
  { s with dev := { s.dev with qtctl := s.dev.qtctl.mapIdx (fun i q => if i = slot then { q with st := st } else q) } }

/-- A queue thread is gone: its locks pass on, its requests leave, late results are discarded
(R156). -/
def State.queueEnd (s : State) (slot : Nat) (st : QtState) (code low : Nat) : State :=
  let k := GKey.queue slot
  let s := (s.lockDropGroup k code low).discard k [0]
  { s.setQt slot st with
    groups := s.groups.filter (fun g => decide (g.key ≠ k))
    grids := s.grids.map (fun g => { g with waiters := g.waiters.filter (fun x => decide (x.1 ≠ slot)) }) }

/-- The thread's fields once it has exited (R131): no trap, no wait, no region. -/
def Thread.exit (t : Thread) : Thread :=
  { t with exited := true, attr := [], reported := [], block := none, paused := false, hints := {}, regionOpen := true, saveDue := false }

/-- EXIT of one thread (R131). -/
def State.exitThread (s : State) (k : GKey) (tid : Nat) : State × List Due :=
  match k with
  | .queue slot => (s.queueEnd slot .idle 5 1, [])
  | .kernel _ _ _ _ =>
    let s := ((s.modThread k tid Thread.exit).discard k [tid]).barExit k
    match s.group? k with
    | none => (s, [])
    | some g => if g.threads.all Thread.exited then s.groupEnd k g.arrCore else (s, [])

/-- TRAPCAUSE of a trap (R29). -/
def Trap.word (t : Trap) : DWord := BitVec.ofNat 64 (t.cause.code + 2 ^ 8 * t.kind.code + 2 ^ 16 * t.sub)

/-- The values that a trap entry leaves unpredictable in v232 to v239 (R11): free values. -/
def scratchRegs (n : Nat) (regs : Store Reg) : Store Reg :=
  (List.range 8).foldl (fun r i => Store.set Reg.void r (232 + i) ⟨Config.freeWord (n + i), tagOf (Config.freeTag (n + i))⟩) regs

/-- Entry into the handler (R236). A TRIT trap held against v232 to v239 stays held against the values that are left there
(R11, R196, DESIGN CHOICE, log entry 137). -/
def Thread.enter (t : Thread) (tr : Trap) (pc : Word) (handler : Word) (n : Nat) : Thread :=
  { t with
    trapCause := tr.word, trapPc := pc.setWidth 64, trapVal := tr.val, inHandler := true, hints := {}, pc := handler,
    block := none, paused := false, regs := scratchRegs n t.regs, parity := t.parity.filter (fun r => decide (r < 232 ∨ 240 ≤ r)) }

/-- The fault record of a trap (R361, R362). -/
def Group.trapRec (g : Group) (type : Nat) (tr : Trap) (pc : Word) (extra : DWord) : FaultRec :=
  { g.faultRec type with cause := tr.cause.code, sub := tr.sub, flags := tr.kind.code, pc := pc, value := tr.val, extra := extra }

/-- Every thread of a team has ended, without EXIT. -/
def State.teamKill (s : State) (t : TKey) (code low : Nat) : State :=
  let keys := (s.teamGroups t).map Group.key
  let s := keys.foldl (fun s k => s.modGroup k (fun g => { g with threads := g.threads.map Thread.exit })) s
  let s := { s with arrs := s.arrs.map (fun a => { a with waiting := a.waiting.filter (fun x => decide (x.key.team ≠ some t)) }) }
  let s := keys.foldl State.lockLeave s
  keys.foldl (fun s k =>
    let s := match s.group? k with | some g => s.discard k (g.threads.map Thread.tid) | none => s
    (s.barExit k).lockDropGroup k code low) s

/-- HANDLER × 4 of a context, when a handler is installed (R29, R236). -/
def State.handler? (s : State) (ctx : Nat) : Option Word :=
  match s.ctx? ctx with
  | some c => if c.trapVec.getLsbD 0 then some (c.trapVec.extractLsb' 2 30 ++ (0 : BitVec 2)) else none
  | none => none

/-- A thread takes a trap (R236). A VERSION trap also leaves a record (R306, R362). Unhandled, it ends
the team, or stops the queue thread. -/
def State.takeTrap (s : State) (k : GKey) (tid : Nat) (tr : Trap) (pc : Word) : State × List Due :=
  match s.group? k with
  | none => (s, [])
  | some g =>
    match g.thread? tid with
    | none => (s, [])
    | some t =>
      if t.exited then (s, [])
      else
        let s := if tr.cause = .version then s.faultLog g.ctx (g.trapRec 8 tr pc 0) else s
        match s.handler? g.ctx, t.inHandler with
        | some h, false =>
          ({ s.modThread k tid (fun t => t.enter tr pc h s.free) with free := s.free + 8 }, [])
        | _, _ =>
          let s := s.faultLog g.ctx (g.trapRec 1 tr pc tr.word)
          match k with
          | .queue slot => ((s.queueEnd slot .trapped 5 1).postUnit 6 slot, [])
          | .kernel c gr tm _ =>
            ((s.teamKill ⟨c, gr, tm⟩ 5 1).teamEnd ⟨c, gr, tm⟩ (fun g => { g with trapped := g.trapped + 1 }), [])

/-- The PC a precise or reported trap of a thread carries (R74, R355). -/
def State.trapPcOf (s : State) (k : GKey) (tid : Nat) : Word :=
  match s.thread? k tid with
  | some t => t.seqPc
  | none => 0

/-- Take traps in order, and those that come due from them. -/
def State.takeAll : Nat → List Due → State → State
  | 0, _, s => s
  | _ + 1, [], s => s
  | n + 1, d :: ds, s =>
    let (s, more) := s.takeTrap d.key d.tid d.trap (s.trapPcOf d.key d.tid)
    State.takeAll n (ds ++ more) s

/-- Take traps: each is taken once, and a thread at the latch can add at most one. -/
def State.settle (r : State × List Due) : State :=
  match r.2 with
  | [] => r.1
  | ds => State.takeAll (ds.length + (r.1.groups.map (fun g => g.threads.length)).sum) ds r.1

/-- The same trap in threads of a group. -/
def dues (k : GKey) (ts : List Thread) (tr : Trap) : List Due := ts.map (fun t => ⟨k, t.tid, tr⟩)

/-! Issue. -/

/-- The threads of the issue group, in lane order. -/
def Issue.threads (c : Issue) (g : Group) : List Thread := g.threads.filter (fun t => decide (t.tid ∈ c.tids))

/-- An instruction issues (R135): the encoding checks (R71) with the hints of the issue group, then `f`
for the group and its participants. Once it has issued, no issue group is chosen. -/
def issue (i : Instr) (s : State) (f : Group → List Thread → State → State × List Due) : Host.Outcome State Fault Refusal :=
  match s.cur with
  | none => .fault .noIssueGroup
  | some c =>
    let s := { s with cur := none }
    match s.group? c.key with
    | none => .next s
    | some g =>
      match c.threads g with
      | [] => .next s
      | t :: ts =>
        match encCheck g t.hints i with
        | some e => .next (State.settle (s, dues g.key (t :: ts) e))
        | none => .next (State.settle (f g (t :: ts) s))

/-- The instruction does not issue yet: its operands, or the order it must keep, are not free. The
threads keep their PC and hints and are chosen again later. -/
def stalled (s : State) : State × List Due := (s, [])

/-- The outcomes of the lanes of one instruction. -/
def laneOuts (g : Group) (ts : List Thread) (op : View → Except Trap LaneOut) : List (Nat × Except Trap LaneOut) :=
  ts.map (fun t => (t.tid, op ⟨g, t⟩))

/-- A thread after its lane's outcome, if it has one that is no trap. -/
def Thread.applyOut (outs : List (Nat × Except Trap LaneOut)) (t : Thread) : Thread :=
  match outs.find? (fun o => decide (o.1 = t.tid)) with
  | some (_, .ok o) => t.apply o
  | _ => t

/-- The traps among lane outcomes, in lane order. -/
def laneTraps (k : GKey) (outs : List (Nat × Except Trap LaneOut)) : List Due :=
  outs.filterMap (fun o => match o.2 with | .error e => some ⟨k, o.1, e⟩ | .ok _ => none)

/-- An instruction whose lanes read the state before it and write their own threads (classes 0x0 to
0x6): all sources are read before any result is written. -/
def lanewise (i : Instr) (s : State) (op : List View → View → Except Trap LaneOut) : Host.Outcome State Fault Refusal :=
  issue i s (fun g ts s =>
    let outs := laneOuts g ts (op (ts.map (View.mk g)))
    (s.modGroup g.key (fun g => { g with threads := g.threads.map (Thread.applyOut outs) }), laneTraps g.key outs))

/-- Run a step for each participant in lane order, on the state the lanes before it left. -/
def eachLane (k : GKey) (f : Group → Thread → State → State × List Due) : List Nat → State → State × List Due
  | [], s => (s, [])
  | tid :: r, s =>
    match s.group? k with
    | none => (s, [])
    | some g =>
      match g.thread? tid with
      | none => eachLane k f r s
      | some t =>
        let (s, ds) := f g t s
        let (s, ds') := eachLane k f r s
        (s, ds ++ ds')

/-- A lane ends in a precise trap. -/
def laneTrap (g : Group) (t : Thread) (tr : Trap) (s : State) : State × List Due := (s, [⟨g.key, t.tid, tr⟩])

/-- The lanes whose register operands differ from the lowest lane's, as a mask (R22). -/
def uniformMask (g : Group) (ts : List Thread) (regs : View → List Reg) : Nat :=
  match ts with
  | [] => 0
  | t :: r => (r.filter (fun x => decide (regs ⟨g, x⟩ ≠ regs ⟨g, t⟩))).foldl (fun m x => m + 2 ^ x.lane) 0

/-- The UNIFORM fault of an issue group (R22). -/
def uniformTrap (mask : Nat) : Trap := ⟨.uniform, 1, BitVec.ofNat 64 mask, .precise⟩

/-- The tag checks of each lane, then the uniform check of the lanes that pass, then `f` for them
(R138). -/
def afterChecks (tags : View → Option Trap) (uni : View → List Reg) (f : Group → List Thread → State → State × List Due)
    (g : Group) (ts : List Thread) (s : State) : State × List Due :=
  let good := ts.filter (fun t => (tags ⟨g, t⟩).isNone)
  let bad := ts.filterMap (fun t => (tags ⟨g, t⟩).map (fun e => (⟨g.key, t.tid, e⟩ : Due)))
  let m := uniformMask g good uni
  if good.isEmpty then (s, bad)
  else if m ≠ 0 then (s, bad ++ dues g.key good (uniformTrap m))
  else
    let (s, ds) := f g good s
    (s, bad ++ ds)

/-- An instruction with tag and uniform checks. -/
def issueChecked (i : Instr) (s : State) (tags : View → Option Trap) (uni : View → List Reg)
    (f : Group → List Thread → State → State × List Due) : Host.Outcome State Fault Refusal :=
  issue i s (afterChecks tags uni f)

/-- No uniform operand. -/
def noUniform (_ : View) : List Reg := []
/-- No tag to check. -/
def noTags (_ : View) : Option Trap := none

/-- A TAG trap unless the condition holds. -/
def tagsOk (v : View) (sl : Slots) (ok : Bool) : Option Trap := if ok then none else some (v.tagTrap sl)

/-- The instruction closes the idempotent region of its threads (R326). -/
def Thread.close (t : Thread) : Thread := { t with regionOpen := false }

/-! Outstanding operations. -/

/-- Is the operation an access to memory, which fences and releases cover? -/
def Pend.access (p : Pend) : Bool :=
  match p.kind with
  | .load _ | .store _ _ | .atomic _ _ _ _ _ | .cas _ _ _ _ | .lock _ _ _ _ => true
  | .fence _ | .engine _ _ _ => false

/-- The threads that have issued an operation: the participants of a lock instruction act together. -/
def Pend.tids (p : Pend) : List Nat :=
  match p.kind with
  | .lock _ _ parts _ => parts
  | _ => [p.tid]

/-- Those of them that its destinations are busy in. -/
def Pend.owners (p : Pend) : List Nat :=
  match p.kind with
  | .lock _ _ _ ws => ws.map Prod.fst
  | _ => [p.tid]

/-- Have threads of a group accesses that are not yet performed? -/
def State.outstanding (s : State) (k : GKey) (tids : List Nat) : Bool :=
  s.pends.any (fun p => p.access && decide (p.key = k) && p.tids.any (fun t => decide (t ∈ tids)))

/-- The group of an operation, as far as a memory access needs it. -/
def Pend.group (p : Pend) : Group :=
  { key := p.key, width := 16, nregs := 8, threads := [], vid := p.vtag, core := p.core, upper := p.upper, qctx := p.ctx }

/-- The selectors of a thread that a result in flight will write: those of its accesses and commands, of
the array operations it takes part in, and of a DPASS behind an arrival (R14, R59, R198). -/
def State.busySels (s : State) (k : GKey) (tid : Nat) : List Nat :=
  (s.pends.filter (fun p => decide (p.key = k) && decide (tid ∈ p.owners))).flatMap (fun p => p.dests.map (fun d => d.1.toNat)) ++
  s.arrs.flatMap (fun a =>
    a.ops.flatMap (fun o =>
      (o.members.filter (fun m => decide (m.key = k) && decide (tid ∈ m.tids))).flatMap (fun m => m.dst.toList.map BitVec.toNat)) ++
    (a.waiting.filter (fun x => x.pass.isSome && decide (x.key = k) && decide (tid ∈ x.tids))).flatMap (fun x => (arrDst x.instr).toList.map BitVec.toNat))

/-- The selectors busy on a group's scoreboard (R59): those of every thread's results in flight. -/
def State.groupBusy (s : State) (g : Group) : List Nat := g.threads.flatMap (fun t => s.busySels g.key t.tid)

/-- Is `lat` owed to a thread of the group by an operation in flight (R14, R59)? -/
def Group.latBusy (g : Group) : Bool := g.threads.any (fun t => !t.exited && t.latOwner.isSome)

/-- The participants that have no access outstanding: the others are not ready for an instruction that
waits for them (R135). -/
def State.ripe (s : State) (k : GKey) (ts : List Thread) : List Thread := ts.filter (fun t => !s.outstanding k [t.tid])

end Sys2Proof.Machine
end

