-- ==== Sys2Proof/Machine/Arith.lean ====
section
/-! DEFINITION. The meanings of arithmetic, class 0x0 (R86 to R94): one lane function of LaneInt.lean for each. -/

namespace Sys2Proof.Machine

/-- ADD (R89). -/
def execAdd (d a b : Sel) (s : State) : Host.Outcome State Fault Refusal :=
  lanewise (.add d a b) s (fun _ => laneAdd d a b)

/-- SUB (R89). -/
def execSub (d a b : Sel) (s : State) : Host.Outcome State Fault Refusal :=
  lanewise (.sub d a b) s (fun _ => laneSub d a b)

/-- MUL (R89). -/
def execMul (d a b : Sel) (s : State) : Host.Outcome State Fault Refusal :=
  lanewise (.mul d a b) s (fun _ => laneMul d a b)

/-- FMA (R90). -/
def execFma (d a b : Sel) (s : State) : Host.Outcome State Fault Refusal :=
  lanewise (.fma d a b) s (fun _ => laneFma d a b)

/-- MIN (R91). -/
def execMin (d a b : Sel) (s : State) : Host.Outcome State Fault Refusal :=
  lanewise (.min d a b) s (fun _ => laneMin d a b)

/-- MAX (R91). -/
def execMax (d a b : Sel) (s : State) : Host.Outcome State Fault Refusal :=
  lanewise (.max d a b) s (fun _ => laneMax d a b)

/-- ABS (R94). -/
def execAbs (d a : Sel) (s : State) : Host.Outcome State Fault Refusal :=
  lanewise (.abs d a) s (fun _ => laneAbs d a)

/-- NEG (R94). -/
def execNeg (d a : Sel) (s : State) : Host.Outcome State Fault Refusal :=
  lanewise (.neg d a) s (fun _ => laneNeg d a)

/-- SADD (R93). -/
def execSadd (d a b : Sel) (s : State) : Host.Outcome State Fault Refusal :=
  lanewise (.sadd d a b) s (fun _ => laneSadd d a b)

/-- SSUB (R93). -/
def execSsub (d a b : Sel) (s : State) : Host.Outcome State Fault Refusal :=
  lanewise (.ssub d a b) s (fun _ => laneSsub d a b)

/-- CPSGN (R94). -/
def execCpsgn (d a b : Sel) (s : State) : Host.Outcome State Fault Refusal :=
  lanewise (.cpsgn d a b) s (fun _ => laneCpsgn d a b)

/-- ADDI (R92). -/
def execAddi (d a : Sel) (imm : BitVec 8) (s : State) : Host.Outcome State Fault Refusal :=
  lanewise (.addi d a imm) s (fun _ => laneAddi d a imm)

/-- MULI (R92). -/
def execMuli (d a : Sel) (imm : BitVec 8) (s : State) : Host.Outcome State Fault Refusal :=
  lanewise (.muli d a imm) s (fun _ => laneMuli d a imm)

/-- MINI (R92). -/
def execMini (d a : Sel) (imm : BitVec 8) (s : State) : Host.Outcome State Fault Refusal :=
  lanewise (.mini d a imm) s (fun _ => laneMini d a imm)

/-- MAXI (R92). -/
def execMaxi (d a : Sel) (imm : BitVec 8) (s : State) : Host.Outcome State Fault Refusal :=
  lanewise (.maxi d a imm) s (fun _ => laneMaxi d a imm)

end Sys2Proof.Machine
end

