-- ==== Sys2Proof/Machine/Approx.lean ====
section
/-! DEFINITION. The approximating instructions of class 0x3 (R103, R104): RCP, RSQ, EXP2, LOG2, SIN,
COS and TANH. Outside the exact cases a result is a free value (`Config.approx`), kept within the
bound of R103: an enclosure of the exact result is computed in fixed point, and a free value that
lies outside the bound is replaced by the correctly rounded result, which lies inside it. -/

namespace Sys2Proof.Machine

/-- Fraction bits of the fixed-point working format. -/
def fxBits : Nat := 400
/-- 1 in fixed point. -/
def fxOne : Int := 2 ^ fxBits
/-- π in fixed point, truncated. -/
def fxPi : Int := 0x3243f6a8885a308d313198a2e03707344a4093822299f31d0082efa98ec4e6c89452821e638d01377be5466cf34e90c6cc0ac
/-- ln 2 in fixed point, truncated. -/
def fxLn2 : Int := 0xb17217f7d1cf79abc9e3b39803f2f6af40f343267298b62d8a0d175b8baafa2be7b876206debac98559552fb4afa1b10ed2e

def fxMul (a b : Int) : Int := a * b / fxOne
def fxDiv (a b : Int) : Int := a * fxOne / b

/-- The fixed-point value of `m × 2^e`. -/
def fxOf (m : Int) (e : Int) : Int :=
  let k := e + fxBits
  if 0 ≤ k then m * 2 ^ k.toNat else m / 2 ^ (-k).toNat

/-- A series with first term `t`, each term the last one times `y` over `div k`; the fuel bounds the
number of terms. -/
def fxSeries (div : Nat → Int) (y t : Int) (k : Nat) : Nat → Int
  | 0 => 0
  | fuel + 1 => t + fxSeries div y (fxMul t y / div k) (k + 1) fuel

/-- e^x for 0 ≤ |x| < 1 in fixed point. -/
def fxExp (x : Int) : Int := fxSeries (fun n => (n : Int) + 1) x fxOne 0 100

/-- sin r and cos r for |r| < 1 in fixed point. -/
def fxSin (r : Int) : Int :=
  fxSeries (fun n => (2 * (n : Int) + 2) * (2 * n + 3)) (-(fxMul r r)) r 0 60
def fxCos (r : Int) : Int :=
  fxSeries (fun n => (2 * (n : Int) + 1) * (2 * n + 2)) (-(fxMul r r)) fxOne 0 60

/-- Σ z^(2n+1)/(2n+1), the terms z^(2n+1) carried in `t`. -/
def fxAtanhSum (z2 t : Int) (n : Nat) : Nat → Int
  | 0 => 0
  | fuel + 1 => t / (2 * (n : Int) + 1) + fxAtanhSum z2 (fxMul t z2) (n + 1) fuel

/-- ln x for 1 ≤ x < 2 in fixed point: 2·atanh((x−1)/(x+1)). -/
def fxLn (x : Int) : Int :=
  let z := fxDiv (x - fxOne) (x + fxOne)
  2 * fxAtanhSum (fxMul z z) z 0 130

/-- An approximate exact result: `v × 2^e` within `± err × 2^e`. -/
structure Encl where
  v : Int
  err : Nat
  e : Int

/-- Unit in the last place of binary32 at a nonzero value, as the exponent of 2 (R103). -/
def ulpExp (x : Mag) : Int :=
  let l := x.log2
  (if l < -126 then -126 else l) - 23

/-- Is the finite binary32 code within `bound × 2^b` of every value in the enclosure (R103)? -/
def withinBound (c : Nat) (y : Encl) (bound : Nat) (b : Int) : Bool :=
  match f32.decode c with
  | .fin n m e =>
    let x : Dy := ⟨if n then -(m : Int) else m, e⟩
    let d := (x.add ⟨-y.v, y.e⟩).abs
    !(Dy.lt ⟨bound, b⟩ (d.add ⟨y.err, y.e⟩))
  | _ => false

/-- Operands below 2^-60 in magnitude, where the first terms of a series enclose the result. -/
def tiny60 (m : Int) (e : Int) : Bool := Dy.lt (Dy.abs ⟨m, e⟩) ⟨1, -60⟩

/-- `a − a³ / den` within `a⁵`, for `a = m × 2^e` below 2^-60: sin (6) and tanh (3). -/
def enclOdd (den : Int) (m : Int) (e : Int) : Encl :=
  ⟨m * 2 ^ (10 - 4 * e).toNat - m * m * m * 2 ^ (10 - 2 * e).toNat / den, 2 + m.natAbs ^ 5 * 2 ^ 10, 5 * e - 10⟩

/-- `1 − a² / 2` within `a⁴`: cos for `a = m × 2^e` below 2^-60. -/
def enclCosTiny (m : Int) (e : Int) : Encl :=
  ⟨2 ^ (10 - 4 * e).toNat - m * m * 2 ^ (10 - 2 * e).toNat / 2, 2 + m.natAbs ^ 4 * 2 ^ 10, 4 * e - 10⟩

/-- The value returned for an operand whose exact result is enclosed by `y`: the free value when it
lies in the bound, else the rounded result; with its flags (R49, R103). `absB` is an absolute bound
that replaces the one in ulps. An overflow rounds as RNE does, whatever RND says (DESIGN CHOICE, log entry 132). -/
def boundedFree (free : Nat) (y : Encl) (ulps : Nat) (absB : Option Int) : Nat × Fl :=
  let mag : Mag := ⟨y.v.natAbs, 1, y.e⟩
  let neg := decide (y.v < 0)
  let (c, fl) := roundMag f32 .rne false neg mag
  if y.v = 0 then (c, fNX)
  else if c % f32.signBit = f32.infCode then (c, fl ||| fNX)
  else
    let ok := match absB with
      | some b => withinBound free y 1 b
      | none => withinBound free y ulps (ulpExp mag)
    (if ok then free else c, fl ||| fNX)

/-- An exact dyadic result. -/
def exactDy (neg : Bool) (m : Nat) (e : Int) : Nat × Fl := roundMag f32 .rne false neg ⟨m, 1, e⟩

/-- Is a nonzero `m × 2^e` a power of two, and which? -/
def pow2Of (m : Nat) (e : Int) : Option Int :=
  if m = 2 ^ Nat.log2 m then some ((Nat.log2 m : Int) + e) else none

/-- Codes of ±∞ and ±0 and of the canonical NaN in binary32. -/
def infC (neg : Bool) : Nat := (if neg then f32.signBit else 0) + f32.infCode
def zeroC (neg : Bool) : Nat := if neg then f32.signBit else 0

/-- 200 bits of the quotient `num / den × 2^exp`. -/
def enclQuot (neg : Bool) (x : Mag) : Encl :=
  let q := x.log2 - 200
  let (n, _) := roundGrid .rtz false x q
  ⟨if neg then -(n : Int) else n, 1, q⟩

/-- RCP (R103, R104). -/
def approxRcp (a : Nat) : Nat × Fl :=
  match f32.decode a with
  | .nan _ q _ => (f32.nanCode, if q then 0 else fNV)
  | .inf n => (zeroC n, 0)
  | .fin n m e =>
    if m = 0 then (infC n, fDZ)
    else match pow2Of m e with
      | some k => exactDy n 1 (-k)
      | none => boundedFree (Config.approx 0 (BitVec.ofNat 32 a)).toNat (enclQuot n ⟨1, m, -e⟩) 1 none

/-- RSQ (R103, R104). -/
def approxRsq (a : Nat) : Nat × Fl :=
  match f32.decode a with
  | .nan _ q _ => (f32.nanCode, if q then 0 else fNV)
  | .inf n => if n then (f32.nanCode, fNV) else (0, 0)
  | .fin n m e =>
    if m = 0 then (infC n, fDZ)
    else if n then (f32.nanCode, fNV)
    else
      let m' := if e % 2 = 0 then m else 2 * m
      let e' := if e % 2 = 0 then e else e - 1
      match pow2Of m e with
      | some k =>
        if k % 2 = 0 then exactDy false 1 (-(k / 2))
        else boundedFree (Config.approx 1 (BitVec.ofNat 32 a)).toNat ⟨isqrt (4 ^ 260 / m') 300, 2, -260 - e' / 2⟩ 1 none
      | none => boundedFree (Config.approx 1 (BitVec.ofNat 32 a)).toNat ⟨isqrt (4 ^ 260 / m') 300, 2, -260 - e' / 2⟩ 1 none

/-- 2 to a finite exponent `m × 2^e`, enclosed. -/
def enclExp2 (m : Int) (e : Int) : Encl :=
  let x := fxOf m e
  let k := x / fxOne
  let f := x - k * fxOne
  ⟨fxExp (fxMul f fxLn2), 2 ^ 100, k - fxBits⟩

/-- EXP2 (R103, R104), also the EXP2 of DSCR and SMRG (R214). -/
def approxExp2 (a : Nat) : Nat × Fl :=
  match f32.decode a with
  | .nan _ q _ => (f32.nanCode, if q then 0 else fNV)
  | .inf n => if n then (0, 0) else (f32.infCode, 0)
  | .fin n m e =>
    let x : Dy := ⟨if n then -(m : Int) else m, e⟩
    if m = 0 then exactDy false 1 0
    else if !(x.lt ⟨128, 0⟩) then (f32.infCode, fOF ||| fNX)
    else if x.lt ⟨-150, 0⟩ then (0, fUF ||| fNX)
    else
      let fx := fxOf x.m x.e
      if fx % fxOne = 0 && decide (-149 * fxOne ≤ fx) then exactDy false 1 (fx / fxOne)
      else boundedFree (Config.approx 2 (BitVec.ofNat 32 a)).toNat (enclExp2 x.m x.e) 2 none

/-- LOG2 (R103, R104). -/
def approxLog2 (a : Nat) : Nat × Fl :=
  match f32.decode a with
  | .nan _ q _ => (f32.nanCode, if q then 0 else fNV)
  | .inf n => if n then (f32.nanCode, fNV) else (f32.infCode, 0)
  | .fin n m e =>
    if m = 0 then (infC true, fDZ)
    else if n then (f32.nanCode, fNV)
    else match pow2Of m e with
      | some k => roundDyadic f32 .rne false false k 0
      | none =>
        let l := Nat.log2 m
        let x := fxOf m (-(l : Int))
        boundedFree (Config.approx 3 (BitVec.ofNat 32 a)).toNat
          ⟨((l : Int) + e) * fxOne + fxDiv (fxLn x) fxLn2, 2 ^ 100, -(fxBits : Int)⟩ 2 none

/-- sin (`isCos = false`) or cos of a finite nonzero value, enclosed: reduction by multiples of π/2,
then the series on |r| ≤ π/4. -/
def enclSinCos (isCos : Bool) (m : Int) (e : Int) : Encl :=
  if tiny60 m e then (if isCos then enclCosTiny m e else enclOdd 6 m e)
  else
  let x := fxOf m e
  let k := (2 * (2 * x + fxPi / 2)) / (2 * fxPi)
  let r := x - k * fxPi / 2
  let j := ((if isCos then k + 1 else k) % 4).toNat
  let v := match j with
    | 0 => fxSin r
    | 1 => fxCos r
    | 2 => -(fxSin r)
    | _ => -(fxCos r)
  ⟨v, 2 ^ 140, -(fxBits : Int)⟩

/-- SIN and COS (R103, R104). -/
def approxSinCos (isCos : Bool) (a : Nat) : Nat × Fl :=
  match f32.decode a with
  | .nan _ q _ => (f32.nanCode, if q then 0 else fNV)
  | .inf _ => (f32.nanCode, fNV)
  | .fin n m e =>
    if m = 0 then (if isCos then exactDy false 1 0 else (a, 0))
    else
      let x : Dy := ⟨if n then -(m : Int) else m, e⟩
      let big := Dy.lt ⟨4096, 0⟩ x.abs
      boundedFree (Config.approx (if isCos then 5 else 4) (BitVec.ofNat 32 a)).toNat (enclSinCos isCos x.m x.e) 2
        (if big then some (-20) else none)

/-- tanh of a finite nonzero value, enclosed: (1 − e^(−2a)) / (1 + e^(−2a)). From a = 64 on the value at 64
stands for the result, which is nearer to 1 and as near to no other value. -/
def enclTanh (neg : Bool) (m : Nat) (e : Int) : Encl :=
  if tiny60 m e then enclOdd 3 (if neg then -(m : Int) else m) e
  else
    let t0 := fxOf (2 * m) e
    let t := if 128 * fxOne < t0 then 128 * fxOne else t0
    let k := t / fxLn2
    let r := t - k * fxLn2
    let u := fxExp (-r) / 2 ^ k.toNat
    let v := fxDiv (fxOne - u) (fxOne + u)
    ⟨if neg then -v else v, 2 ^ 100, -(fxBits : Int)⟩

/-- TANH (R103, R104), also the TANH of the score program (R211). -/
def approxTanh (a : Nat) : Nat × Fl :=
  match f32.decode a with
  | .nan _ q _ => (f32.nanCode, if q then 0 else fNV)
  | .inf n => exactDy n 1 0
  | .fin n m e =>
    if m = 0 then (a, 0)
    else
      boundedFree (Config.approx 6 (BitVec.ofNat 32 a)).toNat (enclTanh n m e) 2 none

end Sys2Proof.Machine
end

