-- ==== Sys2Proof/Machine/ArrayData.lean ====
section
/-! DEFINITION. The arithmetic of the digit array (R192 to R194, R200, R201, R206 to R208, R211, R212,
R214, R215), on values alone. -/

namespace Sys2Proof.Machine

/-! Alignment and recoding. -/

/-- Is a value a NaN or an infinity? -/
def FVal.bad (x : FVal) : Bool := x.isNan || x.isInf

/-- The largest magnitude of exact values. -/
def amaxOf (xs : List FVal) : Dy := xs.foldl (fun acc x => if acc.lt x.dy.abs then x.dy.abs else acc) Dy.zero

/-- The integers of R192 for an exponent. -/
def alignAt (E : Int) (xs : List FVal) : List Int :=
  xs.map (fun x =>
    let neg : Bool := decide (x.dy.m < (0 : Int))
    let n : Nat := (roundGrid .rne neg ⟨x.dy.m.natAbs, 1, x.dy.e + 15 - E⟩ 0).1
    if neg then -(n : Int) else (n : Int))

/-- The alignment of exact values: exponent and integers (R192). -/
def alignVals (xs : List FVal) : Int × List Int :=
  let a := amaxOf xs
  if a.m = 0 then (0, xs.map (fun _ => 0))
  else
    let E := Mag.log2 ⟨a.m.natAbs, 1, a.e⟩ + 1
    let v := alignAt E xs
    if v.any (fun x => decide (x.natAbs = 2 ^ 15)) then (E + 1, alignAt (E + 1) xs) else (E, v)

/-- The non-adjacent form of a value: digits with their shifts, highest shift first (R193). -/
def nafDigits : Nat → Nat → Nat → Bool → List (Int × Nat)
  | 0, _, _, _ => []
  | n + 1, x, k, neg =>
    if x = 0 then []
    else if x % 2 = 1 then
      let up := decide (x % 4 = 3)
      nafDigits n ((if up then x + 1 else x - 1) / 2) (k + 1) neg ++ [(if up != neg then -1 else 1, k)]
    else nafDigits n (x / 2) (k + 1) neg

/-- Digits of an aligned value (R193). -/
def digitsOf (v : Int) : List (Int × Nat) := nafDigits 18 v.natAbs 0 (decide (v < 0))

/-- Pack a column word (R179). -/
def colWord (F : Nat) (ce : Int) : BitVec 16 := BitVec.ofNat 16 (F * 2 ^ 11 + (ce.emod 2048).toNat)
/-- The word of a poisoned column. -/
def colPoison : BitVec 16 := 0x400
/-- Factor and exponent of a column word. -/
def colF (w : BitVec 16) : Nat := w.toNat / 2 ^ 11
def colCE (w : BitVec 16) : Int := (w.extractLsb' 0 11).toInt
/-- Is the column poisoned? -/
def colBad (w : BitVec 16) : Bool := w.extractLsb' 0 11 == 0x400#11

/-- A recoded column: its aligned values and its word. -/
structure Col where
  vals : List Int
  word : BitVec 16

/-- The Hadamard transform of a slab in groups of `n`, on finite values (R55, R194). -/
def hadSlab (n : Nat) (xs : List FVal) : List FVal :=
  (List.range xs.length).map (fun i =>
    let d := ((hadTerms (i % n) ((xs.drop (i / n * n)).take n)).map FVal.dy).foldl Dy.add Dy.zero
    .fin (decide (d.m < 0)) d.m.natAbs d.e)

/-- Recode one column (R192 to R194). -/
def recodeCol (had : Nat) (scale : Option Nat) (xs : List FVal) : Col :=
  if xs.any FVal.bad || scale == some scaleNan then ⟨xs.map (fun _ => 0), colPoison⟩
  else
    let ys := if had = 1 then hadSlab 16 xs else if had = 2 then hadSlab 32 xs else xs
    let (E, v) := alignVals ys
    ⟨v, match scale with
      | none => colWord 16 (E - 4)
      | some c => if c / 16 = 0 then colWord (c % 16) (E - 130) else colWord (16 + c % 16) (E + (c / 16 : Nat) - 131)⟩

/-- A store from entries in rising order of key. -/
def storeOf {α : Type} [DecidableEq α] (d : α) (l : List (Nat × α)) : Store α := l.filter (fun x => decide (x.2 ≠ d))

/-- A plane with the passes and the counts of its digits taken from its values (R179, R193). -/
def Plane.recount (p : Plane) : Plane :=
  let ws := p.vals.map (fun e => (digitsOf e.2).length)
  { p with
    passes := ws.foldl Nat.max 0
    counts := (List.range 8).map (fun p => (ws.filter (fun n => decide (p < n))).length) }

/-- The plane of 256 recoded columns (R179, R193). -/
def planeOf (fmt had : Nat) (tritBad : Bool) (cols : List Col) : Plane :=
  let entries := (List.range 32).flatMap (fun k => cols.mapIdx (fun c x => (256 * k + c, nth x.vals k 0)))
  Plane.recount {
    fmt := fmt, passes := 0, had := had, poison := cols.any (fun c => colBad c.word), tritBad := tritBad, vals := storeOf 0 entries
    cols := storeOf Plane.zeroCol (cols.mapIdx (fun i c => (i, c.word)))
    counts := [] }

/-- Bytes of a column by format code (R191). -/
def colBytes (fmt : Nat) : Nat :=
  match fmt with
  | 0 => 7 | 1 => 16 | 2 => 16 | 7 => 16 | 3 => 32 | 4 => 32 | _ => 64

/-- Packed stride by format code. -/
def packedStride (fmt : Nat) : Nat := if fmt = 0 then 8 else colBytes fmt

/-- Element codes of `bits` bits in words, lowest first (R40). -/
def codesOf (bits : Nat) (ws : List Word) : List Nat := ws.flatMap (fun w => splitBits bits (32 / bits) w.toNat)

/-- Elements of one column (R192): their values. -/
def colVals (fmt : Nat) (book : List Reg) (ws : List Word) : List FVal :=
  let fin := fun (x : Int) => FVal.fin (decide (x < 0)) x.natAbs 0
  match fmt with
  | 0 => (((codesOf 8 ws).take 7).flatMap (fun b => (tritsOf b).getD [0, 0, 0, 0, 0])).take 32 |>.map fin
  | 1 => (codesOf 4 ws).map (fun c => fin (intVal true 4 c))
  | 2 => (codesOf 4 ws).map e2m1.decode
  | 3 => (codesOf 8 ws).map e5m2.decode
  | 4 => (codesOf 8 ws).map e4m3.decode
  | 5 => (codesOf 16 ws).map bf16.decode
  | 6 => (codesOf 16 ws).map f16.decode
  | _ =>
    (codesOf 4 ws).map (fun k =>
      let r := nth book k Reg.void
      match r.tag with
      | .bflt2 => bf16.decode (r.val.toNat % 2 ^ 16)
      | .e4m3q => e4m3.decode (r.val.toNat % 2 ^ 8)
      | _ => e5m2.decode (r.val.toNat % 2 ^ 8))

/-- Element index of the first illegal trit byte of columns (R195). -/
def firstIllegal (cols : List (List Word)) : Option Nat :=
  (cols.mapIdx (fun c ws => (((codesOf 8 ws).take 7).findIdx? (fun b => decide (243 ≤ b))).map (fun i => 32 * c + 5 * i))).findSome? id

/-! Streaming. -/

/-- A streamed row: poisoned, or its alignment (R200). -/
inductive SRow where
  | bad
  | ok (E : Int) (u : List Int)

/-- Align a row. -/
def srowOf (xs : List FVal) : SRow := if xs.any FVal.bad then .bad else (let (E, u) := alignVals xs; .ok E u)

/-- The values of a row's elements with an optional scale (R44, R200). -/
def rowVals (t : Tag) (scale : Option Nat) (ws : List Word) : List FVal :=
  let el := Tag.elem t
  (codesOf el.bits ws).map (fun c =>
    match scale with
    | some sc => dequant el sc c
    | none =>
      match el with
      | .flt f => f.decode c
      | .int s b => .fin (decide (intVal s b c < 0)) (intVal s b c).natAbs 0)

/-- The sum over the plane's column of `u × v` (R201). -/
def colDot (p : Plane) (u : List Int) (c : Nat) : Int :=
  (p.vals.filter (fun e => decide (e.1 % 256 = c))).foldl (fun a e => a + nth u (e.1 / 256) 0 * e.2) 0

/-- A binary32 word plus an exact nonzero value, rounded once. -/
def addExact (w : Word) (m : Int) (e : Int) : Word :=
  BitVec.ofNat 32 ((sumTerms .rne [f32.decode w.toNat, .fin (decide (m < 0)) m.natAbs e]).round f32 .rne).1

/-- An exact value rounded to binary32; zero is +0. -/
def roundExact (m : Int) (e : Int) : Word := BitVec.ofNat 32 (roundDyadic f32 .rne false false m e).1

/-- The canonical NaN of binary32. -/
def nan32 : Word := 0x7FC00000
/-- −∞. -/
def ninf32 : Word := 0xFF800000

/-- A row of accumulators and its sum after one streamed row (R201); `fresh` for DSTRN. -/
def streamRow (p : Plane) (fresh : Bool) (row : List Word) (sum : Word) (r : SRow) : List Word × Word :=
  match r with
  | .bad => (row.map (fun _ => nan32), nan32)
  | .ok E u =>
    let put := fun (old : Word) (m : Int) (e : Int) => if fresh then roundExact m e else if m = 0 then old else addExact old m e
    let g := u.foldl (· + ·) 0
    (row.mapIdx (fun c old =>
      let w := Store.get Plane.zeroCol p.cols c
      if colBad w then nan32 else put old (colDot p u c * colF w) (E + colCE w - 30)),
     put sum g (E - 15))

/-! Exact values of a drain (R206): a NaN, an infinity, or a signed ratio times a power of two. -/

/-- An exact value of a drain. -/
inductive DVal where
  | nan
  | inf (neg : Bool)
  | fin (neg : Bool) (x : Mag)
  deriving DecidableEq, Repr

/-- The value of a binary32 word. -/
def DVal.of (w : Word) : DVal :=
  match f32.decode w.toNat with
  | .nan _ _ _ => .nan
  | .inf n => .inf n
  | .fin n m e => .fin n ⟨m, 1, e⟩

def DVal.negate : DVal → DVal
  | .nan => .nan
  | .inf n => .inf (!n)
  | .fin n x => .fin (!n) x

/-- Product (R206). -/
def DVal.mul (x y : DVal) : DVal :=
  match x, y with
  | .nan, _ => .nan
  | _, .nan => .nan
  | .inf a, .inf b => .inf (a != b)
  | .inf a, .fin b m => if m.num = 0 then .nan else .inf (a != b)
  | .fin a m, .inf b => if m.num = 0 then .nan else .inf (a != b)
  | .fin a m, .fin b k => .fin (a != b) ⟨m.num * k.num, m.den * k.den, m.exp + k.exp⟩

/-- Quotient (R206). -/
def DVal.div (x y : DVal) : DVal :=
  match x, y with
  | .nan, _ => .nan
  | _, .nan => .nan
  | .inf _, .inf _ => .nan
  | .inf a, .fin b _ => .inf (a != b)
  | .fin a _, .inf b => .fin (a != b) ⟨0, 1, 0⟩
  | .fin a m, .fin b k =>
    if k.num = 0 then (if m.num = 0 then .nan else .inf (a != b))
    else .fin (a != b) ⟨m.num * k.den, m.den * k.num, m.exp - k.exp⟩

/-- Sum of finite values. -/
def magAdd (a : Bool) (m : Mag) (b : Bool) (k : Mag) : DVal :=
  let e := if m.exp ≤ k.exp then m.exp else k.exp
  let same := decide (m.den = k.den)
  let p := m.num * 2 ^ (m.exp - e).toNat * (if same then 1 else k.den)
  let q := k.num * 2 ^ (k.exp - e).toNat * (if same then 1 else m.den)
  let s : Int := (if a then -(p : Int) else p) + (if b then -(q : Int) else q)
  .fin (if s = 0 then zeroSumNeg .rne [a, b] (decide (m.num = 0) && decide (k.num = 0)) else decide (s < 0))
    ⟨s.natAbs, if same then m.den else m.den * k.den, e⟩

/-- Sum (R206). -/
def DVal.add (x y : DVal) : DVal :=
  match x, y with
  | .nan, _ => .nan
  | _, .nan => .nan
  | .inf a, .inf b => if a = b then .inf a else .nan
  | .inf a, _ => .inf a
  | _, .inf b => .inf b
  | .fin a m, .fin b k => magAdd a m b k

/-- Multiplication by a power of two. -/
def DVal.scale (x : DVal) (k : Int) : DVal :=
  match x with
  | .fin n m => .fin n { m with exp := m.exp + k }
  | x => x

/-- The options of a drain's expression (R204 to R206). -/
structure DrainOpt where
  zp : Bool
  cp : Bool
  hrem : Nat
  norm : Bool

/-- The value q of one element (R206); `sc`, `z` and `b` are the column's scale, zero point and bias. -/
def drainVal (o : DrainOpt) (acc l sc z b : Word) : DVal :=
  let q := DVal.of acc
  let q := if o.zp then q.add ((DVal.of z).mul (DVal.of l)).negate else q
  let q := if o.cp then q.mul (DVal.of sc) else q
  let q := if o.hrem = 1 then q.scale (-4) else if o.hrem = 2 then q.scale (-5) else q
  let q := if o.norm then q.div (DVal.of l) else q
  if o.cp then q.add (DVal.of b) else q

/-- q rounded once to a float format (R207). -/
def DVal.round (f : Fmt) : DVal → Nat
  | .nan => f.nanCode
  | .inf n => (if n then f.signBit else 0) + f.infCode
  | .fin n m => (roundMag f .rne false n m).1

/-- The Hadamard transform of a row in groups (R55, R208); a sum of zeros of one sign keeps it (R48). -/
def hadDVals (n : Nat) (qs : List DVal) : List DVal :=
  (List.range qs.length).map (fun i =>
    let xs := (qs.drop (i / n * n)).take n
    if xs.any (fun x => x == .nan) then .nan
    else
      match xs.mapIdx (fun j x => if hadNeg (i % n) j then x.negate else x) with
      | [] => .fin false ⟨0, 1, 0⟩
      | t :: r => r.foldl DVal.add t)

/-- Is a magnitude at most another? -/
def magLe (x y : Mag) : Bool := leScaled (x.num * y.den) x.exp (y.num * x.den) y.exp

/-- The lowest scale code that reaches a magnitude over emax (R45). -/
def magSearch (emax : Nat) (x : Mag) : Nat → Nat → Nat
  | 0, lo => lo
  | k + 1, lo =>
    let c := lo + 2 ^ k - 1
    if leScaled x.num x.exp ((scaleVal c).1 * emax * x.den) (scaleVal c).2 then magSearch emax x k lo else magSearch emax x k (lo + 2 ^ k)

/-- The scale of a block of exact values (R45); where no code reaches amax / emax, a free value (log entry
86). -/
def blockScale (el : Elem) (qs : List DVal) : Nat :=
  if qs.any (fun q => match q with | .fin _ _ => false | _ => true) then scaleNan
  else
    let a := qs.foldl (fun (acc : Mag) q => match q with | .fin _ m => if magLe acc m then m else acc | _ => acc) ⟨0, 1, 0⟩
    if a.num = 0 then 0
    else
      let c := magSearch (emaxOf el) a 12 1
      if c ≤ 0xFFE then c else (Config.scaleBeyond (emaxOf el) a.num a.den a.exp).toNat

/-- One element of a block quantised under its scale by RNE (R46). -/
def blockElem (el : Elem) (sc : Nat) (q : DVal) : Nat :=
  match q with
  | .fin n m =>
    if sc = scaleNan then elemZero el n
    else if m.num = 0 then elemZero el n
    else
      let (sm, se) := scaleVal sc
      if sm = 0 then elemMax el n
      else if !leScaled m.num m.exp (sm * emaxOf el * m.den) se then elemMax el n
      else (roundElem el .rne n ⟨m.num, m.den * sm, m.exp - se⟩).1
  | .inf n => elemZero el n
  | .nan => elemZero el false

/-- Codes of `bits` bits packed into words (R40). -/
def packCodes (bits : Nat) (cs : List Nat) : List Word :=
  (List.range (cs.length * bits / 32)).map (fun i => BitVec.ofNat 32 (joinBits bits ((cs.drop (i * (32 / bits))).take (32 / bits))))

/-- Scale codes packed two to a word, bits 12 to 15 and 28 to 31 zero (R44). -/
def packScales : List Nat → List Word
  | a :: b :: r => BitVec.ofNat 32 (a % 4096 + 2 ^ 16 * (b % 4096)) :: packScales r
  | [a] => [BitVec.ofNat 32 (a % 4096)]
  | [] => []

/-! The score program (R211, R212). -/

/-- Fields of an operation word. -/
def scOp (w : Word) : Nat := w.toNat / 2 ^ 27
def scDst (w : Word) : Nat := w.toNat / 2 ^ 23 % 16
def scX (w : Word) : Nat := w.toNat / 2 ^ 19 % 16
def scY (w : Word) : Nat := w.toNat / 2 ^ 15 % 16
def scZ (w : Word) : Nat := w.toNat / 2 ^ 11 % 16

/-- How many of X, Y, Z an operation uses; none when it is not in the table. -/
def scUses (op : Nat) : Option Nat :=
  match op with
  | 1 | 2 | 3 | 5 | 6 | 8 | 9 | 10 => some 2
  | 4 | 7 => some 3
  | 11 | 12 | 13 | 14 => some 1
  | _ => none

/-- Is an operation word valid (R211)? -/
def scValid (w : Word) : Bool :=
  match scUses (scOp w) with
  | none => false
  | some n =>
    (scDst w == 0 || (decide (8 ≤ scDst w) && decide (scDst w ≤ 11))) && decide (scX w < 14) && decide (scY w < 14) && decide (scZ w < 14) &&
    (decide (2 ≤ n) || scY w == 0) && (decide (3 ≤ n) || scZ w == 0) && decide (w.toNat % 2 ^ 11 = 0)

/-- The registers of one element's run: s, qi, kj, h, k0 to k3, t0 to t3. -/
abbrev ScRegs := List Word

/-- The operand a selector names. -/
def scRead (r : ScRegs) (sel : Nat) : Word := if sel = 12 then 0 else if sel = 13 then ninf32 else nth r sel 0

/-- The binary32 code of 1 or of +0. -/
def one32 (b : Bool) : Word := if b then 0x3F800000 else 0

/-- The result of one operation (R211, R212). -/
def scApply (op : Nat) (x y z : Word) : Word :=
  let a := f32.decode x.toNat
  let b := f32.decode y.toNat
  let c := f32.decode z.toNat
  let num := !a.isNan && !b.isNan
  match op with
  | 1 => BitVec.ofNat 32 (fAdd f32 .rne a b).1
  | 2 => BitVec.ofNat 32 (fAdd f32 .rne a b.negate).1
  | 3 => BitVec.ofNat 32 (fMul f32 .rne a b).1
  | 4 => BitVec.ofNat 32 (fFma f32 .rne a b c).1
  | 5 => BitVec.ofNat 32 (fMinMax f32 false x.toNat y.toNat).1
  | 6 => BitVec.ofNat 32 (fMinMax f32 true x.toNat y.toNat).1
  | 7 => if a.isNan || a.isZero then z else y
  | 8 => one32 (num && fLt a b)
  | 9 => one32 (num && !fLt b a)
  | 10 => one32 (num && !fLt a b && !fLt b a)
  | 11 => x &&& 0x7FFFFFFF
  | 12 => x ^^^ 0x80000000
  | 13 => BitVec.ofNat 32 (approxTanh x.toNat).1
  | _ => x

/-- Run the operations. -/
def scRun (r : ScRegs) (ops : List Word) : ScRegs :=
  ops.foldl (fun r w => r.set (scDst w) (scApply (scOp w) (scRead r (scX w)) (scRead r (scY w)) (scRead r (scZ w)))) r

/-- A natural number below 2^24 in binary32. -/
def natF32 (n : Nat) : Word := roundExact n 0

/-- The score of one element (R214 step 1). -/
def scoreOf (p : Score) (s : Word) (qi kj h : Nat) : Word :=
  nth (scRun ([s, natF32 qi, natF32 kj, natF32 h] ++ p.k ++ [0, 0, 0, 0]) (p.ops.take p.n)) 0 0

/-! Softmax rows (R214, R215). -/

/-- Binary32 difference, product and EXP2. -/
def subF (x y : Word) : Word := scApply 2 x y 0
def mulF (x y : Word) : Word := scApply 3 x y 0
def exp2F (x : Word) : Word := BitVec.ofNat 32 (approxExp2 x.toNat).1
/-- Is a word a NaN? -/
def isNan32 (w : Word) : Bool := (f32.decode w.toNat).isNan
/-- The larger of two numbers. -/
def maxF (x y : Word) : Word := scApply 6 x y 0

/-- A row's new maximum, rescaling factor and probabilities (R214 steps 2 and 3). -/
def softRow (mo : Word) (xs : List Word) : Word × Word × List Word :=
  let mn := if isNan32 mo || xs.any isNan32 then nan32 else xs.foldl maxF mo
  if mn = ninf32 then (mn, one32 true, xs.map (fun _ => 0))
  else if mo = ninf32 then (mn, 0, xs.map (fun x => exp2F (subF x mn)))
  else (mn, exp2F (subF mo mn), xs.map (fun x => exp2F (subF x mn)))

/-- An output element rescaled (R214 step 4): a factor of +0 writes +0. -/
def rescale (alpha w : Word) : Word := if alpha = one32 true then w else if alpha = 0 then 0 else mulF w alpha

/-- `x × α + y × β`, exact and rounded once (R215). -/
def mergeF (x al y be : Word) : Word :=
  match (f32.decode x.toNat).mul (f32.decode al.toNat), (f32.decode y.toNat).mul (f32.decode be.toNat) with
  | some p, some q => BitVec.ofNat 32 ((sumTerms .rne [p, q]).round f32 .rne).1
  | _, _ => nan32

/-- The new maximum and the factors of a merge; none for a row left unchanged (R215). -/
def mergeFactors (ma mb : Word) : Option (Word × Word × Word) :=
  if ma = ninf32 ∧ mb = ninf32 then none
  else
    let m := if isNan32 ma || isNan32 mb then nan32 else maxF ma mb
    some (m, if ma = ninf32 then 0 else exp2F (subF ma m), if mb = ninf32 then 0 else exp2F (subF mb m))

end Sys2Proof.Machine
end

