-- ==== Sys2Proof/Machine/Sched.lean ====
section
/-! DEFINITION. Who is ready, and the choice of a group and of its issue group (R135, R136, R309,
R321 to R323). -/

namespace Sys2Proof.Machine

/-- The selectors a field use names. -/
def Use.sels : Use → List Nat
  | .src s | .dst s | .rw s => [s.toNat]
  | .srcSet n s | .dstSet n s | .rwSet n s => (List.range n).map (fun k => s.toNat + k)

/-- The selectors an instruction reads. -/
def Use.reads : Use → List Nat
  | .src s | .rw s => [s.toNat]
  | .srcSet n s | .rwSet n s => (List.range n).map (fun k => s.toNat + k)
  | .dst _ | .dstSet _ _ => []

/-- Registers and special operands whose tags form issue groups: the sources named and the HSRC
operand (R20, R75). -/
def sourceSels (h : Hints) (i : Instr) : List Nat := (usesWith h i).flatMap Use.reads ++ h.src.toList.map BitVec.toNat

/-- The register that holds the codebook of an instruction, in lanes 0 to 15 of its group (R47). -/
def bookSel : Instr → Option Sel
  | .lutx _ _ b | .dldl _ _ b => some b
  | _ => none

/-- The selectors that an instruction of a thread reads: the sources named, but for those that its
descriptor leaves unread (R169, R181). -/
def Thread.readSels (t : Thread) (i : Instr) : List Nat :=
  let hs := t.hints.src.toList.map BitVec.toNat
  let w := fun (d : Sel) => (t.reg d.toNat).val
  let pair := fun (x : Sel) (both : Bool) => if both then [x.toNat, x.toNat + 1] else [x.toNat]
  match i with
  | .dld d a _ => if (w d).getLsbD 5 then sourceSels t.hints i else [d.toNat, a.toNat] ++ hs
  | .ddrn d a _ | .ddrq d a _ => if (w d).getLsbD 8 || (w d).getLsbD 9 then sourceSels t.hints i else [d.toNat, a.toNat] ++ hs
  | .cpy d a b => [d.toNat] ++ pair a ((w d).extractLsb' 2 2 == 2#2) ++ pair b ((w d).extractLsb' 4 2 == 2#2) ++ hs
  | i => sourceSels t.hints i

/-- The next instruction of a thread, if it fetches and decodes. -/
def State.nextInstr (s : State) (g : Group) (t : Thread) : Option Instr :=
  match s.peekCode g t.pc with
  | some w => (match decode w with | .ok i => some i | .error _ => none)
  | none => none

/-- The selectors that an instruction of a thread reads, the codebook among them (R47). -/
def Thread.sourcesOf (t : Thread) (i : Instr) : List Nat := sourceSels t.hints i ++ (bookSel i).toList.map BitVec.toNat

/-- The selectors that it reads or writes. -/
def Thread.operandsOf (t : Thread) (i : Instr) : List Nat := (usesWith t.hints i).flatMap Use.sels ++ t.sourcesOf i

/-- Are the operands of a thread's next instruction free on the group's scoreboard (R59, R135)? -/
def State.operandsFree (s : State) (g : Group) (t : Thread) : Bool :=
  match s.nextInstr g t with
  | none => true
  | some i =>
    let busy := s.groupBusy g
    (t.operandsOf i).all (fun n => !decide (n ∈ busy) || decide (0xF8 < n)) && !(decide (0xF8 ∈ t.sourcesOf i) && g.latBusy)

/-- May the team of a group issue? A queue thread always may, while its context is in. -/
def State.running (s : State) (g : Group) : Bool :=
  match g.key.team with
  | none => (match s.ctx? g.qctx with | some c => decide (c.status = .active) | none => false)
  | some t => (match s.team? t with | some x => decide (x.phase = .running) | none => false)

/-- Is a thread able to issue but for its operands: it has not exited, and is not blocked, paused or
parked? -/
def Thread.awake (t : Thread) : Bool := !t.exited && t.block.isNone && !t.paused && !t.parked

/-- A ready thread (R135). One that is to take the PREEMPT trap of a save first waits for the results of
what it has issued (R329). -/
def State.threadReady (s : State) (g : Group) (t : Thread) : Bool :=
  s.running g && t.awake && s.operandsFree g t && (!(t.saveDue && !t.inHandler) || (s.busySels g.key t.tid).isEmpty)

/-- Has a group a ready thread? -/
def State.groupReady (s : State) (g : Group) : Bool := g.threads.any (s.threadReady g)

/-- The tags of a thread's named sources (R20). -/
def State.sourceTags (s : State) (g : Group) (t : Thread) : List Tag :=
  match s.nextInstr g t with
  | some i => (sourceSels t.hints i).map (fun n => (readSel g t (BitVec.ofNat 8 n)).tag)
  | none => []

/-! Traps that are due (R196, R329, R355, R358). -/

/-- The trap due at a thread's instruction boundary (R329, R355): a report, or the PREEMPT trap of a
save. -/
def Thread.boundaryTrap (t : Thread) : Option Trap :=
  match t.reported with
  | tr :: _ => some tr
  | [] => if t.saveDue && !t.inHandler then some ⟨.preempt, 1, 0, .precise⟩ else none

/-- The thread with its boundary trap taken off the list. -/
def Thread.dropBoundary (t : Thread) : Thread :=
  match t.reported with
  | _ :: r => { t with reported := r }
  | [] => { t with saveDue := false }

/-- Is the thread in a PREEMPT handler, whose reads make no attributed trap due (R196)? -/
def Thread.savingRegs (t : Thread) : Bool := t.inHandler && decide (t.trapCause.extractLsb' 0 8 = 0x13#8)

/-- Does an instruction of a thread make an attributed trap due (R196, R355)? -/
def Thread.attrHit (t : Thread) (i : Option Instr) (a : AttrTrap) : Bool :=
  let reads := match i with | some i => t.readSels i | none => []
  a.next || a.regs.any (fun r => decide (r ∈ reads))

/-- The attributed trap due before an instruction of a thread (R196, R355); it waits while the thread is
in a handler (R236). -/
def Thread.attrDue (t : Thread) (i : Option Instr) : Option AttrTrap :=
  if t.inHandler then none else t.attr.find? (t.attrHit i)

/-- Traps that come due in a handler are kept for the instruction after its ERET (R236). -/
def Thread.attrKeep (t : Thread) (i : Option Instr) : Thread :=
  if t.inHandler && !t.savingRegs then { t with attr := t.attr.map (fun a => if t.attrHit i a then { a with next := true } else a) } else t

/-- The register of a thread's next instruction whose parity fails, if one does: one it reads, or one of its
codebook (R358). -/
def parityHit (g : Group) (t : Thread) (i : Instr) : Option Nat :=
  match (t.readSels i).find? (fun n => decide (n ∈ t.parity)) with
  | some n => some n
  | none =>
    match bookSel i with
    | some b => if g.threads.any (fun x => decide (x.lane < 16) && !x.exited && decide (b.toNat ∈ x.parity)) then some b.toNat else none
    | none => none

/-- The ECC trap of a register (R356, R358). -/
def parityTrap (n : Nat) : Trap := ⟨.ecc, 1, BitVec.ofNat 64 n, .precise⟩

/-- The parity trap of a thread whose next instruction passes its encoding checks (R71, R358). -/
def parityDue (g : Group) (t : Thread) (i : Option Instr) : Option Trap :=
  match i with
  | some i => if (encCheck g t.hints i).isNone then (parityHit g t i).map parityTrap else none
  | none => none

/-- The thread chosen first: lowest PC, then lowest lane (R135). -/
def lowest : List Thread → Option Thread
  | [] => none
  | t :: r =>
    match lowest r with
    | none => some t
    | some u => if u.pc.toNat < t.pc.toNat ∨ (u.pc = t.pc ∧ u.lane < t.lane) then some u else some t

/-- The issue group of R135 among the ready threads of a group. -/
def State.issueGroup (s : State) (g : Group) : List Nat :=
  let ready := g.threads.filter (s.threadReady g)
  let late := ready.filter (fun t => decide (64 ≤ t.passOver))
  let cands := if late.isEmpty then ready else late
  match lowest cands with
  | none => []
  | some t =>
    (cands.filter (fun x => decide (x.pc = t.pc) && decide (s.sourceTags g x = s.sourceTags g t) && decide (x.hints.payload = t.hints.payload))).map Thread.tid

/-- A group's issue opportunity: its issue group is chosen and the pass-over counts move (R135). -/
def State.opportunity (s : State) (g : Group) : State :=
  let ready := (g.threads.filter (s.threadReady g)).map Thread.tid
  let tids := s.issueGroup g
  if tids.isEmpty then s
  else
    { s.modGroup g.key (fun g => { g with threads := g.threads.map (fun t =>
        if t.tid ∈ tids then { t with passOver := 0 } else if t.tid ∈ ready then { t with passOver := t.passOver + 1 } else t) }) with
      cur := some ⟨g.key, tids⟩ }

/-- Has every thread of a group exited? Such a group has retired (R321). -/
def Group.retired (g : Group) : Bool := g.threads.all Thread.exited

/-- The groups resident in a quadrant, in order of residency (R321): those that have not retired. -/
def State.quadGroups (s : State) (core quad : Nat) : List Group :=
  s.groups.filter (fun g => !g.key.isQueue && decide (g.core = core) && decide (g.quad = quad) && !g.retired)

/-- Move a group between the active and the pending set (R323). -/
def State.setActive (s : State) (k : GKey) (b : Bool) : State := s.modGroup k (fun g => { g with active := b, readyAt := none })

/-- The pending groups of a quadrant that have become ready, or have ceased to be, since its last cycle are
marked so, in the order of the cycles (R323). -/
def State.markReady (s : State) (core quad : Nat) : State :=
  let mark := fun (g : Group) =>
    if g.key.isQueue || g.active || decide (g.core ≠ core) || decide (g.quad ≠ quad) then g
    else { g with readyAt := if s.groupReady g then some (g.readyAt.getD s.dist.order) else none }
  { s with groups := s.groups.map mark, dist := { s.dist with order := s.dist.order + 1 } }

/-- The ready pending group that has been ready longest (R323); among groups that became ready in one
cycle, the first in order of residency. -/
def State.pendingReady (s : State) (core quad : Nat) : Option Group :=
  ((s.quadGroups core quad).filter (fun g => !g.active && s.groupReady g)).foldl
    (fun best g => match best with
      | none => some g
      | some b => if g.readyAt.getD s.dist.order < b.readyAt.getD s.dist.order then some g else some b) none

/-- Is a result one that R323 lists: of a global, tile or peer access, of LDSE or LDSC, of an engine command,
and not of an access to shared memory? -/
def Pend.long (p : Pend) : Bool :=
  match p.kind with
  | .load ws => !ws.all (fun a => match a.loc with | .shared _ _ => true | _ => false)
  | .atomic a _ _ _ _ | .cas a _ _ _ => (match a.loc with | .shared _ _ => false | _ => true)
  | .engine _ _ _ | .lock _ _ _ _ => true
  | .store _ _ | .fence _ => false

/-- The operands of a thread's next instruction. -/
def State.needs (s : State) (g : Group) (t : Thread) : List Nat :=
  match s.nextInstr g t with
  | some i => t.operandsOf i
  | none => []

/-- Does a thread wait for one of the reasons R323 lists: blocked or paused; for a listed result that its next
instruction needs; or for what it has in flight itself, before the trap of a save (R329)? -/
def State.longWait (s : State) (g : Group) (t : Thread) : Bool :=
  let need := s.needs g t
  let save := fun (tid : Nat) => t.saveDue && !t.inHandler && decide (tid = t.tid)
  let owes := fun (tid id : Nat) => decide (0xF8 ∈ need) && g.threads.any (fun u => decide (u.tid = tid) && decide (u.latOwner = some id))
  t.exited || t.block.isSome || t.paused ||
  s.pends.any (fun p => decide (p.key = g.key) && p.long && p.owners.any (fun tid => save tid || p.dests.any (fun d => decide (d.1.toNat ∈ need)) || owes tid p.id)) ||
  s.arrs.any (fun a => a.ops.any (fun o => o.members.any (fun m => decide (m.key = g.key) &&
    (m.tids.any (fun tid => save tid || owes tid o.id) || (!m.tids.isEmpty && m.dst.any (fun d => decide (d.toNat ∈ need)))))))

/-- Is an active group waiting (R323)? -/
def State.waiting (s : State) (g : Group) : Bool :=
  g.threads.all (fun t => t.exited || (!s.threadReady g t && s.longWait g t))

/-- YIELD's move: the group goes to the pending set and the longest-ready pending group comes in, if
there is one (R132, R323). -/
def State.swapOut (s : State) (k : GKey) (core quad : Nat) : State :=
  match s.pendingReady core quad with
  | none => s
  | some p => if p.key = k then s else (s.setActive k false).setActive p.key true

end Sys2Proof.Machine
end

