-- ==== Sys2Proof/Machine/Access.lean ====
section
/-! DEFINITION. The issue of a memory access: the address, the checks of R138 in order, the scope
checker (R258, R259), the lines of a version (R277, R306), and the outstanding operation that is
performed later. -/

namespace Sys2Proof.Machine

/-- The four spaces (R137). -/
inductive Space where
  | shared | tile | global | param
  deriving DecidableEq, Repr

/-- The address of a thread's access, formed after HOFF in the width of its space (R73, R137). -/
def View.address (v : View) (sp : Space) (a : Sel) : Nat :=
  match sp with
  | .shared => (((v.val a).toNat % 2 ^ 20 : Int) + v.hoff).emod (2 ^ 20) |>.toNat
  | .tile | .param => (((v.val a).toNat : Int) + v.hoff).emod (2 ^ 32) |>.toNat
  | .global => (((v.pair a).toNat : Int) + v.hoff).emod (2 ^ 64) |>.toNat

/-- Address of word `k` of an access (R139, R140); the later words of a shared access wrap at 2^20, as the first one
does by R137 (log entry 110). -/
def wordAddr (sp : Space) (addr k : Nat) : Nat :=
  match sp with
  | .shared => (addr + 4 * k) % 2 ^ 20
  | .tile => (addr + k) % 2 ^ 32
  | .param => (addr + 4 * k) % 2 ^ 32
  | .global => (addr + 4 * k) % 2 ^ 64

/-- Is a shared byte address valid for a group (R137)? -/
def State.sharedOk (s : State) (g : Group) (addr : Nat) : Bool :=
  match s.teamOf? g.key with
  | none => false
  | some t =>
    match s.grid? t.key.ctx t.key.grid with
    | none => false
    | some gr => decide (addr % 2 ^ 19 < gr.rcd.shared) && (decide (addr < 2 ^ 19) || t.pair)

/-- A SUB of the traps of R138. -/
def memTrap (c : Cause) (sub addr : Nat) : Trap := ⟨c, sub, BitVec.ofNat 64 addr, .precise⟩

/-- The word of an access that a leaf entry maps (R282). -/
def accOf (pte : DWord) (pa : Nat) : Acc :=
  ⟨.global pa, pteCoh pte, pteGrain pte, pteVers pte, pteKv pte, pteOrd pte⟩

/-- Translate the words of a global access: the first failure is the access's (R138, R139); `none` is a wait for
a page table that is being moved (R287). -/
def State.locateGlobal (s : State) (g : Group) (need : Need) (addr : Nat) : List Nat → State × Except (Option Trap) (List Acc)
  | [] => (s, .ok [])
  | k :: r =>
    match s.translate g.tlbUnit g.ctx need (wordAddr .global addr k) with
    | (s, .wait) => (s, .error none)
    | (s, .page e) => (s, .error (some (memTrap .page e addr)))
    | (s, .prot) => (s, .error (some (memTrap .prot 2 addr)))
    | (s, .ok pte pa) =>
      match State.locateGlobal s g need addr r with
      | (s, .error e) => (s, .error e)
      | (s, .ok l) => (s, .ok (accOf pte pa :: l))

/-- Checks 2 and 3 of R138 on an aligned access of `n` words: its words. -/
def State.locate (s : State) (g : Group) (sp : Space) (need : Need) (addr n : Nat) : State × Except (Option Trap) (List Acc) :=
  let ws := (List.range n).map (wordAddr sp addr)
  let bad : State × Except (Option Trap) (List Acc) := (s, .error (some (memTrap .prot 1 addr)))
  match sp with
  | .shared =>
    match g.key.team with
    | some t => if ws.all (s.sharedOk g) then (s, .ok (ws.map (fun a => { loc := .shared t (sharedKey g.upper a) }))) else bad
    | none => bad
  | .tile => if !g.key.isQueue && ws.all (s.tileAllocated g.ctx) then (s, .ok (ws.map (fun a => { loc := .tile a }))) else bad
  | .param => if ws.all (fun a => decide (a < 4096)) then (s, .ok []) else bad
  | .global => if ws.all (fun a => decide (a < 2 ^ 56)) then s.locateGlobal g need addr (List.range n) else bad

/-- Is a tile word in an allocation of a team of the version or of a descendant (R143, R298, R305)? -/
def State.tileOfSubtree (s : State) (ctx : Nat) (v : Tag16) (word : Nat) : Bool :=
  s.teams.any (fun t => decide (t.key.ctx = ctx) && decide (t.tileBase ≤ word) && decide (word < t.tileBase + t.tileWords) &&
    (match s.grid? t.key.ctx t.key.grid with | some g => s.descends ctx g.rcd.vtag v | none => false))

/-- Check 4: the SUB of SPECSTORE for one word written by a version other than 0 (R143, R356). -/
def State.specSub (s : State) (ctx : Nat) (v : Tag16) (a : Acc) : Option Nat :=
  match a.loc with
  | .shared _ _ => none
  | .tile w => if s.tileOfSubtree ctx v w then none else some 2
  | .global pa =>
    if !a.versioned then some 1
    else if isPeer pa && !s.peerExt (peerOf pa) then some 3
    else none

/-! The scope checker. -/

/-- Is a party in the instance of a scope that another party stands in (R249, R259)? -/
def inScope (sc : Scope) (x p : GKey) : Bool :=
  match sc with
  | .grp => decide (x = p)
  | .team => (match x.team, p.team with | some a, some b => decide (a = b) | _, _ => decide (x = p))
  | .grid =>
    (match x.team, p.team with
     | some a, some b => decide (a.ctx = b.ctx) && decide (a.grid = b.grid)
     | _, _ => decide (x = p))
  | .dev | .sys => true

/-- Has the instance of a scope that a party stood in ended (R259)? -/
def State.scopeEnded (s : State) (sc : Scope) (p : GKey) : Bool :=
  match sc, p with
  | .dev, _ | .sys, _ => false
  | _, .queue _ => (s.anyGroup? p).isNone
  | .grp, _ => (match s.anyGroup? p with | some g => g.threads.all Thread.exited | none => true)
  | .team, .kernel c g t _ => !s.teams.any (fun x => decide (x.key = ⟨c, g, t⟩) && decide (x.phase ≠ .retired))
  | .grid, .kernel c g _ _ => (match s.grid? c g with | some x => x.done.isSome | none => true)

/-- The check of one synchronisation access at a line: the SUB of a SCOPE trap, or the state with the record
(R258, R259). -/
def State.scopeCheck (s : State) (k : GKey) (sc : Scope) (line : Nat) : Except Nat State :=
  let put : State :=
    let here := s.scopes.filter (fun r => decide (r.line ≠ line) && decide (sliceOf r.line = sliceOf line))
    let rest := s.scopes.filter (fun r => decide (sliceOf r.line ≠ sliceOf line))
    { s with scopes := ⟨line, sc, ⟨k⟩⟩ :: here.take 511 ++ rest }
  match s.scopes.find? (fun r => decide (r.line = line)) with
  | none => .ok put
  | some r =>
    if s.scopeEnded r.scope r.party.key then .ok put
    else
      let mine := !inScope sc k r.party.key
      let theirs := !inScope r.scope r.party.key k
      if mine && theirs then .error 3 else if mine then .error 1 else if theirs then .error 2 else .ok put

/-- Is a word on a device-homed line, which the scope checker and the lock slices serve? -/
def deviceHomed (pa : Nat) : Bool := decide (pa < peerBit)

/-- The check at each line of an access: a record moves only when every line passes. -/
def State.scopeChecks (s : State) (k : GKey) (sc : Scope) : List Nat → Except Nat State
  | [] => .ok s
  | l :: r =>
    match s.scopeCheck k sc l with
    | .ok s => State.scopeChecks s k sc r
    | .error e => .error e

/-- The device-homed lines of an access's words. -/
def State.deviceLines (s : State) (ws : List Acc) : List Nat :=
  (ws.filterMap (fun a => match a.loc with
    | .global pa => if deviceHomed (s.fwd pa) then some (lineOf (s.fwd pa)) else none
    | _ => none)).eraseDups

/-! Versions. -/

/-- Is a version the oldest live one of its context (R293)? -/
def State.oldest (s : State) (ctx : Nat) (v : Tag16) : Bool :=
  match s.ctx? ctx with
  | none => false
  | some c =>
    match c.ver? v with
    | none => false
    | some x => c.vers.all (fun y => !decide (y.st = .live) || decide (x.age ≤ y.age))

/-- The line copies that a version's write needs (R277, R297), where the migration of a page has put them. -/
def State.copyLines (s : State) (ws : List Acc) : List Nat :=
  ws.flatMap (fun a => match a.loc with
    | .global pa => if a.versioned then (unitLines a.kvpage pa).map s.fwd else []
    | _ => [])

/-! Issue. -/

/-- What an instruction asks of memory. -/
structure MemOp where
  sp : Space
  n : Nat := 1
  need : Need := .rd
  /-- it stores or is an atomic -/
  write : Bool := false
  acq : Bool := false
  rel : Bool := false
  scope : Scope := .dev
  /-- examined by the scope checker when global -/
  sync : Bool := false
  stream : Nat := 0
  pol : Nat := 0
  /-- it writes only if its comparison holds, so that D is set then (R284) -/
  cas : Bool := false
  /-- it closes an idempotent region -/
  closes : Bool := false
  deriving DecidableEq, Repr

/-- The checks of R138 for one lane: the words, or a trap, or `none` for a wait. -/
def State.checkMem (s : State) (g : Group) (m : MemOp) (addr : Nat) : State × Except (Option Trap) (List Acc) :=
  if m.sp ≠ .tile ∧ addr % 4 ≠ 0 then (s, .error (some (memTrap .align 1 addr)))
  else
    match s.locate g m.sp m.need addr m.n with
    | (s, .error e) => (s, .error e)
    | (s, .ok ws) =>
      match if m.write && g.vid != 0 then ws.findSome? (s.specSub g.ctx g.vid) else none with
      | some sub => (s, .error (some (memTrap .specstore sub addr)))
      | none =>
        match s.scopeChecks g.key m.scope (if m.sync then s.deviceLines ws else []) with
        | .ok s => (s, .ok ws)
        | .error sub => (s, .error (some (memTrap .scope sub addr)))

/-- The line copies of a version's write: reserved, a VERSION trap, or a stall (R278, R306). -/
inductive Copies where
  | ok (s : State)
  | trap
  | stall

/-- Reserve the copies of a write. -/
def State.copiesFor (s : State) (g : Group) (write : Bool) (pol : Nat) (ws : List Acc) : Copies :=
  if !write || g.vid == 0 then .ok s
  else
    match s.reserveAll none g.ctx g.vid pol (s.copyLines ws) with
    | some s => .ok s
    | none => if s.oldest g.ctx g.vid then .trap else .stall

/-- An operation joins the outstanding ones (R59, R250). -/
def State.push (s : State) (p : Pend) : State := { s with pends := s.pends ++ [p], next := s.next + 1 }

/-- The thread after its access has issued: `lat` is owed by the operation if it writes a destination
that counts as a result (R14). -/
def Thread.issued (t : Thread) (id : Nat) (dests : List (Sel × Tag)) (closes : Bool) : Thread :=
  let t := match dests with
    | (d, _) :: _ => if d.toNat ≤ 0xF8 then { t with latOwner := some id } else t
    | [] => t
  (if closes then t.close else t).advance

/-- The peer that serves a word, if one does (R348). -/
def Acc.peer (a : Acc) : Option Nat :=
  match a.loc with
  | .global pa => if isPeer pa then some (peerOf pa) else none
  | _ => none

/-- Is an access of `n` words aligned to its own size (R139)? -/
def wholeAccess (sp : Space) (addr n : Nat) : Bool :=
  match sp with
  | .tile => decide (addr % n = 0)
  | .shared | .global | .param => decide (addr % (4 * n) = 0)

/-- The parts of an access: the whole of one that is aligned to its own size, or else each word, which is atomic on
its own and follows the rows of its own page (R139, R252, R253). Words carry their index. -/
def accParts (whole : Bool) (ws : List (Nat × Acc)) : List (List (Nat × Acc)) := if whole then [ws] else ws.map (fun x => [x])

/-- What an access does with some of its words: the kind and the destinations. -/
abbrev PartOf := View → List (Nat × Acc) → PendKind × List (Sel × Tag)

/-- One part of an access joins the outstanding operations. -/
def State.pushPart (s : State) (m : MemOp) (v : View) (batch addr : Nat) (part : PartOf) (ws : List (Nat × Acc)) : State :=
  let a := (ws.headD (0, { loc := .tile 0 })).2
  let g := v.g
  s.push {
    id := s.next, key := g.key, tid := v.t.tid, pc := v.t.seqPc, kind := (part v ws).1, dests := (part v ws).2, stream := m.stream,
    acq := m.acq, rel := m.rel, scope := m.scope, ord := a.ord, pol := m.pol, ctx := g.ctx, vtag := g.vid, core := g.core, upper := g.upper,
    va := BitVec.ofNat 64 addr, batch := batch, peer := a.peer }

/-- An access of one lane: checked, then outstanding. D is set before a write that is sure to be made (R284); a
VERSION trap leaves the scope records as they were (R259). -/
def memLane (m : MemOp) (batch : Nat) (a : Sel) (part : PartOf) (g : Group) (t : Thread) (s : State) : State × List Due :=
  let v : View := ⟨g, t⟩
  let addr := v.address m.sp a
  match s.checkMem g m addr with
  | (s', .error none) => (s', [])
  | (s', .error (some e)) => laneTrap g t e s'
  | (s', .ok ws) =>
    match s'.copiesFor g m.write m.pol ws with
    | .trap => laneTrap g t (memTrap .version 1 addr) { s' with scopes := s.scopes }
    | .stall => (s, [])
    | .ok s2 =>
      let vas := if m.write && !m.cas && decide (m.sp = .global) then (List.range m.n).map (wordAddr .global addr) else []
      match s2.markAll g.tlbUnit g.ctx vas with
      | (s3, false) => ({ s3 with scopes := s.scopes }, [])
      | (s3, true) =>
        let id := s3.next
        let parts := accParts (wholeAccess m.sp addr m.n) (ws.mapIdx (fun k a => (k, a)))
        let s4 := parts.foldl (fun s p => s.pushPart m v batch addr part p) s3
        (s4.modThread g.key t.tid (fun t => t.issued id (part v (parts.headD [])).2 m.closes), [])

/-- Tag of an address operand as its space reads it, for the check and for TRAPVAL (R19). -/
def View.addrTagOf (v : View) (sp : Space) (a : Sel) : Tag := if sp = .global then v.pairTag addrTag a else v.tag a

/-- Are all data registers of a set other than VOID? -/
def View.dataOk (v : View) (n : Nat) (d : Sel) : Bool := (List.range n).all (fun k => (v.regAt d k).tag != .void)

/-- The tag check of an access: the address, and `n` data registers at d if it reads them (R19, R141). -/
def memTags (sp : Space) (a : Sel) (data : Option (Nat × Sel)) (v : View) : Option Trap :=
  let aT := v.addrTagOf sp a
  let dOk := match data with | some (n, d) => v.dataOk n d | none => true
  if addrTag aT && dOk then none
  else some (Machine.tagTrap 15 (some aT) none (data.map (fun p => v.setTag p.1 p.2)))

/-- Scope of an access: HORD's, or the space's own (R142, R145). -/
def View.scope (v : View) (sp : Space) : Scope :=
  match v.t.hints.ord with
  | some (_, _, sc) => sc
  | none => if sp = .shared then .team else .dev

/-- Order bits of HORD (R72): acquire and release. -/
def View.order (v : View) : Bool × Bool :=
  match v.t.hints.ord with
  | some (_, u, _) => (u.getLsbD 0, u.getLsbD 1)
  | none => (false, false)

/-- A load's part: words go to consecutive registers, under one tag (R140). -/
def loadPart (d : Sel) (tag : Tag) : PartOf := fun _ ws =>
  (.load (ws.map Prod.snd), ws.map (fun x => (d + BitVec.ofNat 8 x.1, tag)))

/-- HPOL's policy, or NORM (R72, R276). -/
def View.pol (v : View) : Nat := ((v.t.hints.pol.getD 0#2).toNat)

/-- A load of class 0x8 but LDP, LDSE and LDSC (R140); `acq` for LDGA and LDTA. -/
def loadOp (i : Instr) (sp : Space) (n : Nat) (acq : Bool) (d a : Sel) (st t : BitVec 4) (s : State) : Host.Outcome State Fault Refusal :=
  issueChecked i s (memTags sp a none) noUniform (fun g ts s =>
    let batch := s.next
    eachLane g.key (fun g th s =>
      let v : View := ⟨g, th⟩
      let acq := acq || v.order.1
      memLane { sp := sp, n := n, need := .rd, acq := acq, scope := v.scope sp, sync := acq && decide (sp = .global), stream := st.toNat, pol := v.pol }
        batch a (loadPart d (tagOf t)) g th s) (ts.map Thread.tid) s)

/-- A store's part: registers from d on (R141), and the granule that STSF sets full. -/
def storePart (d : Sel) (full : Option Nat) : PartOf := fun v ws => (.store (ws.map (fun x => (x.2, (v.regAt d x.1).val))) full, [])

/-- A store of class 0x9 (R141); `rel` for STGR and STTR, `full` for STSF. -/
def storeOp (i : Instr) (sp : Space) (n : Nat) (rel full : Bool) (d a : Sel) (st : BitVec 4) (pol : BitVec 2) (s : State) : Host.Outcome State Fault Refusal :=
  issueChecked i s (memTags sp a (some (n, d))) noUniform (fun g ts s =>
    let batch := s.next
    eachLane g.key (fun g th s =>
      let v : View := ⟨g, th⟩
      let rel := rel || v.order.2
      memLane { sp := sp, n := n, need := .wr, write := true, rel := rel, scope := v.scope sp, sync := rel && decide (sp = .global), stream := st.toNat, pol := pol.toNat }
        batch a (storePart d (if full then some (sharedKey g.upper (v.address .shared a) / 16) else none)) g th s)
      (ts.map Thread.tid) s)

/-- The tag check of an atomic: d must carry a tag the operation accepts (R145). -/
def atomicTags (sp : Space) (op : AOp) (d a : Sel) (v : View) : Option Trap :=
  let aT := v.addrTagOf sp a
  if addrTag aT && aopTag op (v.tag d) then none else some (Machine.tagTrap 15 (some aT) none (some (v.tag d)))

/-- The word of an access of one word. -/
def partWord (ws : List (Nat × Acc)) : Acc := (ws.headD (0, { loc := .tile 0 })).2

/-- ATG, ATGR, ATS, ATSR (R145): with a result, the old word goes to d with the tag d had. -/
def atomicOp (i : Instr) (sp : Space) (ret : Bool) (d a : Sel) (st : BitVec 4) (op : AOp) (s : State) : Host.Outcome State Fault Refusal :=
  issueChecked i s (atomicTags sp op d a) noUniform (fun g ts s =>
    let batch := s.next
    eachLane g.key (fun g th s =>
      let v : View := ⟨g, th⟩
      memLane { sp := sp, need := .rw, write := true, acq := v.order.1, rel := v.order.2, scope := v.scope sp, sync := decide (sp = .global), stream := st.toNat, pol := v.pol, closes := true }
        batch a (fun v ws => (.atomic (partWord ws) op (v.tag d) (v.val d) ret, if ret then [(d, v.tag d)] else [])) g th s)
      (ts.map Thread.tid) s)

/-- CASG, CASS (R148). -/
def casOp (i : Instr) (sp : Space) (d a : Sel) (st : BitVec 4) (s : State) : Host.Outcome State Fault Refusal :=
  issueChecked i s (memTags sp a (some (2, d))) noUniform (fun g ts s =>
    let batch := s.next
    eachLane g.key (fun g th s =>
      let v : View := ⟨g, th⟩
      let failAcq := match th.hints.ord with | some (f, _, _) => f | none => false
      memLane { sp := sp, need := .rw, write := true, acq := v.order.1, rel := v.order.2, scope := v.scope sp, sync := decide (sp = .global), stream := st.toNat, pol := v.pol, cas := true, closes := true }
        batch a (fun v ws => (.cas (partWord ws) (v.regAt d 0).val (v.regAt d 1).val failAcq, [(d, v.tag d), (d + 1, .pred)])) g th s)
      (ts.map Thread.tid) s)

end Sys2Proof.Machine
end

