-- ==== Sys2Proof/Machine/Perform.lean ====
section
/-! DEFINITION. How outstanding accesses are performed (R247, R250 to R253): the order each must
keep, the effect at its serialisation point, the results, full bits (R144, R255) and fences. -/

namespace Sys2Proof.Machine

/-- The words an access names. -/
def Pend.accs (p : Pend) : List Acc :=
  match p.kind with
  | .load ws => ws
  | .store ws _ => ws.map Prod.fst
  | .atomic a _ _ _ _ | .cas a _ _ _ | .lock _ a _ _ => [a]
  | .fence _ | .engine _ _ _ => []

/-- A location, past the forwarding of a migrating page (R287). -/
def State.locOf (s : State) (a : Acc) : Loc :=
  match a.loc with
  | .global pa => .global (s.fwd pa)
  | l => l

/-- Do two accesses share a word? -/
def State.overlap (s : State) (p q : Pend) : Bool :=
  p.accs.any (fun a => q.accs.any (fun b => decide (s.locOf a = s.locOf b)))

/-- Does a fence stand between two accesses of its thread and cover both (R160, R161, R251 row 5)? -/
def Pend.fences (f q p : Pend) : Bool :=
  match f.kind with
  | .fence mask =>
    decide (q.id < f.id) && decide (f.id < p.id) && mask.getLsbD q.stream && mask.getLsbD p.stream &&
      ((q.peer.isNone && p.peer.isNone) || decide (f.scope = .sys))
  | _ => false


/-- Does the access have acquire order: its own, or that of a CAS should it fail (R148, R251)? -/
def Pend.acquires (p : Pend) : Bool :=
  p.acq || (match p.kind with | .cas _ _ _ failAcq => failAcq | _ => false)

/-- Rows 1 to 4 of R251, with R252 for peers; `q` is the earlier access. -/
def Pend.rows (q p : Pend) : Bool :=
  if q.peer.isNone && p.peer.isNone then
    decide (q.ord = .so) || decide (p.ord = .so) || (decide (q.ord = .rc) && decide (p.ord = .rc) && decide (q.stream = p.stream)) || q.acquires || p.rel
  else (q.acquires && decide (q.scope = .sys)) || (p.rel && decide (p.scope = .sys))

/-- Must a lock instruction `p` wait for an operation `q` that one of its participants has issued before it: an access
that is ordered before it (R251), every access for the release of LUNLK (R154), a fence that covers it (R160, R161),
another lock instruction? -/
def Pend.beforeLock (q p : Pend) : Bool :=
  match q.kind with
  | .fence mask => mask.getLsbD p.stream
  | .lock _ _ _ _ => true
  | _ => q.access && (p.rel || q.rows p)

/-- Must the earlier access `q` of one thread be performed before `p` (R247, R251)? -/
def State.orderedBefore (s : State) (q p : Pend) : Bool :=
  q.access && (s.overlap q p || q.rows p || s.pends.any (fun f => decide (f.key = p.key) && decide (f.tid = p.tid) && f.fences q p))

/-- Is the operation a fence? -/
def Pend.isFence (p : Pend) : Bool :=
  match p.kind with
  | .fence _ => true
  | _ => false

/-- Has everything that must come before an operation been performed? Lanes of one issue group take
their places at one word in lane order (R147, R267). A command comes after the fences of its thread (R160), and one with a release
flag after its thread's earlier accesses (R167, R254). A lock instruction keeps the order of all its participants. -/
def State.inOrder (s : State) (p : Pend) : Bool :=
  s.pends.all (fun q =>
    !decide (q.id < p.id) || !decide (q.key = p.key) ||
    (match p.kind with
     | .engine _ _ _ => !(decide (p.tid ∈ q.tids) && ((p.rel && q.access) || q.isFence))
     | .lock _ _ parts _ => !(parts.any (fun t => decide (t ∈ q.tids)) && q.beforeLock p)
     | _ =>
       if p.tid ∈ q.tids then !s.orderedBefore q p
       else !(q.access && decide (q.batch = p.batch) && s.overlap q p)))

/-- Is the access a write at its serialisation point? -/
def Pend.writes (p : Pend) : Bool :=
  match p.kind with
  | .store _ _ | .atomic _ _ _ _ _ | .cas _ _ _ _ => true
  | _ => false

/-- Is it a read-modify-write? -/
def Pend.rmw (p : Pend) : Bool :=
  match p.kind with
  | .atomic _ _ _ _ _ | .cas _ _ _ _ | .lock _ _ _ _ => true
  | _ => false

/-- Who performs an access, with its cache policy. -/
def Pend.who (p : Pend) : Who := { p.group.who with pol := p.pol, key := some (p.key, p.tid) }

/-- Is a line one that a migration has still to move, or is a transaction on it in progress (R287, R342)? -/
def State.lineHeld (s : State) (pa : Nat) : Bool := s.lineWaits pa || s.coh.busy (lineOf (s.fwd pa))

/-- Can a word be accessed now, or its failure be found? A lock instruction needs its line free at the home slice. -/
def State.accMoves (s : State) (p : Pend) (a : Acc) : Bool :=
  match p.kind, a.loc with
  | .lock _ _ _ _, .global pa => !s.lineHeld pa
  | _, _ => s.accPortDown a || s.accReady p.who a p.writes p.rmw

/-- May an access be performed now? -/
def State.mayPerform (s : State) (p : Pend) : Bool := s.inOrder p && p.accs.all (s.accMoves p)

/-- Does an access only load words of shared memory? -/
def Pend.sharedLoad (p : Pend) : Bool :=
  match p.kind with
  | .load ws => ws.all (fun a => match a.loc with | .shared _ _ => true | _ => false)
  | _ => false

/-- The lanes of one issue group's shared load that a bank read serves together, because they read the same word
or share words in turn (R267). -/
def State.mates (s : State) (p : Pend) : List Pend :=
  if !p.sharedLoad then [p]
  else
    let all := s.pends.filter (fun q => q.sharedLoad && decide (q.key = p.key) && decide (q.batch = p.batch))
    (List.range all.length).foldl (fun set _ => all.filter (fun q => set.any (fun r => s.overlap q r))) [p]

/-- The open notice that a version's first store to a peer waits for (R299). -/
def State.needsOpen (s : State) (p : Pend) : Option (Nat × Nat × Tag16) :=
  match p.peer with
  | some n => if s.peerKnown n && p.writes && p.vtag != 0 && !decide ((n, p.ctx, p.vtag) ∈ s.peer.openAcked) then some (n, p.ctx, p.vtag) else none
  | none => none

/-- Send the open notice, once, and put the peer in the version's peer set (R299). -/
def State.sendOpen (s : State) (x : Nat × Nat × Tag16) : State :=
  if x ∈ s.peer.openSent then s
  else
    { s.modCtx x.2.1 (fun c => { c with vers := c.vers.map (fun v =>
        if v.tag = x.2.2 ∧ x.1 ∉ v.peers then { v with peers := v.peers ++ [x.1] } else v) }) with
      peer := { s.peer with openSent := s.peer.openSent ++ [x] } }

/-! Results. -/

/-- Does the operation answer with a value? -/
def Pend.returns (p : Pend) : Bool :=
  match p.kind with
  | .load _ | .cas _ _ _ _ | .lock _ _ _ _ => true
  | .atomic _ _ _ _ ret => ret
  | _ => false

/-- Results that arrive late, first to d and `lat` and then to the rest of the set (R14, R140). -/
def Thread.lateAll (t : Thread) (id : Nat) : List (Sel × Reg) → Thread
  | [] => t
  | (d, r) :: rest => rest.foldl (fun t x => t.resultMore x.1 x.2) (t.late id d r)

/-- Deliver the values of an operation to its destinations. -/
def State.deliver (s : State) (p : Pend) (vals : List Word) : State :=
  s.modThread p.key p.tid (fun t => t.lateAll p.id (p.dests.zip vals |>.map (fun x => (x.1.1, ⟨x.2, x.1.2⟩))))

/-- The registers that hold an operation's result in its thread: its destinations, and `lat` while it
owes it. -/
def Thread.resultRegs (t : Thread) (p : Pend) : List Nat :=
  (p.dests.map (fun d => d.1.toNat)).filter (fun n => decide (n < 0xF8)) ++ (if t.latOwner = some p.id then [0xF8] else [])

/-- An access failed: its destinations become 0 and VOID (R355, R357). -/
def Thread.failed (t : Thread) (p : Pend) : Thread := t.lateAll p.id (p.dests.map (fun d => (d.1, Reg.void)))

/-- The trap of an access that fails after its thread has exited is named in a fault record, since no instruction is
left to take it (R359, DESIGN CHOICE, log entry 119). -/
def State.failGone (s : State) (p : Pend) (tr : Trap) : State :=
  if !(match s.thread? p.key p.tid with | some t => t.exited | none => true) then s
  else s.faultLog p.ctx (p.group.trapRec 1 tr p.pc tr.word)

/-- The failure is reported by an attributed trap, held against the registers (R355). An operation without a
result has no register to hold it against: its trap is taken before the thread's next instruction (R359, log entry 93). -/
def State.failAttr (s : State) (p : Pend) (sub : Nat) : State :=
  (s.failGone p ⟨.ecc, sub, p.va, .attributed⟩).modThread p.key p.tid (fun t =>
    let u := t.failed p
    let regs := t.resultRegs p
    if (regs.isEmpty && p.returns) || u.exited then u else { u with attr := u.attr ++ [⟨⟨.ecc, sub, p.va, .attributed⟩, p.pc, regs, !p.returns, 0⟩] })

/-- The failure is reported at the thread's next instruction boundary (R355). -/
def State.failReport (s : State) (p : Pend) (sub : Nat) : State :=
  (s.failGone p ⟨.ecc, sub, p.va, .reported⟩).modThread p.key p.tid (fun t =>
    let u := t.failed p
    if u.exited then u else { u with reported := u.reported ++ [⟨.ecc, sub, p.va, .reported⟩] })

/-- Is it a store? -/
def Pend.isStore (p : Pend) : Bool :=
  match p.kind with
  | .store _ _ => true
  | _ => false

/-- A peer refuses an access or does not answer (R349): an attributed trap for a load, an atomic or a CAS, or a
fault record for a store. -/
def State.failPeer (s : State) (p : Pend) (peer : Nat) : State :=
  if !p.isStore then s.failAttr p 5
  else s.faultLog p.ctx { p.group.faultRec 5 with value := p.va, extra := BitVec.ofNat 64 peer }

/-- Is the peer that an access goes to out of reach: is every port to it down (R349)? -/
def State.peerGone (s : State) (p : Pend) : Option Nat :=
  match p.peer with
  | some n => if s.peerKnown n then none else some n
  | none => none

/-! Full bits. -/

/-- Is the full bit of a granule set (R144)? -/
def State.isFull (s : State) (t : TKey) (granule : Nat) : Bool :=
  match s.team? t with
  | some x => Store.get false x.full granule
  | none => false

/-- Set or clear it. -/
def State.setFull (s : State) (t : TKey) (granule : Nat) (b : Bool) : State :=
  s.modTeam t (fun x => { x with full := Store.set false x.full granule b })

/-- Is a word of shared memory poisoned (R357, R358)? -/
def State.sharedPoison (s : State) (t : TKey) (addr : Nat) : Bool :=
  match s.team? t with
  | some x => decide (addr / 8 ∈ x.poison)
  | none => false

/-- The result of a load of shared memory: a poisoned word gives 0 with tag VOID and an attributed trap, held
against the registers of the result (R355, R357). -/
def Thread.bankResult (t : Thread) (w : BankWait) (v : Word) (bad : Bool) : Thread :=
  if bad then
    let u := t.result w.dst Reg.void
    let regs := (if w.dst.toNat < 0xF8 then [w.dst.toNat] else []) ++ (if w.dst.toNat ≤ 0xF8 then [0xF8] else [])
    { u with attr := u.attr ++ (if regs.isEmpty then [] else [⟨⟨.ecc, 3, BitVec.ofNat 64 (w.addr % 2 ^ 20), .attributed⟩, t.seqPc, regs, false, 0⟩]) }
  else t.result w.dst ⟨v, w.tag⟩

/-- A served LDSE or LDSC ends in its thread (R144), with the acquire HORD gave it. -/
def State.bankGive (s : State) (t : TKey) (w : BankWait) : State :=
  let v := s.readShared t w.addr
  let bad := s.sharedPoison t w.addr
  let s := s.modTeam t (fun x => { x with bankQ := x.bankQ.filter (fun y => !(decide (y.key = w.key) && decide (y.tid = w.tid))) })
  let s := if w.clear then s.setFull t w.granule false else s
  let s := match s.group? w.key, s.thread? w.key w.tid with
    | some g, some th => if (View.order ⟨g, th⟩).1 then s.acquireL1 g (View.scope ⟨g, th⟩ .shared) else s
    | _, _ => s
  s.modThread w.key w.tid (fun th =>
    { (th.bankResult w v bad).advance with block := none, regionOpen := th.regionOpen && !w.clear })

/-- Serve the requests waiting on a granule, in order, while its bit is set (R144). -/
def State.bankServe : Nat → State → TKey → Nat → State
  | 0, s, _, _ => s
  | n + 1, s, t, granule =>
    if s.isFull t granule then
      match (s.team? t).bind (fun x => x.bankQ.find? (fun w => decide (w.granule = granule))) with
      | some w => State.bankServe n (s.bankGive t w) t granule
      | none => s
    else s

/-- Set a full bit and serve its waiters. -/
def State.fill (s : State) (t : TKey) (granule : Nat) : State :=
  let s := s.setFull t granule true
  s.bankServe ((match s.team? t with | some x => x.bankQ.length | none => 0) + 1) t granule

/-! Fences. -/

/-- A fence with no covered access before it takes effect: it releases and acquires at its scope (R160,
R161, R339). Accesses to peers count only at scope SYS (R252). -/
def State.retireFences (s : State) : State :=
  (s.pends.filter (fun f => match f.kind with | .fence _ => true | _ => false)).foldl (fun s f =>
    match f.kind with
    | .fence mask =>
      if s.pends.any (fun q => q.access && decide (q.key = f.key) && decide (f.tid ∈ q.tids) && decide (q.id < f.id) && mask.getLsbD q.stream &&
          (q.peer.isNone || decide (f.scope = .sys))) then s
      else
        let s := { s with pends := s.pends.filter (fun q => decide (q.id ≠ f.id)) }
        (s.releaseL1 f.group f.scope).acquireL1 f.group f.scope
    | _ => s) s

/-! Performing. -/

/-- The base die of a group (R1). -/
def Group.baseDie (g : Group) : Nat := if g.key.isQueue then g.core / 4 else dieOf g.core / 4

/-- Is an atomic a reduction on binary32 data? -/
def reduces (op : AOp) (tag : Tag) : Bool := decide (tag = .flt) && (op == .add || op == .min || op == .max)

/-- The operand of a reduction on binary32 data as it reaches the slice: over the hop between the base dies, or over
a port to a peer (R57). -/
def State.carried (s : State) (p : Pend) (a : Acc) (op : AOp) (tag : Tag) (x : Word) : Word :=
  match a.loc, reduces op tag with
  | .global pa, true =>
    let at_ := s.fwd pa
    if isPeer at_ then (match s.peerPort at_ (p.vtag != 0) with | some port => overLink port.feats x | none => x)
    else if p.group.baseDie = baseDie at_ then x else overLink (nth s.dev.hops 8 []) x
  | _, _ => x

/-- Before an access's words are looked at: a release takes effect, and what a read-modify-write or an access to an SO
page finds in the L1 goes home, with its marks (R251 row 1, R337, R339, R357). -/
def State.beforeAccess (s : State) (p : Pend) : State :=
  let s := if p.rel then s.releaseL1 p.group p.scope else s
  let s := if p.acq && !p.rmw && p.returns then s.acquireL1 p.group p.scope else s
  p.accs.foldl (fun s a => s.beforeHome p.who a p.rmw) s

/-- A CAS whose page's D bit could not be set: the walk is made again, and the CAS with it (R284). A fault of that
walk is reported (DESIGN CHOICE, log entry 118). -/
def State.casAgain (s : State) (p : Pend) (c n : Word) (failAcq : Bool) : State :=
  let fail := fun (s : State) (cause : Cause) (sub : Nat) => (s.failGone p ⟨cause, sub, p.va, .reported⟩).modThread p.key p.tid (fun t =>
    let u := t.failed p
    if u.exited then u else { u with reported := u.reported ++ [⟨cause, sub, p.va, .reported⟩] })
  match s.translate p.group.tlbUnit p.ctx .rw p.va.toNat with
  | (s, .ok pte pa) => { s with pends := s.pends ++ [{ p with kind := .cas (accOf pte pa) c n failAcq }] }
  | (s, .wait) => { s with pends := s.pends ++ [p] }
  | (s, .page e) => fail s .page e
  | (s, .prot) => fail s .prot 2

/-- The D bit of the page that an atomic's word lies in (R284); other spaces have none. -/
def State.accDirty (s : State) (p : Pend) (a : Acc) : State × Bool :=
  match a.loc with
  | .global _ => s.markDirty p.group.tlbUnit p.ctx p.va.toNat
  | _ => (s, true)

/-- An access takes effect at its serialisation point (R247), and its results are delivered. An access to an SO
page reaches every party, so that the L1's SELF lines are written through and invalidated first (R251 row 1). -/
def State.performKind (s : State) (p : Pend) : State :=
  let g := p.group
  let w := p.who
  let s := if p.ord = .so then s.outwardAcquire g.l1 else s
  match s.peerGone p with
  | some n => s.failPeer p n
  | none =>
  if p.accs.any s.accPortDown then s.failReport p 4
  else if p.accs.any s.accLost then s.failReport p 6
  else
  let s := s.beforeAccess p
  if !p.isStore && p.accs.any (fun a => s.accPoison w a p.rmw) then s.failAttr p 3
  else
    match p.kind with
    | .load ws =>
      let (s, vals) := s.readAll w ws
      s.deliver p vals
    | .store ws full =>
      let s := (s.writeAll w ws).cleanAccs w (ws.map Prod.fst)
      let s := if p.rel then s.releaseL1 g p.scope else s
      (match full, p.key.team with
       | some gr, some t => s.fill t gr
       | _, _ => s)
    | .atomic a op tag x ret =>
      let (s, m) := s.rmwRead w a
      let s := s.rmwWrite w a (aopApply op tag m (s.carried p a op tag x))
      let s := if p.acq then s.acquireL1 g p.scope else s
      if ret then s.deliver p [m] else s
    | .cas a c n failAcq =>
      let (s, m) := s.rmwRead w a
      if m = c then
        match s.accDirty p a with
        | (s, false) => s.casAgain p c n failAcq
        | (s, true) =>
          let s := s.rmwWrite w a n
          (if p.acq then s.acquireL1 g p.scope else s).deliver p [m, 1]
      else (if failAcq then s.acquireL1 g p.scope else s).deliver p [m, 0]
    | .fence _ | .engine _ _ _ | .lock _ _ _ _ => s

/-! Lock instructions that have waited (R149, R154). -/

/-- A lock instruction that has waited ends in a thread: STAT in d, and in `lat` while it owes it (R14, R149). -/
def Thread.lockLate (t : Thread) (id : Nat) (d : Sel) (w : Word) : Thread := t.late id d ⟨w, .stat⟩

/-- The STAT of a lock instruction that has waited. -/
def State.lockLate (s : State) (k : GKey) (id : Nat) (ws : List (Nat × Sel)) (line code : Nat) : State :=
  let det := if code = 7 ∨ code = 2 then 0 else s.lockDetail line 0
  ws.foldl (fun s w => s.modThread k w.1 (fun t => t.lockLate id w.2 (stat code det))) s

/-- A lock instruction that has waited reaches the home slice of its line (R149, R153, R154). A group that has ended
takes no lock any more. -/
def State.lockArrive (s : State) (g : Group) (id : Nat) (i : Instr) (line : Nat) (coh : CohClass) (ws : List (Nat × Sel)) : State :=
  match i with
  | .llock d _ _ =>
    let ts := g.threads.filter (fun t => ws.any (fun w => decide (w.1 = t.tid)))
    if ts.isEmpty then s else s.llockAt g ts d line coh
  | .ltry _ _ _ =>
    if g.threads.all Thread.exited then s
    else
      let r := s.ltry g line coh
      r.1.lockLate g.key id ws line r.2
  | .lunlk _ _ _ =>
    let r := s.lunlk g line
    r.1.lockLate g.key id ws line r.2
  | _ => s.lockLate g.key id ws line (s.lstat g line)

/-- A lock instruction that has waited takes effect, after the home slice's recall of its line (R342). -/
def State.performLock (s : State) (p : Pend) (i : Instr) (a : Acc) (ws : List (Nat × Sel)) : State :=
  match a.loc with
  | .global pa => (s.recall (lineOf (s.fwd pa))).lockArrive ((s.group? p.key).getD p.group) p.id i (lineOf (s.fwd pa)) a.coh ws
  | _ => s

/-- The gang of a group that has ended may go on once the accesses that it had issued are performed (R184, R187). -/
def State.gangOn (s : State) (k : GKey) : State :=
  match s.group? k with
  | some g => if g.threads.all Thread.exited && !g.key.isQueue then State.settle (s.latch g.arrCore) else s
  | none => s

/-- An outstanding access is performed and leaves the list. -/
def State.performPend (s : State) (p : Pend) : State :=
  let s := { s with pends := s.pends.filter (fun q => decide (q.id ≠ p.id)) }
  (((match p.kind with
    | .lock i a _ ws => s.performLock p i a ws
    | _ => s.performKind p).retireFences).gangOn p.key).reap

/-- The outstanding operation of an identifier, if its kind passes a test. -/
def State.pend? (s : State) (id : Nat) (f : Pend → Bool) : Option Pend :=
  s.pends.find? (fun p => decide (p.id = id) && f p)

/-- Perform an access if its order and its line allow; a version's first store to a peer sends the open
notice and waits (R299). Otherwise nothing happens, but that a late answer is counted (R352). -/
def State.tryPerform (s : State) (id : Nat) (f : Pend → Bool) : State :=
  match s.pend? id f with
  | none => s.lateAnswer id
  | some p =>
    match s.needsOpen p with
    | some x => s.sendOpen x
    | none => if (s.mates p).all s.mayPerform then (s.mates p).foldl State.performPend s else s

/-- LOAD_COMPLETE (R140, R247): a load, CAS or atomic with a result is performed, or a lock instruction that has
waited. -/
def execLoadComplete (id : Nat) (s : State) : Host.Outcome State Fault Refusal := .next (s.tryPerform id Pend.returns)

/-- STORE_PERFORMED (R250): a store or an atomic without a result is performed. -/
def execStorePerformed (id : Nat) (s : State) : Host.Outcome State Fault Refusal :=
  .next (s.tryPerform id (fun p => p.access && !p.returns))

end Sys2Proof.Machine
end

