-- ==== Sys2Proof/Machine/Engines.lean ====
section
/-! DEFINITION. The engines: CPY, BCPY, TCPY, KVAPP and SELT (R166 to R176), and ENGINE_COMMAND_COMPLETE.
A copying command moves a piece in a step, the others are one step; failures are codes of the STAT (R168). -/

namespace Sys2Proof.Machine

/-! Operands that a command names in memory. -/

/-- Address of word `k` of a run; an engine's runs do not wrap. -/
def engAddr (sp : Space) (addr k : Nat) : Nat :=
  match sp with
  | .shared => addr % 2 ^ 20 + 4 * k
  | .tile => addr + k
  | .global | .param => addr + 4 * k

/-- Is a run misaligned for pieces of `bytes` bytes (R169)? -/
def engMisaligned (sp : Space) (addr bytes : Nat) : Bool :=
  match sp with
  | .tile => decide (addr % (bytes / 4) ≠ 0)
  | _ => decide (addr % bytes ≠ 0)

/-- Range of a run: the code of its failure, if any (R137, R150, R308). -/
def State.engRange (s : State) (g : Group) (sp : Space) (addr n : Nat) : Option Nat :=
  let ws := (List.range n).map (engAddr sp addr)
  match sp with
  | .shared => if g.key.isQueue then some 0x23 else if ws.all (fun a => decide (a < 2 ^ 20) && s.sharedOk g a) then none else some 0x24
  | .tile => if g.key.isQueue then some 0x23 else if ws.all (s.tileAllocated g.ctx) then none else some 0x24
  | .global | .param => if ws.all (fun a => decide (a < 2 ^ 56)) then none else some 0x23

/-- Translate the words of a global run (R139, R283): the code of the failure, or `none` for a wait for a page
table that is being moved (R287). -/
def State.engXlat (s : State) (g : Group) (need : Need) : List Nat → State × Except (Option Nat) (List Acc)
  | [] => (s, .ok [])
  | a :: r =>
    match s.translate g.tlbUnit g.ctx need a with
    | (s, .wait) => (s, .error none)
    | (s, .page _) => (s, .error (some 0x22))
    | (s, .prot) => (s, .error (some 0x23))
    | (s, .ok pte pa) =>
      match State.engXlat s g need r with
      | (s, .error e) => (s, .error e)
      | (s, .ok l) => (s, .ok (accOf pte pa :: l))

/-- The words of a run that is in range. -/
def State.engAccs (s : State) (g : Group) (sp : Space) (need : Need) (addr n : Nat) : State × Except (Option Nat) (List Acc) :=
  let ws := (List.range n).map (engAddr sp addr)
  match sp, g.key.team with
  | .shared, some t => (s, .ok (ws.map (fun a => { loc := .shared t (sharedKey g.upper a) })))
  | .shared, none => (s, .error (some 0x23))
  | .tile, _ => (s, .ok (ws.map (fun a => { loc := .tile a })))
  | .global, _ | .param, _ => s.engXlat g need ws

/-- What a command comes to: it waits, it waits for an open notice, it has pieces left, or it is done with a STAT. -/
inductive EngOut where
  | wait (s : State)
  | opening (x : Nat × Nat × Tag16)
  | going (s : State) (prog : EngProg)
  | done (s : State) (w : Word)

/-- The outcome of a failure: its code, or a wait. -/
def EngOut.fail (s : State) : Option Nat → EngOut
  | some c => .done s (stat c)
  | none => .wait s

/-- Who reads and writes for a command: an agent at the home slices, with the command's cache policy (R276). -/
def Pend.engine (p : Pend) : Who := { p.group.engine with pol := p.pol }

/-- Has a participant of a command's issue an earlier write outstanding to a word that it reads (R254)? -/
def State.ownBefore (s : State) (p : Pend) (src : List Acc) : Bool :=
  s.pends.any (fun q => decide (q.key = p.key) && q.tids.any (fun t => decide (t ∈ p.tid :: p.lanes)) && decide (q.id < p.id) && q.writes &&
    q.accs.any (fun a => src.any (fun b => decide (s.locOf a = s.locOf b))))

/-- Does R143 refuse a write of the group to one of the words? -/
def State.engSpec (s : State) (g : Group) (dst : List Acc) : Bool :=
  g.vid != 0 && dst.any (fun a => (s.specSub g.ctx g.vid a).isSome)

/-- The open notice that a version's write to a peer waits for (R299). -/
def State.engOpen (s : State) (g : Group) (dst : List Acc) : Option (Nat × Nat × Tag16) :=
  if g.vid == 0 then none
  else
    dst.findSome? (fun a => match a.loc with
      | .global pa => if isPeer pa && s.peerKnown (peerOf pa) && !decide ((peerOf pa, g.ctx, g.vid) ∈ s.peer.openAcked) then some (peerOf pa, g.ctx, g.vid) else none
      | _ => none)

/-- Can every word be accessed now (R287, R342, R344)? -/
def State.engReady (s : State) (w : Who) (src dst : List Acc) : Bool :=
  src.all (fun a => s.accPortDown a || s.accReady w a false false) && dst.all (fun a => s.accPortDown a || s.accReady w a true false)

/-- Physical lines of global words. -/
def State.accLines (s : State) (l : List Acc) : List Nat :=
  (l.filterMap (fun a => match a.loc with | .global pa => some (lineOf (s.fwd pa)) | _ => none)).eraseDups

/-- Is a word one of a peer that no port reaches (R349)? -/
def State.accPeerGone (s : State) (a : Acc) : Bool :=
  match a.loc with
  | .global pa => isPeer pa && !s.peerKnown (peerOf pa)
  | _ => false

/-- Had a die that failed while the command was in flight the newest data of a word in its L1 (R367)? -/
def State.accDieGone (s : State) (p : Pend) (a : Acc) : Bool :=
  match a.loc with
  | .global pa => decide (s.fwd pa / 32 ∈ p.lost)
  | _ => false

/-- The failure of a word that a command must reach: a lost die, a host port that is down, a peer that no
port reaches (R346, R349, R367). -/
def State.engGone (s : State) (p : Pend) (l : List Acc) : Option Nat :=
  if l.any (fun a => s.accLost a || s.accDieGone p a) then some 0x2D else if l.any s.accPortDown then some 0x26 else if l.any s.accPeerGone then some 0x28 else none

/-- Before a command's accesses: with a global source, every written SELF word of the issuing L1 goes to its home
slice, and the L1 keeps no copy of the lines that the command writes (R254, R339). -/
def State.engPrepare (s : State) (g : Group) (src dst : List Acc) : State :=
  let ld := s.accLines dst
  (if (s.accLines src).isEmpty then s else s.outwardRelease g.l1).dropSelf g.l1 (fun l => decide (l ∈ ld))

/-- Write words, in order; units written whole lose their marks (R357). -/
def State.engWrite (s : State) (w : Who) (l : List (Acc × Word)) : State :=
  (s.writeAll w l).cleanAccs w (l.map Prod.fst)

/-- The granules of shared memory that were written become full (R144). -/
def State.engFill (s : State) (l : List Acc) : State :=
  ((l.filterMap (fun a => match a.loc with | .shared t x => some (t, x / 16) | _ => none)).eraseDups).foldl (fun s x => s.fill x.1 x.2) s

/-- Reserve the line copies of a version's writes; `none` while a pool is full (R277, R278, R306). -/
def State.engReserve (s : State) (g : Group) (pol : Nat) (dst : List Acc) : Option State :=
  if g.vid == 0 then some s else s.reserveAll none g.ctx g.vid pol (s.copyLines dst)

/-- Read words, in order. -/
def State.engRead (s : State) (w : Who) (l : List Acc) : State × List Word := s.readAll w l

/-! Polder (R272 to R274). -/

/-- Vaults that Polder has on a die. -/
def State.polderVaults (s : State) (die : Nat) : Nat := nth s.dev.vaultSplit die 0

/-- Least recently used entry of a class in a die; the list is most recent first. -/
def polderVictim (l : List PolderEnt) (die : Nat) : Option PolderEnt :=
  match (l.filter (fun e => decide (e.die = die) && !e.shared)).getLast? with
  | some e => some e
  | none => (l.filter (fun e => decide (e.die = die))).getLast?

/-- The lowest Polder vault of a die with a place for another block: a vault holds 16,384 (R271, R272; which vault a
block takes is the model's choice, log entry 98). -/
def State.polderPlace (s : State) (die : Nat) : Option Nat :=
  (List.range 16).find? (fun v => decide (16 ≤ v + s.polderVaults die) &&
    decide ((s.mem.polder.filter (fun e => decide (e.die = die) && decide (e.vault = v))).length < 16384))

/-- The sector of a block that holds an address. -/
def polderSector (pa : Nat) : BitVec 8 := 1#8 <<< (pa % 4096 / 512)

/-- A die's entry of a block. -/
def State.polderEnt (s : State) (die pa : Nat) : Option PolderEnt :=
  s.mem.polder.find? (fun e => decide (e.die = die) && decide (e.block = pa / 4096 * 4096))

/-- Does a die's Polder hold the sector of an address? -/
def State.polderHit (s : State) (die pa : Nat) : Bool :=
  match s.polderEnt die pa with
  | some e => (e.sectors &&& polderSector pa) != 0
  | none => false

/-- An entry becomes the most recently used one. -/
def State.polderPut (s : State) (e : PolderEnt) : State :=
  { s with mem := { s.mem with polder := e :: s.mem.polder.filter (fun x => !(decide (x.die = e.die) && decide (x.block = e.block))) } }

/-- A fill of a sector, with the class that REFCNT gives (R273): into the block's entry, a free place, or the
victim's. -/
def State.polderFill (s : State) (die pa : Nat) (shared : Bool) : State :=
  match s.polderEnt die pa with
  | some e => s.polderPut { e with sectors := e.sectors ||| polderSector pa, shared := shared }
  | none =>
    match s.polderPlace die with
    | some v => s.polderPut ⟨die, v, pa / 4096 * 4096, polderSector pa, shared⟩
    | none =>
      match polderVictim s.mem.polder die with
      | some e => ({ s with mem := { s.mem with polder := s.mem.polder.filter (fun x => decide (x ≠ e)) } }).polderPut
          ⟨die, e.vault, pa / 4096 * 4096, polderSector pa, shared⟩
      | none => s

/-- Does a version's path hold a copy of a line of a block (R260, R274)? -/
def State.pathHolds (s : State) (ctx : Nat) (v : Tag16) (block : Nat) : Bool :=
  (s.viewPath ctx v).any (fun t => s.mem.copies.any (fun c => c.src.isNone && decide (c.ctx = ctx) && c.tag == t && decide (c.line / 4096 = block / 4096)))

/-- REFCNT of a header word. -/
def kvRefcnt (h0 : Word) : Nat := h0.toNat / 2 ^ 16

/-- Where a piece is looked for in Polder: a row of a block of this device, without a copy in the reader's path
(R272, R274). -/
def State.polderAt (s : State) (g : Group) (x : EngPiece) : Option (Nat × Acc) :=
  match x.hdr, x.words with
  | some h, (r, _) :: _ =>
    (match r.loc with
     | .global pa => if s.fwd pa < peerBit ∧ !s.pathHolds g.ctx g.vid (s.fwd pa) then some (s.fwd pa, h) else none
     | _ => none)
  | _, _ => none

/-- The words of a piece: from Polder where it holds them, else through L2, which fills Polder (R272). -/
def State.pieceRead (s : State) (g : Group) (w : Who) (x : EngPiece) : State × List Word :=
  let src := x.words.map Prod.fst
  match s.polderAt g x with
  | none => s.engRead w src
  | some (pa, h) =>
    let die := dieOf g.core
    if s.polderHit die pa then
      let s := match s.polderEnt die pa with | some e => s.polderPut e | none => s
      s.engRead { w with near := true } src
    else
      let (s, ws) := s.engRead w src
      let (s, h0) := s.readAcc w h
      (s.polderFill die pa (decide (1 < kvRefcnt h0)), ws)

/-- The STAT of a copying command from the count of pieces written and whether all were (R169, R172, R173). -/
def engStat (i : Instr) (vals : List DWord) (h : Layout) (n : Nat) (ok : Bool) : Word :=
  match i with
  | .cpy _ _ _ => if ok then stat 0 (4 * 2 ^ ((nth vals 0 0).toNat % 4)) else stat 0x26
  | .bcpy _ _ _ => statWord (!ok) (if ok then 0 else 0x26) (if n ≤ 32 then 128 * n else 4160)
  | _ => if ok then stat 0 (Nat.min (h.trows * h.rowbytes) (2 ^ 24 - 1)) else stat 0x26 n

/-- The next piece of a command that has begun: it waits, a failure ends the command, or its words are written. Before
the first one D is set for every page that the command writes (R284, log entry 128), so that what is written is an
error's count of pieces and nothing else. The release follows the last one (R167). -/
def State.engPiece (s : State) (p : Pend) (i : Instr) (vals : List DWord) (h : Layout) (prog : EngProg) : EngOut :=
  let g := p.group
  let w := p.engine
  let fin := fun (s : State) (x : Word) => EngOut.done (if p.rel then s.releaseL1 g p.scope else s) x
  match prog.left with
  | [] => fin s (engStat i vals h prog.wrote true)
  | x :: r =>
    let src := x.words.map Prod.fst
    let dst := x.words.map Prod.snd
    if !s.engReady w src dst then .wait s
    else
      match s.engGone p (src ++ dst) with
      | some c => fin s (if c = 0x26 then engStat i vals h prog.wrote false else stat c)
      | none =>
        let s := s.engPrepare g src dst
        if src.any (fun a => s.accPoison w a) then fin s (engStat i vals h prog.wrote false)
        else
          match s.engReserve g p.pol dst with
          | none => .wait s
          | some s =>
            match s.markAll g.tlbUnit g.ctx (if prog.wrote = 0 then prog.left.flatMap EngPiece.vas else []) with
            | (s, false) => .wait s
            | (s, true) =>
              let (s, ws) := s.pieceRead g w x
              let s := (s.engWrite w (dst.zip ws)).engFill dst
              if r.isEmpty then fin s (engStat i vals h (prog.wrote + 1) true) else .going s ⟨r, prog.wrote + 1⟩

/-- A command that reaches a peer makes all its pieces in one step, once every one of them can be made: so one that the
peer refuses has written nothing (R168). -/
def State.engRun (s : State) (p : Pend) (i : Instr) (vals : List DWord) (h : Layout) : Nat → EngProg → EngOut
  | 0, _ => .wait s
  | n + 1, prog =>
    match s.engPiece p i vals h prog with
    | .going s' x =>
      (match State.engRun s' p i vals h n x with
       | .wait _ => .wait s
       | r => r)
    | r => r

/-- The same, from the first piece. -/
def State.engAtOnce (s : State) (p : Pend) (i : Instr) (vals : List DWord) (h : Layout) (pieces : List EngPiece) : EngOut :=
  let dst := pieces.flatMap (fun x => x.words.map Prod.snd)
  if !pieces.all (fun x => s.engReady p.engine (x.words.map Prod.fst) (x.words.map Prod.snd)) then .wait s
  else
    match s.engReserve p.group p.pol dst with
    | none => .wait s
    | some s => s.engRun p i vals h pieces.length ⟨pieces, 0⟩

/-- A copy whose words are known begins (R166 to R168): waits and failures that change nothing, the acquire, and the first
piece. -/
def State.engCopy (s : State) (p : Pend) (i : Instr) (vals : List DWord) (h : Layout) (pieces : List EngPiece) : EngOut :=
  let g := p.group
  let src := pieces.flatMap (fun x => x.words.map Prod.fst)
  let dst := pieces.flatMap (fun x => x.words.map Prod.snd)
  if s.engSpec g dst then .done s (stat 0x27)
  else
    match s.engOpen g dst with
    | some x => .opening x
    | none =>
      if s.ownBefore p src then .wait s
      else
        match s.engGone p (src ++ dst) with
        | some c => .done s (stat c)
        | none =>
          let s := if p.acq then s.acquireL1 g p.scope else s
          if (src ++ dst).any (fun a => a.peer.isSome) then s.engAtOnce p i vals h pieces else s.engPiece p i vals h ⟨pieces, 0⟩

/-! CPY (R169). -/

/-- A space code of a CPY descriptor. -/
def cpySpace (code : Nat) : Space := if code = 0 then .shared else if code = 1 then .tile else .global

/-- Is a CPY descriptor good? -/
def cpyDescOk (w : Word) : Bool :=
  decide (w.toNat < 64) && decide (w.toNat % 4 < 3) && decide (w.toNat / 4 % 4 < 3) && decide (w.toNat / 16 % 4 < 3)

/-- The effect of a CPY: values descriptor, source, destination. -/
def State.runCpy (s : State) (p : Pend) (vals : List DWord) : EngOut :=
  let g := p.group
  let d : Word := (nth vals 0 0).setWidth 32
  if !cpyDescOk d then .done s (stat 0x20)
  else
    let n := 4 * 2 ^ (d.toNat % 4)
    let ssp := cpySpace (d.toNat / 4 % 4)
    let dsp := cpySpace (d.toNat / 16 % 4)
    let src := (nth vals 1 0).toNat
    let dst := (nth vals 2 0).toNat
    if engMisaligned ssp src n || engMisaligned dsp dst n then .done s (stat 0x21)
    else
      match (s.engRange g ssp src (n / 4)).orElse (fun _ => s.engRange g dsp dst (n / 4)) with
      | some c => .done s (stat c)
      | none =>
        match s.engAccs g ssp .rd src (n / 4) with
        | (s, .error c) => .fail s c
        | (s, .ok sa) =>
          match s.engAccs g dsp .wr dst (n / 4) with
          | (s, .error c) => .fail s c
          | (s, .ok da) =>
            s.engCopy p (.cpy 0 0 0) vals Layout.invalid [{ words := sa.zip da, vas := if dsp = .global then (List.range (n / 4)).map (engAddr .global dst) else [] }]

/-! KV blocks (R171). -/

/-- The block number of a table entry, read through the version's view (R172): a code, a wait, or the
number. -/
inductive EngVal where
  | wait (s : State)
  | fail (s : State) (code : Nat)
  | ok (s : State) (p : Nat)

/-- The block of index `i` (R172). -/
def State.kvBlock (s : State) (g : Group) (p : Pend) (h : Layout) (i : Nat) : EngVal :=
  let w := p.engine
  if h.count ≤ i then .fail s 0x25
  else
    let va := (h.base + 4 * i) % 2 ^ 64
    if va % 4 ≠ 0 then .fail s 0x21
    else
      match s.engRange g .global va 1 with
      | some c => .fail s c
      | none =>
        match s.engAccs g .global .rd va 1 with
        | (s, .error (some c)) => .fail s c
        | (s, .error none) => .wait s
        | (s, .ok accs) =>
          if !s.engReady w accs [] || s.ownBefore p accs then .wait s
          else
            match s.engGone p accs with
            | some c => .fail s c
            | none =>
              let s := s.engPrepare g accs []
              if accs.any (fun a => s.accPoison w a) then .fail s 0x26
              else
                let (s, ws) := s.engRead w accs
                let p := (ws.headD 0).toNat
                if h.nblk ≤ p then .fail s 0x25 else .ok s p

/-- Global address of row 0 of a block, and of its header. -/
def Layout.rows (h : Layout) (p : Nat) : Nat := h.pool + 4096 * p
/-- Header address. -/
def Layout.hdr (h : Layout) (p : Nat) : Nat := h.hdrs + 64 * p

/-! BCPY (R172). -/

/-- The effect of a BCPY: values i, b. R172 gives the check of b's alignment no place among its steps: it stands
before RANGE and after the block number (DESIGN CHOICE, log entry 90). A block whose header cannot be translated is neither
looked for in Polder nor put there (R273, DESIGN CHOICE, log entry 139). -/
def State.runBcpy (s : State) (p : Pend) (vals : List DWord) (h : Layout) : EngOut :=
  let g := p.group
  let b := (nth vals 1 0).toNat
  match s.kvBlock g p h (nth vals 0 0).toNat with
  | .wait s => .wait s
  | .fail s c => .done s (stat c)
  | .ok s blk =>
    let hdr := h.opt % 2 = 1
    let dsts := (List.range 32).map (fun r => (b % 2 ^ 20 + r * h.stride, 32)) ++ (if hdr then [(b % 2 ^ 20 + 32 * h.stride, 16)] else [])
    let inRange := dsts.all (fun x => (List.range x.2).all (fun k => decide (x.1 + 4 * k < 2 ^ 20) && s.sharedOk g (x.1 + 4 * k)))
    if b % 16 ≠ 0 then .done s (stat 0x21)
    else
      match g.key.team with
      | none => .done s (stat 0x23)
      | some t =>
        if !inRange then .done s (stat 0x24)
        else
          let srcs := (List.range 32).map (fun r => (h.rows blk + 128 * r, 32)) ++ (if hdr then [(h.hdr blk, 16)] else [])
          match srcs.findSome? (fun x => s.engRange g .global x.1 x.2) with
          | some c => .done s (stat c)
          | none =>
            let r := srcs.foldl (fun (acc : State × Except (Option Nat) (List (List Acc))) x =>
              match acc with
              | (s, .error c) => (s, .error c)
              | (s, .ok l) =>
                match s.engAccs g .global .rd x.1 x.2 with
                | (s, .error c) => (s, .error c)
                | (s, .ok a) => (s, .ok (l ++ [a]))) (s, .ok [])
            match r with
            | (s, .error c) => .fail s c
            | (s, .ok sas) =>
              let das := dsts.map (fun x => (List.range x.2).map (fun k => ({ loc := .shared t (sharedKey g.upper (x.1 + 4 * k)) } : Acc)))
              let head := match s.engAccs g .global .rd (h.hdr blk) 1 with
                | (_, .ok (a :: _)) => if g.key.isQueue then none else some a
                | _ => none
              let near := fun (l : List Acc) (r : Nat) => if decide (r < 32) && l.all Acc.kvpage then head else none
              s.engCopy p (.bcpy 0 0 0) vals h ((sas.zip das).mapIdx (fun r x => { words := x.1.zip x.2, hdr := near x.1 r }))

/-! TCPY (R173). -/

/-- The effect of a TCPY: values d, k, b. -/
def State.runTcpy (s : State) (p : Pend) (vals : List DWord) (h : Layout) : EngOut :=
  let g := p.group
  let d := (nth vals 0 0).toNat
  let k := (nth vals 1 0).toNat
  let b := (nth vals 2 0).toNat
  let w := h.rowbytes / 4
  if 2 ≤ d then .done s (stat 0x20)
  else if h.count < k + h.trows then .done s (stat 0x25)
  else
    match s.engRange g .tile b (h.trows * w) with
    | some c => .done s (stat c)
    | none =>
      let rows := (List.range h.trows).map (fun j => (h.base + (k + j) * h.stride, b + j * w))
      if rows.any (fun r => decide (r.1 % 4 ≠ 0)) then .done s (stat 0x21)
      else
        match rows.findSome? (fun r => s.engRange g .global r.1 w) with
        | some c => .done s (stat c)
        | none =>
          let acc := rows.foldl (fun (acc : State × Except (Option Nat) (List EngPiece)) r =>
            match acc with
            | (s, .error c) => (s, .error c)
            | (s, .ok l) =>
              match s.engAccs g .global (if d = 1 then .wr else .rd) r.1 w with
              | (s, .error c) => (s, .error c)
              | (s, .ok a) =>
                let tile := (List.range w).map (fun i => ({ loc := .tile (r.2 + i) } : Acc))
                (s, .ok (l ++ [if d = 1 then { words := tile.zip a, vas := (List.range w).map (fun i => r.1 + 4 * i) } else { words := a.zip tile }]))) (s, .ok [])
          match acc with
          | (s, .error c) => .fail s c
          | (s, .ok pieces) => s.engCopy p (.tcpy 0 0 0) vals h pieces

/-! KVAPP (R174, R175). -/

/-- The code of a header that KVAPP refuses, if it does (R174). -/
def kvHeaderBad (h0 h1 : Word) : Option Nat :=
  let efmt := h1.toNat / 256 % 256
  let fill := h1.toNat % 256
  if !(efmt == 6 || efmt == 7 || efmt == 11) || h0.toNat % 4096 == 0xFFF || h0.toNat / 4096 % 16 != 0 || h0.toNat / 2 ^ 26 != 0 || decide (32 < fill) then some 0x2B
  else if 1 < kvRefcnt h0 then some 0x2A
  else if fill = 32 then some 0x29
  else none

/-- Is the value of one scale code above that of another? -/
def scaleAbove (a b : Nat) : Bool := !leScaled (scaleVal a).1 (scaleVal a).2 (scaleVal b).1 (scaleVal b).2

/-- The bytes of words. -/
def bytesOfWords (l : List Word) : List Nat := l.flatMap (fun w => splitBits 8 4 w.toNat)

/-- Four bytes to a word. -/
def wordsOfBytes : List Nat → List Word
  | a :: b :: c :: d :: r => BitVec.ofNat 32 (joinBits 8 [a, b, c, d]) :: wordsOfBytes r
  | _ => []

/-- What a KVAPP writes: the scale, whether the rows were rescaled, the resident rows and the new one
(R174). -/
structure KvNew where
  scale : Nat
  resc : Bool
  old : List Word
  row : List Word

/-- The arithmetic of KVAPP: `rows` are the words of the resident rows, `xs` the token row. -/
def kvAppend (h0 h1 : Word) (rows xs : List Word) : KvNew :=
  let el := Tag.elem (tagOf (BitVec.ofNat 4 (h1.toNat / 256 % 256)))
  let vals := xs.map (fun x => f32.decode x.toNat)
  let cur := h0.toNat % 4096
  let need := (chooseScale el vals).1
  let fill := h1.toNat % 256
  let resc := decide (fill ≠ 0) && scaleAbove need cur
  let sc := if fill = 0 ∨ resc then need else cur
  { scale := sc, resc := resc
    old := if resc then wordsOfBytes ((bytesOfWords rows).map (fun q => (quantise el .rne sc (dequant el cur q)).1 % 256)) else rows
    row := wordsOfBytes (vals.map (fun x => (quantise el .rne sc x).1 % 256)) }

/-- The block copy that a version's KVAPP makes when the page of the rows or that of the header is a versioned KV page (R297): the row lines whole, the 16
words of the header. `none` while a pool is full. -/
def State.kvCopy (s : State) (g : Group) (pol rows hdr : Nat) : Option State :=
  let ls := (List.range 32).map (fun i => s.fwd (rows + 128 * i))
  match s.reserveAll none g.ctx g.vid pol (ls ++ [lineOf hdr]) with
  | none => none
  | some s =>
    let path := s.viewPath g.ctx g.vid
    let s := ls.foldl (fun s l => s.copyUnit none g.ctx path g.vid l (List.range 32)) s
    some (s.copyUnit none g.ctx path g.vid (lineOf hdr) ((List.range 16).map (fun i => hdr % 128 / 4 + i)))

/-- The block's copy (R297), with the words as they are then written singly, or the line copies that the writes
need; `none` while a pool is full. -/
def State.kvReserve (s : State) (g : Group) (pol : Nat) (rows hdr : List Acc) : Option (State × Bool) :=
  if g.vid == 0 then some (s, false)
  else
    match rows, hdr with
    | r :: _, h :: _ =>
      (match r.loc, h.loc, (r.versioned && r.kvpage) || (h.versioned && h.kvpage) with
       | .global rp, .global hp, true => (s.kvCopy g pol rp (s.fwd hp)).map (fun s => (s, true))
       | _, _, _ => (s.engReserve g pol (rows ++ hdr)).map (fun s => (s, false)))
    | _, _ => some (s, false)

/-- A word of a block whose unit copy has been made. -/
def Acc.noUnit (a : Acc) : Acc := { a with kvpage := false }

/-- The effect of a KVAPP: values a, b. The check of b's alignment and the ranges and translations come before the
header's checks, an order that R174 does not state (DESIGN CHOICE, log entry 90). -/
def State.runKvapp (s : State) (p : Pend) (vals : List DWord) (h : Layout) : EngOut :=
  let g := p.group
  let w := p.engine
  let b := (nth vals 1 0).toNat
  match s.kvBlock g p h (nth vals 0 0).toNat with
  | .wait s => .wait s
  | .fail s c => .done s (stat c)
  | .ok s blk =>
    if b % 16 ≠ 0 then .done s (stat 0x21)
    else
      match (s.engRange g .shared b 128).orElse (fun _ => (s.engRange g .global (h.hdr blk) 2).orElse (fun _ => s.engRange g .global (h.rows blk) 1024)) with
      | some c => .done s (stat c)
      | none =>
        match s.engAccs g .shared .rd b 128 with
        | (s, .error c) => .fail s c
        | (s, .ok xa) =>
          match s.engAccs g .global .rw (h.hdr blk) 2 with
          | (s, .error c) => .fail s c
          | (s, .ok ha) =>
            match s.engAccs g .global .rw (h.rows blk) 1024 with
            | (s, .error c) => .fail s c
            | (s, .ok ra) =>
              if s.engSpec g (ha ++ ra) then .done s (stat 0x27)
              else
                match s.engOpen g (ha ++ ra) with
                | some x => .opening x
                | none =>
                  if !s.engReady w xa (ha ++ ra) || s.ownBefore p (xa ++ ha ++ ra) then .wait s
                  else
                    match s.engGone p (ha ++ ra) with
                    | some c => .done s (stat c)
                    | none =>
                      let s := if p.acq then s.acquireL1 g p.scope else s
                      let s := s.engPrepare g (xa ++ ha ++ ra) (ha ++ ra)
                      if (xa ++ ha).any (fun a => s.accPoison w a) then .done s (stat 0x26)
                      else
                        let (s, xs) := s.engRead w xa
                        let (s, hs) := s.engRead w ha
                        let h0 := nth hs 0 0
                        let h1 := nth hs 1 0
                        match kvHeaderBad h0 h1 with
                        | some c => .done s (stat c)
                        | none =>
                          if xs.any (fun x => (f32.decode x.toNat).isNan || (f32.decode x.toNat).isInf) then .done s (stat 0x2C)
                          else
                            let fill := h1.toNat % 256
                            let resident := ra.take (32 * fill)
                            let (s, rows) := s.engRead w resident
                            let n := kvAppend h0 h1 rows xs
                            if n.resc && resident.any (fun a => s.accPoison w a) then .done s (stat 0x26)
                            else
                              let vas := (List.range 2).map (engAddr .global (h.hdr blk)) ++ (List.range 1024).map (engAddr .global (h.rows blk))
                              match s.markAll g.tlbUnit g.ctx (if n.resc then vas else vas.take 2 ++ (vas.drop (2 + 32 * fill)).take 32) with
                              | (s, false) => .wait s
                              | (s, true) =>
                                match s.kvReserve g p.pol ra ha with
                                | none => .wait s
                                | some (s, whole) =>
                                  let one := fun (l : List Acc) => if whole then l.map Acc.noUnit else l
                                  let wr := (if n.resc then (one resident).zip n.old else []) ++
                                    (one ((ra.drop (32 * fill)).take 32)).zip n.row ++
                                    (one ha).zip
                                      [BitVec.ofNat 32 (h0.toNat / 2 ^ 16 * 2 ^ 16 + n.scale),
                                       BitVec.ofNat 32 (g.vid.toNat * 2 ^ 16 + h1.toNat / 256 % 256 * 256 + (fill + 1))]
                                  let s := s.engWrite w wr
                                  let s := if p.rel then s.releaseL1 g p.scope else s
                                  .done s (stat 0 ((if n.resc then 2 ^ 23 else 0) + fill))

/-! SELT (R176). -/

/-- Is `x > t` by value? -/
def seltTakes (t x : Word) : Bool :=
  let a := f32.decode t.toNat
  let b := f32.decode x.toNat
  !a.isNan && !b.isNan && fLt a b

/-- The steps of SELT from index `k`, with `m` selected so far. -/
def State.seltLoop (s : State) (t : TKey) (upper : Bool) (thr : Word) (a b : Nat) : Nat → Nat → Nat → State × Nat
  | 0, _, m => (s, m)
  | n + 1, k, m =>
    let x := s.readShared t (sharedKey upper (a % 2 ^ 20 + 4 * k))
    if seltTakes thr x then
      let s := s.writeShared t (sharedKey upper (b % 2 ^ 20 + 8 * m)) x
      let s := s.writeShared t (sharedKey upper (b % 2 ^ 20 + 8 * m + 4)) (BitVec.ofNat 32 k)
      State.seltLoop s t upper thr a b n (k + 1) (m + 1)
    else State.seltLoop s t upper thr a b n (k + 1) m

/-- The effect of a SELT: values t, n, a, b. Of b, 8n bytes are checked for RANGE, although 8m are written (log entry
112). -/
def State.runSelt (s : State) (p : Pend) (vals : List DWord) : EngOut :=
  let g := p.group
  let n := (nth vals 1 0).toNat
  let a := (nth vals 2 0).toNat
  let b := (nth vals 3 0).toNat
  if 65536 < n then .done s (stat 0x20)
  else if a % 4 ≠ 0 ∨ b % 8 ≠ 0 then .done s (stat 0x21)
  else
    match (s.engRange g .shared a n).orElse (fun _ => s.engRange g .shared b (2 * n)), g.key.team with
    | some c, _ => .done s (stat c)
    | none, none => .done s (stat 0x23)
    | none, some t =>
      let src := (List.range n).map (fun k => ({ loc := .shared t (sharedKey g.upper (a % 2 ^ 20 + 4 * k)) } : Acc))
      if s.ownBefore p src then .wait s
      else if src.any (fun x => s.accPoison p.engine x) then .done s (stat 0x26)
      else
      let s := if p.acq then s.acquireL1 g p.scope else s
      let (s, m) := s.seltLoop t g.upper ((nth vals 0 0).setWidth 32) a b n 0 0
      let out := (List.range (2 * m)).map (fun k => ({ loc := .shared t (sharedKey g.upper (b % 2 ^ 20 + 4 * k)) } : Acc))
      let s := (s.cleanAccs p.engine out).engFill out
      let s := if p.rel then s.releaseL1 g p.scope else s
      .done s (stat 0 m)

/-! Completion. -/

/-- The next move of an engine command: its beginning, or its next piece. -/
def State.runEngine (s : State) (p : Pend) (i : Instr) (vals : List DWord) (h : Layout) : EngOut :=
  match p.prog, i with
  | some x, i => s.engPiece p i vals h x
  | none, .cpy _ _ _ => s.runCpy p vals
  | none, .bcpy _ _ _ => s.runBcpy p vals h
  | none, .tcpy _ _ _ => s.runTcpy p vals h
  | none, .kvapp _ _ _ => s.runKvapp p vals h
  | none, .selt _ _ _ => s.runSelt p vals
  | none, _ => .wait s

/-- A command ends with its STAT. -/
def State.engDone (s : State) (p : Pend) (w : Word) : State :=
  let s := { s with pends := s.pends.filter (fun q => decide (q.id ≠ p.id)) }
  (s.deliver p [w]).reap

/-- Lanes of one KVAPP are applied in ascending lane order (R175). -/
def State.kvTurn (s : State) (p : Pend) : Bool :=
  match p.kind with
  | .engine (.kvapp _ _ _) _ _ => s.pends.all (fun q => !(decide (q.batch = p.batch) && decide (q.id < p.id)))
  | _ => true

/-- ENGINE_COMMAND_COMPLETE (R166): a command whose turn has come takes effect, a copying one by its next piece, and
its STAT is written when it is done. -/
def execEngineCommandComplete (id : Nat) (s : State) : Host.Outcome State Fault Refusal :=
  match s.pends.find? (fun p => decide (p.id = id)) with
  | none => .next (s.lateAnswer id)
  | some p =>
    match p.kind with
    | .engine i vals h =>
      if s.inOrder p && s.kvTurn p then
        match s.runEngine p i vals h with
        | .wait s => .next s
        | .opening x => .next (s.sendOpen x)
        | .going s x => .next { s with pends := s.pends.map (fun q => if q.id = p.id then { q with prog := some x } else q) }
        | .done s w => .next (s.engDone p w)
      else .next s
    | _ => .next s

/-! Issue. -/

/-- The instruction with an HSRC that is required: ILLEGAL SUB 8 without one (R170). -/
def needsHsrc (i : Instr) (f : Group → List Thread → State → State × List Due) (g : Group) (ts : List Thread) (s : State) : State × List Due :=
  match ts with
  | [] => (s, [])
  | t :: _ => if t.hints.src.isNone then (s, dues g.key ts (illegal 8 i)) else f g ts s

/-- The HSRC operand of a lane; `zero` when there is none. -/
def View.hsrc (v : View) : Sel := v.t.hints.src.getD 0xF9

/-- The layout entry a handle value names, if the handle is good (R170). -/
def State.handleOk (s : State) (g : Group) (kind : Nat) (w : Word) : Option Layout :=
  match s.ctx? g.ctx with
  | none => none
  | some c =>
    let e := Store.get Layout.invalid c.layout (w.toNat % 2 ^ 16)
    if w.toNat < 2 ^ 16 ∧ e.ctx = g.ctx ∧ e.kind = kind then some e else none

/-- A HANDLE fault. -/
def handleTrap (w : Word) : Trap := ⟨.handle, 1, w.setWidth 64, .precise⟩

/-- Start a command in each lane (R166): outstanding, its d busy, the region closed. -/
def engStart (i : Instr) (d : Sel) (h : Layout) (vals : View → List DWord) (g : Group) (ts : List Thread) (s : State) : State × List Due :=
  let batch := s.next
  eachLane g.key (fun g t s =>
    let v : View := ⟨g, t⟩
    let id := s.next
    let s := s.push {
      id := id, key := g.key, tid := t.tid, pc := t.seqPc, kind := .engine i (vals v) h, dests := [(d, .stat)],
      acq := v.order.1, rel := v.order.2, scope := v.scope .global, pol := v.pol, ctx := g.ctx, vtag := g.vid, core := g.core, upper := g.upper, batch := batch
      lanes := ts.map Thread.tid }
    (s.modThread g.key t.tid (fun t => t.issued id [(d, .stat)] true), [])) (ts.map Thread.tid) s

/-- A command that takes a tensor handle (R170): tags, the uniform handle, the handle itself. -/
def handleOp (i : Instr) (d : Sel) (kind : Nat) (srcs : List Sel) (a b d' : Option Sel) (vals : View → List DWord) (s : State) :
    Host.Outcome State Fault Refusal :=
  issue i s (needsHsrc i (afterChecks
    (fun v => tagsOk v (v.slots a b d') (addrTag (v.tag v.hsrc) && srcs.all (fun x => addrTag (v.tag x))))
    (fun v => [v.reg v.hsrc])
    (fun g ts s =>
      match ts with
      | [] => (s, [])
      | t :: _ =>
        let w := View.val ⟨g, t⟩ (View.hsrc ⟨g, t⟩)
        match s.handleOk g kind w with
        | none => (s, dues g.key ts (handleTrap w))
        | some h => engStart i d h vals g ts s)))

/-- A 32-bit operand as a command value. -/
def View.val64 (v : View) (s : Sel) : DWord := (v.val s).setWidth 64

/-- An address operand of CPY in the space its code names (R169). -/
def View.cpyAddr (v : View) (code : Nat) (s : Sel) : DWord := if code = 2 then v.pair s else ((v.regAt s 0).val).setWidth 64

/-- The tag of an address operand of CPY. -/
def View.cpyTag (v : View) (code : Nat) (s : Sel) : Tag := if code = 2 then v.pairTag addrTag s else (v.regAt s 0).tag

/-- The tag check of CPY. -/
def cpyTags (d a b : Sel) (v : View) : Option Trap :=
  let w := (v.val d).toNat
  let ta := v.cpyTag (w / 4 % 4) a
  let tb := v.cpyTag (w / 16 % 4) b
  if addrTag (v.tag d) && addrTag ta && addrTag tb then none else some (Machine.tagTrap 15 (some ta) (some tb) (some (v.tag d)))

/-- CPY (R169). -/
def execCpy (d a b : Sel) (s : State) : Host.Outcome State Fault Refusal :=
  issueChecked (.cpy d a b) s (cpyTags d a b) noUniform
    (engStart (.cpy d a b) d Layout.invalid (fun v =>
      [v.val64 d, v.cpyAddr ((v.val d).toNat / 4 % 4) a, v.cpyAddr ((v.val d).toNat / 16 % 4) b]))

/-- BCPY (R172). -/
def execBcpy (d a b : Sel) (s : State) : Host.Outcome State Fault Refusal :=
  handleOp (.bcpy d a b) d 1 [a, b] (some a) (some b) none (fun v => [v.val64 a, v.val64 b]) s

/-- TCPY (R173). -/
def execTcpy (d a b : Sel) (s : State) : Host.Outcome State Fault Refusal :=
  handleOp (.tcpy d a b) d 2 [d, a, b] (some a) (some b) (some d) (fun v => [v.val64 d, v.val64 a, v.val64 b]) s

/-- KVAPP (R174). -/
def execKvapp (d a b : Sel) (s : State) : Host.Outcome State Fault Refusal :=
  handleOp (.kvapp d a b) d 1 [a, b] (some a) (some b) none (fun v => [v.val64 a, v.val64 b]) s

/-- SELT (R176). -/
def execSelt (d a b : Sel) (s : State) : Host.Outcome State Fault Refusal :=
  issue (.selt d a b) s (needsHsrc (.selt d a b) (afterChecks
    (fun v => tagsOk v (v.slots (some a) (some b) (some d))
      (decide (v.tag v.hsrc = .flt) && addrTag (v.tag d) && addrTag (v.tag a) && addrTag (v.tag b)))
    noUniform
    (engStart (.selt d a b) d Layout.invalid (fun v => [v.val64 v.hsrc, v.val64 d, v.val64 a, v.val64 b]))))

end Sys2Proof.Machine
end

