-- ==== Sys2Proof/Machine/ArrayOps.lean ====
section
/-! DEFINITION. The digit array's operations (R186 to R215): what each does to planes, tiles, statistics
and shared memory, and the steps ARRAY_OP_START and ARRAY_OP_COMPLETE. -/

namespace Sys2Proof.Machine

/-! Tiles and their statistics. -/

/-- The row that starts at a key, `n` values. -/
def Store.row {α : Type} (d : α) (m : Store α) (base n : Nat) : List α :=
  let sub := m.filter (fun e => decide (base ≤ e.1) && decide (e.1 < base + n))
  (List.range n).map (fun c => Store.get d sub (base + c))

/-- Replace a row. -/
def Store.setRow {α : Type} [DecidableEq α] (d : α) (m : Store α) (base : Nat) (vs : List α) : Store α :=
  m.filter (fun e => decide (e.1 < base)) ++ storeOf d (vs.mapIdx (fun i v => (base + i, v))) ++
    m.filter (fun e => decide (base + vs.length ≤ e.1))

/-- Key of a row of a tile. -/
def rowKey (t row : Nat) : Nat := 16384 * t + 256 * row
/-- Key of a row's statistics. -/
def statKey (t row : Nat) : Nat := 64 * t + row

def Arr.accRow (a : Arr) (t row : Nat) : List Word := Store.row 0 a.acc (rowKey t row) 256
def Arr.setAccRow (a : Arr) (t row : Nat) (vs : List Word) : Arr := { a with acc := Store.setRow 0 a.acc (rowKey t row) vs }
def Arr.sumOf (a : Arr) (t row : Nat) : Word := Store.get 0 a.ssum (statKey t row)
def Arr.setSum (a : Arr) (t row : Nat) (w : Word) : Arr := { a with ssum := Store.set 0 a.ssum (statKey t row) w }
def Arr.maxOf (a : Arr) (t row : Nat) : Word := Store.get ninf32 a.smax (statKey t row)
def Arr.setMax (a : Arr) (t row : Nat) (w : Word) : Arr := { a with smax := Store.set ninf32 a.smax (statKey t row) w }

/-- A row cleared: elements +0, sum +0, maximum −∞ (R204). -/
def Arr.clearRow (a : Arr) (t row : Nat) : Arr :=
  ((a.setAccRow t row (List.replicate 256 0)).setSum t row 0).setMax t row ninf32

/-! Descriptors. -/

/-- A bit field of a descriptor: from bit `lo`, `n` bits. -/
def fld (w : Word) (lo n : Nat) : Nat := w.toNat / 2 ^ lo % 2 ^ n

/-- The group whose memory an operation reaches. -/
def ArrOp.group (o : ArrOp) (core : Nat) : Group :=
  { key := .kernel o.team.ctx o.team.grid o.team.tmid 0, width := 16, nregs := 8, threads := [], vid := o.vtag, core := core, upper := o.upper }

/-- An operand value by its place among those read. -/
def ArrOp.val (o : ArrOp) (k : Nat) : Word := nth o.vals k 0

/-- What an operation comes to: the state with the core's array, and the STAT. -/
structure ArrRes where
  s : State
  a : Arr
  w : Word

/-- Words of shared memory from an address, which does not wrap. -/
def State.sharedRun (s : State) (o : ArrOp) (addr n : Nat) : List Word :=
  (List.range n).map (fun k => s.readShared o.team (sharedKey o.upper (addr % 2 ^ 20 + 4 * k)))

/-- Write words of shared memory from an address; units written whole lose their poison mark (R357). -/
def State.sharedPut (s : State) (o : ArrOp) (addr : Nat) (ws : List Word) : State :=
  let at_ := fun (k : Nat) => sharedKey o.upper (addr % 2 ^ 20 + 4 * k)
  let s := (ws.mapIdx (fun k w => (k, w))).foldl (fun s x => s.writeShared o.team (at_ x.1) x.2) s
  s.cleanShared o.team ((List.range ws.length).map at_)

/-- Fill the granules of a run of words. -/
def State.sharedFill (s : State) (o : ArrOp) (addr n : Nat) : State :=
  s.engFill ((List.range n).map (fun k => { loc := .shared o.team (sharedKey o.upper (addr % 2 ^ 20 + 4 * k)) }))

/-- Are the bytes of a run of shared memory in the allocation (R189)? A run does not wrap. -/
def State.sharedFits (s : State) (o : ArrOp) (core addr bytes : Nat) : Bool :=
  (List.range bytes).all (fun k => decide (addr + k < 2 ^ 20) && s.sharedOk (o.group core) (addr + k))

/-- Is a word of a run of shared memory poisoned (R357)? -/
def State.runBad (s : State) (o : ArrOp) (addr n : Nat) : Bool := s.sharedBad o.team o.upper addr n

/-! DLD and DLDL (R190 to R195). -/

/-- Fields of a DLD descriptor. -/
structure DldDesc where
  fmt : Nat
  tile : Bool
  mxs : Bool
  had : Nat
  stride : Nat

/-- Read a DLD or DLDL descriptor; none is BADDESC (R190, R191). -/
def dldDesc (lut : Bool) (w : Word) : Option DldDesc :=
  let fmt := fld w 0 4
  let mxs := w.getLsbD 5
  let had := fld w 6 2
  let st := 4 * fld w 8 12
  let fmtOk := if lut then fmt == 7 else decide (fmt ≤ 6)
  if fld w 20 12 = 0 ∧ had ≠ 3 ∧ fmtOk ∧ (!mxs || (!lut && decide (1 ≤ fmt) && decide (fmt ≤ 4))) ∧ (st = 0 ∨ colBytes fmt ≤ st) then
    some ⟨fmt, w.getLsbD 4, mxs, had, if st = 0 then packedStride fmt else st⟩
  else none

/-- Words of a column. -/
def DldDesc.words (d : DldDesc) : Nat := (colBytes d.fmt + 3) / 4

/-- The words of a column in tile space. -/
def tileCol (d : DldDesc) (a c : Nat) : List Nat := (List.range d.words).map (fun k => a + c * (d.stride / 4) + k)

/-- DLD and DLDL (R195). -/
def State.runDld (s : State) (core : Nat) (a : Arr) (o : ArrOp) (lut : Bool) : ArrRes :=
  let fail := fun c => ArrRes.mk s a (stat c)
  match dldDesc lut (o.val 0) with
  | none => fail 0x20
  | some d =>
    let at_ := (o.val 1).toNat
    let b := (o.val 2).toNat
    if (!d.tile && decide (at_ % 16 ≠ 0)) || (d.mxs && decide (b % 4 ≠ 0)) then fail 0x21
    else
      let words := (List.range 256).map (tileCol d at_)
      let ok := if d.tile then words.all (fun l => l.all (s.tileAllocated o.team.ctx))
        else (List.range 256).all (fun c => s.sharedFits o core (at_ % 2 ^ 20 + c * d.stride) (colBytes d.fmt))
      if !ok || (d.mxs && !s.sharedFits o core (b % 2 ^ 20) 512) then fail 0x24
      else if d.tile && words.any (fun l => l.any (fun w => s.accLost { loc := .tile w })) then fail 0x2D
      else if d.tile && words.any (fun l => l.any (fun w => s.accPoison (o.group core).engine { loc := .tile w })) then fail 0x26
      else if !d.tile && (List.range 256).any (fun c => s.runBad o (at_ % 2 ^ 20 + c * d.stride) d.words) then fail 0x26
      else if d.mxs && !o.capturedBad.isEmpty then fail 0x26
      else
        let cols := if d.tile then words.map (fun l => l.map (s.tileRead o.team.ctx o.vtag))
          else (List.range 256).map (fun c => s.sharedRun o (at_ % 2 ^ 20 + c * d.stride) d.words)
        let bad := if d.fmt = 0 then firstIllegal cols else none
        let p := planeOf d.fmt d.had bad.isSome (cols.mapIdx (fun c ws =>
          recodeCol d.had (if d.mxs then some (scaleOf (nth o.captured (c / 2) 0) (c % 2)) else none) (colVals d.fmt o.book ws)))
        ⟨s, { a with shadow := p },
          stat 0 ((if p.tritBad then 2 ^ 23 else 0) + (if p.poison then 2 ^ 22 else 0) + 2 ^ 16 * p.passes + bad.getD 0)⟩

/-! DSTR and DSTRN (R199 to R202). -/

/-- Row element formats of a stream. -/
def streamFmt (t : Tag) : Bool :=
  t == .flt || t == .half2 || t == .bflt2 || mxTag t

/-- Bytes of a streamed row. -/
def streamBytes (t : Tag) : Nat := 32 * (Tag.elem t).bits / 8

/-- DSTR and DSTRN: a row that cannot be read ends them, the rows before it done (R201). -/
def State.runDstr (s : State) (core : Nat) (a : Arr) (o : ArrOp) (fresh : Bool) : ArrRes :=
  let fail := fun c => ArrRes.mk s a (stat c)
  let w := o.val 0
  let m := fld w 22 7
  let row0 := fld w 16 6
  let mxs := w.getLsbD 8
  let t := tagOf (BitVec.ofNat 4 (fld w 4 4))
  let tile := fld w 0 3
  let bytes := streamBytes t
  let at_ := (o.val 1).toNat
  let b := (o.val 2).toNat
  let h := (o.val 3).toNat
  if fld w 29 3 ≠ 0 ∨ m = 0 ∨ 64 < m ∨ 64 < row0 + m ∨ fld w 9 7 ≠ 0 ∨ w.getLsbD 3 ∨ !streamFmt t ∨ (mxs && !mxTag t) ∨
      mxs ≠ o.hints.src.isSome ∨ (b ≠ 0 ∧ (b % 16 ≠ 0 ∨ b < bytes)) then fail 0x20
  else if at_ % 16 ≠ 0 ∨ (mxs && decide (h % 4 ≠ 0)) then fail 0x21
  else
    let stride := if b = 0 then bytes else b
    if !((List.range m).all (fun i => s.sharedFits o core (at_ % 2 ^ 20 + i * stride) bytes)) || (mxs && !s.sharedFits o core (h % 2 ^ 20) (4 * ((m + 1) / 2))) then fail 0x24
    else
      let bad := fun (i : Nat) => s.runBad o (at_ % 2 ^ 20 + i * stride) (bytes / 4) || (mxs && s.runBad o (h % 2 ^ 20 + 4 * (i / 2)) 1)
      let n := ((List.range m).takeWhile (fun i => !bad i)).length
      let a := (List.range n).foldl (fun (a : Arr) i =>
        let sc := if mxs then some (scaleOf (nth (s.sharedRun o (h % 2 ^ 20 + 4 * (i / 2)) 1) 0 0) (i % 2)) else none
        let r := srowOf (rowVals t sc (s.sharedRun o (at_ % 2 ^ 20 + i * stride) (bytes / 4)))
        let (row, sum) := streamRow a.active fresh (a.accRow tile (row0 + i)) (a.sumOf tile (row0 + i)) r
        (a.setAccRow tile (row0 + i) row).setSum tile (row0 + i) sum) a
      ⟨s, a, if n = m then stat 0 m else stat 0x26 n⟩

/-! DZRO (R203). -/

/-- Clear the tiles of a mask. -/
def Arr.zero (a : Arr) (mask : Nat) : Arr :=
  let keep := fun (n : Nat) => !decide (mask / 2 ^ n % 2 = 1)
  { a with acc := a.acc.filter (fun e => keep (e.1 / 16384)), ssum := a.ssum.filter (fun e => keep (e.1 / 64)), smax := a.smax.filter (fun e => keep (e.1 / 64)) }

/-! Drains (R204 to R209). -/

/-- The options in a drain's descriptor. -/
def drainOpt (w : Word) : DrainOpt := ⟨w.getLsbD 9, w.getLsbD 8, fld w 10 2, w.getLsbD 14⟩

/-- The column table as captured: scale, zero point and bias of a column (R205). -/
def drainTable (o : DrainOpt) (l : List Word) (c : Nat) : Word × Word × Word :=
  if o.cp then (nth l c 0, nth l (256 + c) 0, nth l (512 + c) 0) else (one32 true, if o.zp then nth l c 0 else 0, 0)

/-- The values q of a row (R206). -/
def Arr.drainRow (a : Arr) (o : DrainOpt) (table : List Word) (tile row : Nat) : List DVal :=
  let l := a.sumOf tile row
  (a.accRow tile row).mapIdx (fun c x => let (sc, z, b) := drainTable o table c; drainVal o x l sc z b)

/-- Is the column table's part that is read aligned and in range (R205)? -/
def State.tableOk (s : State) (core : Nat) (o : ArrOp) (opt : DrainOpt) (b : Nat) : Bool :=
  if opt.cp then s.sharedFits o core (b % 2 ^ 20) 3072
  else if opt.zp then s.sharedFits o core (b % 2 ^ 20 + 1024) 1024 else true

/-- Common fields of a drain's descriptor that are outside their values. -/
def drainBad (w : Word) : Bool :=
  decide (fld w 29 3 ≠ 0) || decide (fld w 22 7 = 0) || decide (64 < fld w 22 7) || decide (64 < fld w 16 6 + fld w 22 7) ||
    decide (fld w 10 2 = 3) || w.getLsbD 3

/-- DDRN (R207). -/
def State.runDdrn (s : State) (core : Nat) (a : Arr) (o : ArrOp) : ArrRes :=
  let fail := fun c => ArrRes.mk s a (stat c)
  let w := o.val 0
  let m := fld w 22 7
  let row0 := fld w 16 6
  let tile := fld w 0 3
  let opt := drainOpt w
  let fmt := fld w 4 4
  let f := if fmt = 3 then f32 else if fmt = 4 then f16 else bf16
  let width := if fmt = 3 then 1024 else 512
  let at_ := (o.val 1).toNat
  let b := (o.val 2).toNat
  if drainBad w || decide (fld w 12 2 ≠ 0) || !(fmt == 3 || fmt == 4 || fmt == 5) then fail 0x20
  else if at_ % 16 ≠ 0 ∨ ((opt.cp || opt.zp) && decide (b % 16 ≠ 0)) then fail 0x21
  else if !s.sharedFits o core (at_ % 2 ^ 20) (m * width) || !s.tableOk core o opt b then fail 0x24
  else if (opt.cp || opt.zp) && !o.capturedBad.isEmpty then fail 0x26
  else
    let (s, a) := (List.range m).foldl (fun (x : State × Arr) i =>
      let q := x.2.drainRow opt o.captured tile (row0 + i)
      let s := x.1.sharedPut o (at_ % 2 ^ 20 + i * width) (packCodes (f.magBits + 1) (q.map (DVal.round f)))
      (s, if w.getLsbD 15 then x.2.clearRow tile (row0 + i) else x.2)) (s, a)
    ⟨s.sharedFill o at_ (m * width / 4), a, stat 0 (m * width)⟩

/-- The eight scales and the element codes of a drained row (R208). -/
def quantRow (el : Elem) (happ : Nat) (q : List DVal) : List Nat × List Nat :=
  let q := if happ = 1 then hadDVals 16 q else if happ = 2 then hadDVals 32 q else q
  let blocks := (List.range 8).map (fun j => (q.drop (32 * j)).take 32)
  let scales := blocks.map (blockScale el)
  (scales, (blocks.zip scales).flatMap (fun x => x.1.map (blockElem el x.2)))

/-- DDRQ (R208). -/
def State.runDdrq (s : State) (core : Nat) (a : Arr) (o : ArrOp) : ArrRes :=
  let fail := fun c => ArrRes.mk s a (stat c)
  let w := o.val 0
  let m := fld w 22 7
  let row0 := fld w 16 6
  let tile := fld w 0 3
  let opt := drainOpt w
  let t := tagOf (BitVec.ofNat 4 (fld w 4 4))
  let el := Tag.elem t
  let width := 256 * el.bits / 8
  let at_ := (o.val 1).toNat
  let b := (o.val 2).toNat
  if drainBad w || decide (fld w 12 2 = 3) || !mxTag t then fail 0x20
  else if at_ % 16 ≠ 0 ∨ ((opt.cp || opt.zp) && decide (b % 16 ≠ 0)) then fail 0x21
  else if !s.sharedFits o core (at_ % 2 ^ 20) (m * (width + 16)) || !s.tableOk core o opt b then fail 0x24
  else if (opt.cp || opt.zp) && !o.capturedBad.isEmpty then fail 0x26
  else
    let (s, a) := (List.range m).foldl (fun (x : State × Arr) i =>
      let (scales, codes) := quantRow el (fld w 12 2) (x.2.drainRow opt o.captured tile (row0 + i))
      let s := x.1.sharedPut o (at_ % 2 ^ 20 + i * width) (packCodes el.bits codes)
      let s := s.sharedPut o (at_ % 2 ^ 20 + m * width + 16 * i) (packScales scales)
      (s, if w.getLsbD 15 then x.2.clearRow tile (row0 + i) else x.2)) (s, a)
    ⟨s.sharedFill o at_ (m * (width + 16) / 4), a, stat 0 (m * (width + 16))⟩

/-! The score unit (R210, R213 to R215). -/

/-- Index of the first word of an image that is not valid, in the order of the checks (R210). -/
def spgmBad (img : List Word) : Option Nat :=
  let c := nth img 20 0
  if 16 < c.toNat then some 0xFF
  else
    match (List.range c.toNat).find? (fun k => !scValid (nth img k 0)) with
    | some k => some k
    | none => [21, 22, 23].find? (fun k => decide (nth img k 0 ≠ 0))

/-- SPGM (R210). -/
def State.runSpgm (s : State) (core : Nat) (a : Arr) (o : ArrOp) : ArrRes :=
  let at_ := (o.val 0).toNat
  if at_ % 16 ≠ 0 then ⟨s, a, stat 0x21⟩
  else if !s.sharedFits o core (at_ % 2 ^ 20) 96 then ⟨s, a, stat 0x24⟩
  else if !o.capturedBad.isEmpty then ⟨s, a, stat 0x26⟩
  else
    match spgmBad o.captured with
    | some k => ⟨s, a, stat 0x20 k⟩
    | none =>
      let n := (nth o.captured 20 0).toNat
      ⟨s, { a with score := ⟨o.captured.take 16, (o.captured.drop 16).take 4, n⟩ }, stat 0 n⟩

/-- One row of DSCR (R214): the array and the probability codes. -/
def Arr.scoreRow (a : Arr) (stile otile row qbase kbase h : Nat) (clr : Bool) : Arr × List Word :=
  let xs := (a.accRow stile row).mapIdx (fun c x => scoreOf a.score x (qbase + row) (kbase + c) h)
  let (mn, alpha, p) := softRow (a.maxOf otile row) xs
  let a := if alpha = one32 true then a
    else (a.setAccRow otile row ((a.accRow otile row).map (rescale alpha))).setSum otile row (rescale alpha (a.sumOf otile row))
  let a := a.setMax otile row mn
  (if clr then a.clearRow stile row else a, p)

/-- DSCR (R213, R214). What it writes sets full bits as a drain does (R187, DESIGN CHOICE, log entry 135). -/
def State.runDscr (s : State) (core : Nat) (a : Arr) (o : ArrOp) : ArrRes :=
  let fail := fun c => ArrRes.mk s a (stat c)
  let w := o.val 0
  let m := fld w 22 7
  let row0 := fld w 16 6
  let pf := fld w 4 4
  let f := if pf = 4 then f16 else if pf = 5 then bf16 else if pf = 6 then e4m3 else e5m2
  let width := if pf ≤ 5 then 512 else 256
  let at_ := (o.val 1).toNat
  let qbase := fld (o.val 2) 0 24
  let h := fld (o.val 2) 24 8
  let kbase := fld (o.val 3) 0 24
  if o.hints.src.isNone ∨ fld w 29 3 ≠ 0 ∨ m = 0 ∨ 64 < m ∨ 64 < row0 + m ∨ fld w 11 4 ≠ 0 ∨ w.getLsbD 3 ∨ !(decide (4 ≤ pf) && decide (pf ≤ 7)) ∨
      fld w 8 3 = fld w 0 3 ∨ fld (o.val 3) 24 8 ≠ 0 ∨ 2 ^ 24 ≤ qbase + 63 ∨ 2 ^ 24 ≤ kbase + 255 then fail 0x20
  else if at_ % 16 ≠ 0 then fail 0x21
  else if !s.sharedFits o core (at_ % 2 ^ 20) (m * width) then fail 0x24
  else
    let (s, a) := (List.range m).foldl (fun (x : State × Arr) i =>
      let (a, p) := x.2.scoreRow (fld w 0 3) (fld w 8 3) (row0 + i) qbase kbase h (w.getLsbD 15)
      (x.1.sharedPut o (at_ % 2 ^ 20 + i * width) (packCodes (f.magBits + 1) (p.map (fun v => (convFloat f32 f .rne false (f32.decode v.toNat)).1))), a)) (s, a)
    ⟨s.sharedFill o at_ (m * width / 4), a, stat 0 (m * width)⟩

/-- One row of SMRG (R215); `ob` gives the partial's row. -/
def Arr.mergeRow (a : Arr) (t row : Nat) (mb lb : Word) (ob : List Word) : Arr :=
  match mergeFactors (a.maxOf t row) mb with
  | none => a
  | some (m, al, be) =>
    let acc := ((a.accRow t row).zip ob).map (fun x => mergeF x.1 al x.2 be)
    ((a.setAccRow t row acc).setSum t row (mergeF (a.sumOf t row) al lb be)).setMax t row m

/-- Is a word poisoned that SMRG reads for a row: the pair, and the row of the partial unless the row is left
unchanged (R215)? -/
def State.mergeBad (s : State) (a : Arr) (o : ArrOp) (t row0 at_ b i : Nat) : Bool :=
  s.runBad o (b % 2 ^ 20 + 8 * i) 2 ||
    ((mergeFactors (a.maxOf t (row0 + i)) (nth (s.sharedRun o (b % 2 ^ 20 + 8 * i) 1) 0 0)).isSome && s.runBad o (at_ % 2 ^ 20 + 1024 * i) 256)

/-- Is what SMRG reads for a row in the allocation: the maximum of the pair, and the sum and the row of the partial unless the
row is left unchanged (R189, R215)? -/
def State.mergeFits (s : State) (core : Nat) (a : Arr) (o : ArrOp) (t row0 at_ b i : Nat) : Bool :=
  s.sharedFits o core (b % 2 ^ 20 + 8 * i) 4 &&
    ((mergeFactors (a.maxOf t (row0 + i)) (nth (s.sharedRun o (b % 2 ^ 20 + 8 * i) 1) 0 0)).isNone ||
      (s.sharedFits o core (b % 2 ^ 20 + 8 * i) 8 && s.sharedFits o core (at_ % 2 ^ 20 + 1024 * i) 1024))

/-- SMRG (R215). -/
def State.runSmrg (s : State) (core : Nat) (a : Arr) (o : ArrOp) : ArrRes :=
  let fail := fun c => ArrRes.mk s a (stat c)
  let w := o.val 0
  let m := fld w 22 7
  let row0 := fld w 16 6
  let t := fld w 0 3
  let at_ := (o.val 1).toNat
  let b := (o.val 2).toNat
  if fld w 29 3 ≠ 0 ∨ fld w 3 13 ≠ 0 ∨ m = 0 ∨ 64 < m ∨ 64 < row0 + m then fail 0x20
  else if at_ % 16 ≠ 0 ∨ b % 16 ≠ 0 then fail 0x21
  else if !(List.range m).all (s.mergeFits core a o t row0 at_ b) then fail 0x24
  else if (List.range m).any (s.mergeBad a o t row0 at_ b) then fail 0x26
  else
    let a := (List.range m).foldl (fun (a : Arr) i =>
      let pair := s.sharedRun o (b % 2 ^ 20 + 8 * i) 2
      a.mergeRow t (row0 + i) (nth pair 0 0) (nth pair 1 0) (s.sharedRun o (at_ % 2 ^ 20 + 1024 * i) 256)) a
    ⟨s, a, stat 0 m⟩

/-! DPASS (R198). -/

/-- What DPASS reads of a plane. -/
def Plane.passWord (p : Plane) : Word :=
  BitVec.ofNat 32 (p.passes + 16 * p.fmt + (if p.poison then 2 ^ 8 else 0) + (if p.tritBad then 2 ^ 9 else 0) + 2 ^ 10 * p.had)

/-! The operations. -/

/-- A re-forming or releasing DGANG takes effect (R185, R421). -/
def Arr.regang (a : Arr) (l : List Nat) : Arr := if l.isEmpty then a.released else { a with gang := gangWord l }

/-- The whole effect of an operation, and its STAT. -/
def State.runArr (s : State) (core : Nat) (a : Arr) (o : ArrOp) : ArrRes :=
  match o.instr with
  | .dld _ _ _ => s.runDld core a o false
  | .dldl _ _ _ => s.runDld core a o true
  | .dswap => ⟨s, { a with active := a.shadow, shadow := a.active }, stat 0⟩
  | .dstr _ _ _ => s.runDstr core a o false
  | .dstrn _ _ _ => s.runDstr core a o true
  | .dzro imm => ⟨s, a.zero (imm.toNat % 256), stat 0⟩
  | .ddrn _ _ _ => s.runDdrn core a o
  | .ddrq _ _ _ => s.runDdrq core a o
  | .spgm _ _ => s.runSpgm core a o
  | .dscr _ _ _ => s.runDscr core a o
  | .smrg _ _ _ => s.runSmrg core a o
  | .dgang _ _ => ⟨s, a.regang (o.newList.getD []), stat 0 (o.newList.getD []).length⟩
  | .dpass _ _ => ⟨s, a, (if (o.val 0).getLsbD 0 then a.shadow else a.active).passWord⟩
  | _ => ⟨s, a, stat 0⟩

/-- Resources an operation uses (R186): the shadow plane, the active plane, tiles as a mask, the score
program; the runs of shared memory written and read, by first byte and length. -/
structure ArrUse where
  shadow : Bool := false
  active : Bool := false
  tiles : Nat := 0
  score : Bool := false
  wr : List (Nat × Nat) := []
  rd : List (Nat × Nat) := []
  all : Bool := false

/-- The run of shared memory that an operation writes: first byte and words. -/
def ArrOp.written (o : ArrOp) : Option (Nat × Nat) :=
  let w := o.val 0
  let m := fld w 22 7
  let at_ := (o.val 1).toNat % 2 ^ 20
  match o.instr with
  | .ddrn _ _ _ => some (at_, m * (if fld w 4 4 = 3 then 256 else 128))
  | .ddrq _ _ _ => some (at_, m * (256 * (Tag.elem (tagOf (BitVec.ofNat 4 (fld w 4 4)))).bits / 8 + 16) / 4)
  | .dscr _ _ _ => some (at_, m * (if fld w 4 4 ≤ 5 then 128 else 64))
  | _ => none

/-- The runs of shared memory that an operation reads while it runs: the columns of a block, the rows of a stream with
their scales, a partial with its pairs. -/
def ArrOp.readRuns (o : ArrOp) : List (Nat × Nat) :=
  let w := o.val 0
  let m := fld w 22 7
  let at_ := (o.val 1).toNat % 2 ^ 20
  match o.instr with
  | .dld _ _ _ | .dldl _ _ _ =>
    (match dldDesc (match o.instr with | .dldl _ _ _ => true | _ => false) w with
     | some d => if d.tile then [] else (List.range 256).map (fun c => (at_ + c * d.stride, colBytes d.fmt))
     | none => [])
  | .dstr _ _ _ | .dstrn _ _ _ =>
    let bytes := streamBytes (tagOf (BitVec.ofNat 4 (fld w 4 4)))
    let stride := if o.val 2 = 0 then bytes else (o.val 2).toNat
    (List.range m).map (fun i => (at_ + i * stride, bytes)) ++ (if w.getLsbD 8 then [((o.val 3).toNat % 2 ^ 20, 4 * ((m + 1) / 2))] else [])
  | .smrg _ _ _ => [(at_, m * 1024), ((o.val 2).toNat % 2 ^ 20, m * 8)]
  | _ => []

/-- The run that an operation captured at the rendezvous. -/
def ArrOp.capRun (o : ArrOp) : List (Nat × Nat) := (captureRange o.instr o.vals).toList.map (fun x => (x.1 % 2 ^ 20, 4 * x.2))

/-- The resources that an operation uses, the words it has captured among them. -/
def ArrOp.uses (o : ArrOp) : ArrUse :=
  let runs : ArrUse := { rd := o.readRuns ++ o.capRun, wr := o.written.toList.map (fun x => (x.1, 4 * x.2)) }
  match o.instr with
  | .dld _ _ _ | .dldl _ _ _ => { runs with shadow := true }
  | .dswap => { runs with shadow := true, active := true }
  | .dstr _ _ _ | .dstrn _ _ _ => { runs with active := true, tiles := 2 ^ fld (o.val 0) 0 3 }
  | .dzro imm => { runs with tiles := imm.toNat % 256 }
  | .ddrn _ _ _ | .ddrq _ _ _ | .smrg _ _ _ => { runs with tiles := 2 ^ fld (o.val 0) 0 3 }
  | .spgm _ _ => { runs with score := true }
  | .dscr _ _ _ => { runs with tiles := 2 ^ fld (o.val 0) 0 3 ||| 2 ^ fld (o.val 0) 8 3, score := true }
  | _ => { runs with all := true }

/-- Do two runs share a byte? -/
def runsMeet (x y : Nat × Nat) : Bool := decide (0 < x.2) && decide (0 < y.2) && decide (x.1 < y.1 + y.2) && decide (y.1 < x.1 + x.2)

/-- Does a run of one list share a byte with one of another? -/
def anyMeet (l m : List (Nat × Nat)) : Bool := l.any (fun x => m.any (runsMeet x))

/-- Do an operation and a later one share a resource? -/
def ArrUse.conflicts (p q : ArrUse) : Bool :=
  p.all || q.all || (p.shadow && q.shadow) || (p.active && q.active) || decide (p.tiles &&& q.tiles ≠ 0) || (p.score && q.score) ||
    anyMeet p.wr (q.wr ++ q.rd) || anyMeet p.rd q.wr

/-- May an operation start: its pipeline has finished those before it, and no earlier one that has not
run shares a resource (R186)? DGANG and DPASS wait for every earlier operation to complete. -/
def ArrOp.mayStart (o : ArrOp) (before : List ArrOp) : Bool :=
  before.all (fun p => decide (arrPipe p.instr ≠ arrPipe o.instr) && !o.uses.all && (p.stat.isSome || !p.uses.conflicts o.uses))

/-- The flags HORD gave an operation. -/
def ArrOp.order (o : ArrOp) : Bool × Bool × Scope :=
  match o.hints.ord with
  | some (_, u, sc) => (u.getLsbD 0, u.getLsbD 1, sc)
  | none => (false, false, .dev)

/-- The words that a later operation has captured, once an earlier one has written shared memory: the
operations take effect one at a time in rendezvous order, so a captured word that the earlier one writes
is captured as it leaves it (R186, R187). -/
def State.recapture (s : State) (o p : ArrOp) : ArrOp :=
  match o.written, captureRange p.instr p.vals with
  | some (at_, n), some (c, _) =>
    let hit := fun (k : Nat) => decide (at_ ≤ (c + 4 * k) % 2 ^ 20) && decide ((c + 4 * k) % 2 ^ 20 < at_ + 4 * n)
    { p with
      captured := p.captured.mapIdx (fun k w => if hit k then s.readShared p.team (sharedKey p.upper (c + 4 * k)) else w)
      capturedBad := (List.range p.captured.length).filter (fun k =>
        if hit k then s.sharedBad p.team p.upper (c + 4 * k) 1 else decide (k ∈ p.capturedBad)) }
  | _, _ => p

/-- The operations of a core when one has been performed: it has its STAT, and those after it have captured
what it wrote. -/
def State.opsAfter (s : State) (ops : List ArrOp) (o : ArrOp) (w : Word) : List ArrOp :=
  ops.map (fun p =>
    if p.id = o.id then { p with stat := some w }
    else if o.id < p.id ∧ w.toNat / 2 ^ 24 = 0x80 then s.recapture o p else p)

/-- The tile words that an operation reads: the columns of a DLD or DLDL from tile space (R190). -/
def ArrOp.tileWords (o : ArrOp) : List Nat :=
  let of := fun (lut : Bool) => match dldDesc lut (o.val 0) with
    | some d => if d.tile then (List.range 256).flatMap (tileCol d (o.val 1).toNat) else []
    | none => []
  match o.instr with
  | .dld _ _ _ => of false
  | .dldl _ _ _ => of true
  | _ => []

/-- ARRAY_OP_START (R186): the first operation of a pipeline that may start is performed whole; it waits for tile words
that an evacuation moves (R287, R365). -/
def execArrayOpStart (core pipe : Nat) (s : State) : Host.Outcome State Fault Refusal :=
  let a := s.arr core
  match a.ops.find? (fun o => decide (arrPipe o.instr = pipe)) with
  | none => .next s
  | some o =>
    if o.stat.isSome || !o.mayStart (a.ops.takeWhile (fun p => decide (p.id ≠ o.id))) || o.tileWords.any s.tileWaits then .next s
    else
      let (acq, rel, sc) := o.order
      let g := o.group core
      let s := if acq then s.acquireL1 g sc else s
      let r := s.runArr core a o
      let s := if rel then r.s.releaseL1 g sc else r.s
      let s := s.setArr { r.a with ops := s.opsAfter r.a.ops o r.w }
      .next (State.settle (s.latch core))

/-- TRAPMASK.TRITEN of a context. -/
def State.triten (s : State) (ctx : Nat) : Bool :=
  match s.ctx? ctx with
  | some c => c.trapMask.getLsbD 0
  | none => false

/-- The tag of an array result (R181). -/
def arrTag : Instr → Tag
  | .dpass _ _ => .nat
  | _ => .stat

/-- Does the STAT of a load leave a TRIT trap (R196)? -/
def tritStat (i : Instr) (w : Word) : Bool :=
  match i with
  | .dld _ _ _ => decide (w.toNat / 2 ^ 24 = 0x80) && w.getLsbD 23
  | _ => false

/-- A result reaches a participant: d and `lat`, and the TRIT trap held against them (R181, R196). -/
def Thread.arrResult (t : Thread) (id : Nat) (d : Sel) (i : Instr) (w : Word) (triten : Bool) (pc : Word) : Thread :=
  let regs := (if d.toNat < 0xF8 then [d.toNat] else []) ++ (if t.latOwner = some id then [0xF8] else [])
  let u := t.late id d ⟨w, arrTag i⟩
  if triten && tritStat i w && !regs.isEmpty then { u with attr := u.attr ++ [⟨⟨.trit, 0, w.setWidth 64, .attributed⟩, pc, regs, false, d.toNat⟩] } else u

/-- Results of an operation to all its members. TRAPMASK.TRITEN is looked at now, when the STAT is delivered (R196, DESIGN
CHOICE, log entry 136). -/
def State.arrDeliver (s : State) (o : ArrOp) (w : Word) : State :=
  o.members.foldl (fun s m =>
    match m.dst with
    | none => s
    | some d => s.modThreads m.key m.tids (fun t => if t.exited then t else t.arrResult o.id d o.instr w (s.triten o.team.ctx) m.pc)) s

/-- Has a group gang operations past their rendezvous (R216)? -/
def State.arrBusy (s : State) (k : GKey) : Bool :=
  s.arrs.any (fun a => a.ops.any (fun o => (match o.instr with | .dpass _ _ => false | _ => true) && o.members.any (fun m => decide (m.key = k))))

/-- Threads of groups with nothing more in flight leave DWAIT and try it again (R216). -/
def State.dwaitWake (s : State) (o : ArrOp) : State :=
  o.members.foldl (fun s m => if s.arrBusy m.key then s
    else s.modGroup m.key (fun g => { g with threads := g.threads.map (fun t => if t.block = some .dwait then { t with block := none } else t) })) s

/-- ARRAY_OP_COMPLETE (R188): the STAT of the pipeline's operation is delivered, and it leaves. -/
def execArrayOpComplete (core pipe : Nat) (s : State) : Host.Outcome State Fault Refusal :=
  let a := s.arr core
  match a.ops.find? (fun o => decide (arrPipe o.instr = pipe)) with
  | none => .next s
  | some o =>
    match o.stat with
    | none => .next s
    | some w =>
      let s := s.setArr { a with ops := a.ops.filter (fun p => decide (p.id ≠ o.id)) }
      let s := (s.arrDeliver o w).dwaitWake o
      .next (State.settle ((s.claimArr core).latch core)).reap

end Sys2Proof.Machine
end

