-- ==== Sys2Proof/Machine/LaneFloat.lean ====
section
/-! DEFINITION. What one lane of the float and compare instructions computes (classes 0x3, 0x4: R102
to R109). -/

namespace Sys2Proof.Machine

/-- A class 0x3 instruction on FLT sources (R102): operands flushed, result flushed (R52, R87). -/
def flt1 (v : View) (d a : Sel) (op : Nat → Nat × Fl) : Except Trap LaneOut :=
  v.withValues (v.slots (some a)) (· == .flt) (fun _ =>
    let r := flushOut v.t.flush (op (flushIn v.t.flush (v.val a).toNat))
    LaneOut.res d (BitVec.ofNat 32 r.1) .flt r.2)

/-- A class 0x3 instruction of two sources. -/
def flt2 (v : View) (d a b : Sel) (op : Nat → Nat → Nat × Fl) : Except Trap LaneOut :=
  v.withValues (v.slots (some a) (some b)) (· == .flt) (fun _ =>
    let r := flushOut v.t.flush (op (flushIn v.t.flush (v.val a).toNat) (flushIn v.t.flush (v.val b).toNat))
    LaneOut.res d (BitVec.ofNat 32 r.1) .flt r.2)

/-- Quotient of two binary32 values (R102, R104). -/
def fDiv (mode : RMode) (x y : FVal) : Nat × Fl :=
  let sn := snanFl [x, y]
  let neg := x.neg != y.neg
  match x, y with
  | .nan _ _ _, _ => (f32.nanCode, sn)
  | _, .nan _ _ _ => (f32.nanCode, sn)
  | .inf _, .inf _ => (f32.nanCode, fNV)
  | .inf _, .fin _ _ _ => (infC neg, 0)
  | .fin _ _ _, .inf _ => (zeroC neg, 0)
  | .fin _ m e, .fin _ m' e' =>
    if m' = 0 then (if m = 0 then (f32.nanCode, fNV) else (infC neg, fDZ))
    else roundMag f32 mode false neg ⟨m, m', e - e'⟩

/-- Square root (R102, R104). -/
def fSqrt (mode : RMode) (x : FVal) : Nat × Fl :=
  match x with
  | .nan _ q _ => (f32.nanCode, if q then 0 else fNV)
  | .inf n => if n then (f32.nanCode, fNV) else (infC false, 0)
  | .fin n m e =>
    if m = 0 then (zeroC n, 0) else if n then (f32.nanCode, fNV)
    else roundMag f32 mode false false (sqrtMag m e)

/-- Rounding to an integral value (R102, R104). -/
def fRint (mode : RMode) (x : FVal) : Nat × Fl :=
  match x with
  | .nan _ q _ => (f32.nanCode, if q then 0 else fNV)
  | .inf n => (infC n, 0)
  | .fin n m e =>
    let (k, inexact) := roundGrid mode n ⟨m, 1, e⟩ 0
    ((roundMag f32 mode false n ⟨k, 1, 0⟩).1, if inexact then fNX else 0)

/-- b truncated and clamped to ±1,024 (R105). -/
def scalbExp (n : Bool) (m : Nat) (e : Int) : Int :=
  let k := (roundGrid .rtz false ⟨m, 1, e⟩ 0).1
  let k := if 1024 < k then 1024 else k
  if n then -(k : Int) else k

/-- a × 2^b (R105). -/
def fScalb (mode : RMode) (x y : FVal) : Nat × Fl :=
  let sn := snanFl [x, y]
  match x, y with
  | .nan _ _ _, _ => (f32.nanCode, sn)
  | _, .nan _ _ _ => (f32.nanCode, sn)
  | x, .inf false => if x.isZero then (f32.nanCode, fNV) else (infC x.neg, 0)
  | x, .inf true => if x.isInf then (f32.nanCode, fNV) else (zeroC x.neg, 0)
  | .inf n, .fin _ _ _ => (infC n, 0)
  | .fin n m e, .fin n' m' e' => roundMag f32 mode false n ⟨m, 1, e + scalbExp n' m' e'⟩

/-- The class bit of a binary32 code (R106). -/
def fclsBit (c : Nat) : Nat :=
  match f32.decode c with
  | .inf true => 0
  | .inf false => 7
  | .nan _ quiet _ => if quiet then 9 else 8
  | .fin n m _ =>
    if m = 0 then (if n then 3 else 4)
    else if subnormal32 c then (if n then 2 else 5)
    else (if n then 1 else 6)

/-- DIVF (R102, R104). -/
def laneDivf (d a b : Sel) (v : View) : Except Trap LaneOut :=
  flt2 v d a b (fun x y => fDiv v.t.mode (f32.decode x) (f32.decode y))
/-- RCP (R103, R104). -/
def laneRcp (d a : Sel) (v : View) : Except Trap LaneOut := flt1 v d a approxRcp
/-- RSQ (R103, R104). -/
def laneRsq (d a : Sel) (v : View) : Except Trap LaneOut := flt1 v d a approxRsq
/-- SQRT (R102, R104). -/
def laneSqrt (d a : Sel) (v : View) : Except Trap LaneOut := flt1 v d a (fun x => fSqrt v.t.mode (f32.decode x))
/-- EXP2 (R103, R104). -/
def laneExp2 (d a : Sel) (v : View) : Except Trap LaneOut := flt1 v d a approxExp2
/-- LOG2 (R103, R104). -/
def laneLog2 (d a : Sel) (v : View) : Except Trap LaneOut := flt1 v d a approxLog2
/-- SIN (R103, R104). -/
def laneSin (d a : Sel) (v : View) : Except Trap LaneOut := flt1 v d a (approxSinCos false)
/-- COS (R103, R104). -/
def laneCos (d a : Sel) (v : View) : Except Trap LaneOut := flt1 v d a (approxSinCos true)
/-- TANH (R103, R104). -/
def laneTanh (d a : Sel) (v : View) : Except Trap LaneOut := flt1 v d a approxTanh
/-- RINT (R102, R104). -/
def laneRint (d a : Sel) (v : View) : Except Trap LaneOut := flt1 v d a (fun x => fRint v.t.mode (f32.decode x))
/-- SCALB (R105). -/
def laneScalb (d a b : Sel) (v : View) : Except Trap LaneOut :=
  flt2 v d a b (fun x y => fScalb v.t.mode (f32.decode x) (f32.decode y))
/-- FCLS (R106): a NAT mask of the class of the flushed operand; no flag. -/
def laneFcls (d a : Sel) (v : View) : Except Trap LaneOut :=
  v.withValues (v.slots (some a)) (· == .flt) (fun _ =>
    LaneOut.res d (BitVec.ofNat 32 (2 ^ fclsBit (flushIn v.t.flush (v.val a).toNat))) .nat)

/-! Class 0x4 (R107 to R109). -/

/-- INT NAT FLT RAW PRED STAT (R107). -/
def eqTag (t : Tag) : Bool := t == .int || t == .nat || t == .flt || t == .raw || t == .pred || t == .stat

/-- A predicate word (R107). -/
def predWord (b : Bool) : Word := if b then 1 else 0

/-- The relations of the compares. -/
inductive Rel where
  | eq | ne | lt | le | gt | ge | uno
  deriving DecidableEq, Repr

/-- Is the relation an ordering (R108)? -/
def Rel.ordering : Rel → Bool
  | .lt | .le | .gt | .ge => true
  | .eq | .ne | .uno => false

/-- A relation between values with a strict order; `lt x y`, `eq`. -/
def Rel.ofOrder (r : Rel) (lt eq gt : Bool) : Bool :=
  match r with
  | .eq => eq
  | .ne => !eq
  | .lt => lt
  | .le => lt || eq
  | .gt => gt
  | .ge => gt || eq
  | .uno => false

/-- A relation between two float values (R108): false with a NaN but for ≠ and unordered. -/
def Rel.onFloat (r : Rel) (x y : FVal) : Bool :=
  if x.isNan || y.isNan then r == .ne || r == .uno
  else r.ofOrder (fLt x y) (!fLt x y && !fLt y x) (fLt y x)

/-- A compare of two words in a tag: result and flags (R108). -/
def compareIn (r : Rel) (t : Tag) (flush : Bool) (x y : Word) : Bool × Fl :=
  if t = .flt then
    let a := f32.decode (flushIn flush x.toNat)
    let b := f32.decode (flushIn flush y.toNat)
    (r.onFloat a b, cmpFl r.ordering a b)
  else (r.ofOrder (intLt t x y) (x == y) (intLt t y x), 0)

/-- A register compare (R107). -/
def cmp2 (r : Rel) (accept : Tag → Bool) (v : View) (d a b : Sel) : Except Trap LaneOut :=
  v.withValues (v.slots (some a) (some b)) accept (fun t =>
    let q := compareIn r t v.t.flush (v.val a) (v.val b)
    LaneOut.res d (predWord q.1) .pred q.2)

/-- An immediate compare (R92, R107). -/
def cmpI (r : Rel) (v : View) (d a : Sel) (imm : BitVec 8) : Except Trap LaneOut :=
  v.withValues (v.slots (some a)) immTag (fun t =>
    let q := compareIn r t v.t.flush (v.val a) (v.imm8 imm)
    LaneOut.res d (predWord q.1) .pred q.2)

/-- CEQ (R107). -/
def laneCeq (d a b : Sel) (v : View) : Except Trap LaneOut := cmp2 .eq eqTag v d a b
/-- CNE (R107). -/
def laneCne (d a b : Sel) (v : View) : Except Trap LaneOut := cmp2 .ne eqTag v d a b
/-- CLT (R107). -/
def laneClt (d a b : Sel) (v : View) : Except Trap LaneOut := cmp2 .lt immTag v d a b
/-- CLE (R107). -/
def laneCle (d a b : Sel) (v : View) : Except Trap LaneOut := cmp2 .le immTag v d a b
/-- CUNO (R107). -/
def laneCuno (d a b : Sel) (v : View) : Except Trap LaneOut := cmp2 .uno (· == .flt) v d a b
/-- CTAG (R109): any tag, VOID included. -/
def laneCtag (d a : Sel) (imm : BitVec 8) (v : View) : Except Trap LaneOut :=
  .ok (LaneOut.res d (predWord (decide ((tagCode (v.tag a)).toNat = imm.toNat))) .pred)
/-- CEQI (R107). -/
def laneCeqi (d a : Sel) (imm : BitVec 8) (v : View) : Except Trap LaneOut := cmpI .eq v d a imm
/-- CNEI (R107). -/
def laneCnei (d a : Sel) (imm : BitVec 8) (v : View) : Except Trap LaneOut := cmpI .ne v d a imm
/-- CLTI (R107). -/
def laneClti (d a : Sel) (imm : BitVec 8) (v : View) : Except Trap LaneOut := cmpI .lt v d a imm
/-- CLEI (R107). -/
def laneClei (d a : Sel) (imm : BitVec 8) (v : View) : Except Trap LaneOut := cmpI .le v d a imm
/-- CGTI (R107). -/
def laneCgti (d a : Sel) (imm : BitVec 8) (v : View) : Except Trap LaneOut := cmpI .gt v d a imm
/-- CGEI (R107). -/
def laneCgei (d a : Sel) (imm : BitVec 8) (v : View) : Except Trap LaneOut := cmpI .ge v d a imm

end Sys2Proof.Machine
end

