-- ==== Sys2Proof/Machine/LaneConv.lean ====
section
/-! DEFINITION. What one lane of the convert and format instructions computes, and what each lane of
the cross-lane instructions receives (classes 0x5, 0x6: R110 to R127). -/

namespace Sys2Proof.Machine

/-- Packed tags: numeric with more than one element (R110). -/
def packedTag (t : Tag) : Bool := t.numeric && decide (1 < tagCount t)

/-- Mode of a CVT (R111): its own field, or HRND or RNDM.MODE. -/
def cvtMode (v : View) (imm : BitVec 8) : RMode :=
  let m := (imm.extractLsb' 5 3).toNat
  if m = 0 then v.t.mode else (rmodeOf (BitVec.ofNat 3 (m - 1))).getD .rne

/-- CVT (R111). -/
def laneCvt (d a : Sel) (imm : BitVec 8) (v : View) : Except Trap LaneOut :=
  let src := v.tag a
  let dst := tagOf (imm.extractLsb' 0 4)
  let r := convReg src dst (cvtMode v imm) (imm.getLsbD 4) v.t.flush (v.val a)
  v.withTags (v.slots (some a)) src.numeric
    (if src = dst then LaneOut.res d (v.val a) dst else LaneOut.res d r.1 dst r.2)

/-- TAGR (R113). -/
def laneTagr (d a : Sel) (imm : BitVec 8) (v : View) : Except Trap LaneOut :=
  v.withTags (v.slots (some a)) (notVoid (v.tag a)) (LaneOut.res d (v.val a) (tagOf (imm.extractLsb' 0 4)))

/-- TAGQ (R113). -/
def laneTagq (d a : Sel) (v : View) : Except Trap LaneOut :=
  .ok (LaneOut.res d ((tagCode (v.tag a)).setWidth 32) .nat)

/-- PACK (R114). -/
def lanePack (d a b : Sel) (v : View) : Except Trap LaneOut :=
  let t := v.tag a
  v.withTags (v.slots (some a) (some b)) (packedTag t && v.tag b == t)
    (LaneOut.res d (joinElems t (nth (elems t (v.val b)) 0 0 :: (elems t (v.val a)).take (tagCount t - 1))) t)

/-- The pairs UNPKL and UNPKH permit (R115). -/
def unpackPair (src dst : Tag) : Bool :=
  match src with
  | .half2 | .bflt2 => dst == .flt
  | .e4m3q | .e5m2q | .int8q => dst == .half2 || dst == .bflt2
  | .e2m1o => dst == .e4m3q || dst == .e5m2q
  | .int4o => dst == .int8q
  | _ => false

/-- Widening the low or the high half (R115). A source that is not packed shows 15 and another pair the code
given (DEDUCED, log entry 87). -/
def unpackHalf (high : Bool) (d a : Sel) (imm : BitVec 8) (v : View) : Except Trap LaneOut :=
  let src := v.tag a
  let dst := tagOf (imm.extractLsb' 0 4)
  let n := tagCount dst
  let es := (if high then (elems src (v.val a)).drop n else elems src (v.val a)).take n
  let rs := es.map (convElem (Tag.elem src) (Tag.elem dst) v.t.mode false v.t.flush)
  if !packedTag src then .error (v.tagTrap (v.slots (some a)))
  else if !unpackPair src dst then .error (v.tagTrap (v.slots (some a)) (tagCode dst).toNat)
  else .ok (LaneOut.res d (joinElems dst (rs.map Prod.fst)) dst (orFl rs))

/-- UNPKL (R115). -/
def laneUnpkl (d a : Sel) (imm : BitVec 8) (v : View) : Except Trap LaneOut := unpackHalf false d a imm v
/-- UNPKH (R115). -/
def laneUnpkh (d a : Sel) (imm : BitVec 8) (v : View) : Except Trap LaneOut := unpackHalf true d a imm v

/-- A binary32 operand after FLUSH. -/
def View.fval (v : View) (s : Sel) : FVal := f32.decode (flushIn v.t.flush (v.val s).toNat)

/-- SCLC (R116). -/
def laneSclc (i : Instr) (d a b : Sel) (v : View) : Except Trap LaneOut :=
  let el := tagOf ((v.val b).extractLsb' 0 4)
  let r := chooseScale (Tag.elem el) [v.fval a]
  reservedValue i (!mxTag el)
    (v.withTags (v.slots (some a) (some b)) (v.tag a == .flt && notVoid (v.tag b))
      (LaneOut.res d (BitVec.ofNat 32 r.1) .scale r.2))

/-- QNT (R117): the code goes to element 0, the others move up. -/
def laneQnt (d a b : Sel) (v : View) : Except Trap LaneOut :=
  let t := v.tag d
  let r := quantise (Tag.elem t) v.t.mode (scaleOf (v.val b) 0) (v.fval a)
  v.withTags (v.slots (some a) (some b) (some d)) (v.tag a == .flt && v.tag b == .scale && mxTag t)
    (LaneOut.res d (joinElems t (r.1 :: (elems t (v.val d)).take (tagCount t - 1))) t r.2)

/-- A value rounded once to binary32, a NaN giving the canonical one. -/
def roundTo32 (mode : RMode) (x : FVal) : Nat × Fl :=
  match x with
  | .nan _ _ _ => (f32.nanCode, 0)
  | .inf n => (infC n, 0)
  | .fin n m e => roundMag f32 mode false n ⟨m, 1, e⟩

/-- DQNT (R118). -/
def laneDqnt (d a b : Sel) (v : View) : Except Trap LaneOut :=
  let t := v.tag a
  let k := (v.val d).toNat % 8 % tagCount t
  let r := flushOut v.t.flush (roundTo32 v.t.mode (dequant (Tag.elem t) (scaleOf (v.val b) 0) (nth (elems t (v.val a)) k 0)))
  v.withTags (v.slots (some a) (some b) (some d)) (mxTag t && v.tag b == .scale && shiftTag (v.tag d))
    (LaneOut.res d (BitVec.ofNat 32 r.1) .flt r.2)

/-- Signed values of the first five INT4 elements (R120). -/
def trits5 (w : Word) : List Int := ((elems .int4o w).take 5).map (intVal true 4)

/-- TRPK (R120). -/
def laneTrpk (d a b : Sel) (v : View) : Except Trap LaneOut :=
  let pa := tritByte (trits5 (v.val a))
  let pb := tritByte (trits5 (v.val b))
  let sat := (trits5 (v.val a) ++ trits5 (v.val b)).any (fun x => decide (x < -1) || decide (1 < x))
  v.withTags (v.slots (some a) (some b) (some d)) (v.tag a == .int4o && v.tag b == .int4o && v.tag d == .trit)
    (LaneOut.res d (BitVec.ofNat 32 ((v.val d).toNat % 2 ^ 16 * 2 ^ 16 + pb * 256 + pa)) .trit (if sat then fSAT else 0))

/-- TREX (R121). -/
def laneTrex (d a : Sel) (imm : BitVec 8) (v : View) : Except Trap LaneOut :=
  let r := tritsOf ((v.val a).toNat / 2 ^ (8 * imm.toNat) % 256)
  v.withTags (v.slots (some a)) (v.tag a == .trit)
    (LaneOut.res d (joinElems .int4o ((r.getD []).map (intCode 4))) .int4o (if r.isSome then 0 else fNV))

/-! Instructions that look at other lanes. The participants are the views of the issue group. -/

/-- The view of a lane number among the participants. -/
def laneAt (ps : List View) (l : Int) : Option View := ps.find? (fun p => decide ((p.t.lane : Int) = l))

/-- HADM (R119): lanes outside the issue group give +0. Each operand is flushed by its own lane's FLUSH, the
result by this lane's (DEDUCED, log entry 88). -/
def laneHadm (d a : Sel) (imm : BitVec 8) (ps : List View) (v : View) : Except Trap LaneOut :=
  let n := if imm.getLsbD 0 then 32 else 16
  let base := v.t.lane / n * n
  let xs := (List.range n).map (fun j =>
    match laneAt ps (base + j : Nat) with
    | some p => p.fval a
    | none => .fin false 0 0)
  let ts := hadTerms (v.t.lane % n) xs
  let nan := xs.any FVal.isNan
  let r := (sumTerms v.t.mode ts).round f32 v.t.mode
  let r := flushOut v.t.flush (if nan then (f32.nanCode, snanFl xs) else r)
  v.withTags (v.slots (some a)) (v.tag a == .flt) (LaneOut.res d (BitVec.ofNat 32 r.1) .flt r.2)

/-- The codebook registers of lanes 0 to 15 (R47); an exited lane supplies VOID (R131). -/
def codebook (g : Group) (b : Sel) : List Reg :=
  (List.range 16).map (fun k =>
    match g.threads.find? (fun t => decide (t.lane = k)) with
    | some t => if t.exited then Reg.void else readSel g t b
    | none => Reg.void)

/-- Tags a codebook may carry (R47). -/
def bookTag (t : Tag) : Bool := t == .bflt2 || t == .e4m3q || t == .e5m2q

/-- The TAG trap of a codebook (R47). -/
def bookTrap (book : List Reg) : Option Trap :=
  let t0 := (nth book 0 Reg.void).tag
  let mask := if !bookTag t0 then 0xFFFF
    else ((List.range 16).filter (fun k => (nth book k Reg.void).tag != t0)).foldl (fun m k => m + 2 ^ k) 0
  if mask = 0 then none else some ⟨.tag, 2, BitVec.ofNat 64 mask, .precise⟩

/-- LUTX (R47, R122). -/
def laneLutx (d a b : Sel) (v : View) : Except Trap LaneOut :=
  let book := codebook v.g b
  match bookTrap book with
  | some t => .error t
  | none =>
    let t := (nth book 0 Reg.void).tag
    let idx := (elems .int4o (v.val a)).take (tagCount t)
    v.withTags (v.slots (some a) (some b)) (v.tag a == .int4o || v.tag a == .raw)
      (LaneOut.res d (joinElems t (idx.map (fun k => (nth book k Reg.void).val.toNat))) t)

/-- What a lane receives from a source lane: its own a when the lane is outside the group or no
participant (R125). -/
def fromLane (ps : List View) (v : View) (a : Sel) (l : Int) : Reg :=
  match laneAt ps l with
  | some p => p.reg a
  | none => v.reg a

/-- A shuffle by an immediate (R124, R125); a moved value is not flushed (DEDUCED, log entry 89). -/
def shuffleI (ps : List View) (v : View) (d a : Sel) (l : Int) : Except Trap LaneOut :=
  v.withTags (v.slots (some a)) (notVoid (v.tag a))
    (LaneOut.res d (fromLane ps v a l).val (fromLane ps v a l).tag)

/-- SHFL (R124, R125). -/
def laneShfl (d a b : Sel) (ps : List View) (v : View) : Except Trap LaneOut :=
  let r := fromLane ps v a ((v.val b).toNat % v.g.width : Nat)
  v.withTags (v.slots (some a) (some b)) (notVoid (v.tag a) && shiftTag (v.tag b)) (LaneOut.res d r.val r.tag)
/-- SHFLX (R125). -/
def laneShflx (d a : Sel) (imm : BitVec 8) (ps : List View) (v : View) : Except Trap LaneOut :=
  shuffleI ps v d a (v.t.lane ^^^ imm.toNat : Nat)
/-- SHFLU (R125). -/
def laneShflu (d a : Sel) (imm : BitVec 8) (ps : List View) (v : View) : Except Trap LaneOut :=
  shuffleI ps v d a ((v.t.lane : Int) - imm.toNat)
/-- SHFLD (R125). -/
def laneShfld (d a : Sel) (imm : BitVec 8) (ps : List View) (v : View) : Except Trap LaneOut :=
  shuffleI ps v d a ((v.t.lane : Int) + imm.toNat)
/-- BCST (R125). -/
def laneBcst (d a : Sel) (imm : BitVec 8) (ps : List View) (v : View) : Except Trap LaneOut :=
  shuffleI ps v d a imm.toNat

/-- A vote (R124): it tests the value as it stands, FLUSH or not (DEDUCED, log entry 89). -/
def voteLane (v : View) (d a : Sel) (b : Bool) : Except Trap LaneOut :=
  v.withTags (v.slots (some a)) (notVoid (v.tag a)) (LaneOut.res d (predWord b) .pred)
/-- VALL (R124). -/
def laneVall (d a : Sel) (ps : List View) (v : View) : Except Trap LaneOut := voteLane v d a (ps.all (fun p => p.val a != 0))
/-- VANY (R124). -/
def laneVany (d a : Sel) (ps : List View) (v : View) : Except Trap LaneOut := voteLane v d a (ps.any (fun p => p.val a != 0))

/-- The half of a lane mask that a lane receives (R127). -/
def maskHalf (v : View) (lanes : List Nat) : Word :=
  BitVec.ofNat 32 (lanes.foldl (fun m l => m + 2 ^ l) 0 / 2 ^ (32 * (v.t.lane / 32)))

/-- BALLOT (R127). -/
def laneBallot (d a : Sel) (ps : List View) (v : View) : Except Trap LaneOut :=
  v.withTags (v.slots (some a)) (notVoid (v.tag a))
    (LaneOut.res d (maskHalf v ((ps.filter (fun p => p.val a != 0)).map (·.t.lane))) .nat)
/-- MATCH (R127). -/
def laneMatchAny (d a : Sel) (ps : List View) (v : View) : Except Trap LaneOut :=
  v.withTags (v.slots (some a)) (notVoid (v.tag a))
    (LaneOut.res d (maskHalf v ((ps.filter (fun p => p.val a == v.val a)).map (·.t.lane))) .nat)

/-- Insertion by lane. -/
def insertLane (p : View) : List View → List View
  | [] => [p]
  | q :: r => if p.t.lane ≤ q.t.lane then p :: q :: r else q :: insertLane p r

/-- The participants in lane order. -/
def byLane (ps : List View) : List View := ps.foldr insertLane []

/-- A sum over lanes: wrapping on INT and NAT, exact with one rounding on FLT (R126); FLUSH as log entry 88
says. -/
def sumLanes (v : View) (t : Tag) (a : Sel) (ps : List View) : Word × Fl :=
  if t = .flt then
    let xs := ps.map (fun p => p.fval a)
    let r := (sumTerms v.t.mode xs).round f32 v.t.mode
    let r := flushOut v.t.flush (r.1, r.2 ||| snanFl xs)
    (BitVec.ofNat 32 r.1, r.2)
  else (ps.foldl (fun s p => s + p.val a) 0, 0)

/-- RDADD (R126). -/
def laneRdadd (d a : Sel) (ps : List View) (v : View) : Except Trap LaneOut :=
  v.withTags (v.slots (some a)) (immTag (v.tag a))
    (LaneOut.res d (sumLanes v (v.tag a) a ps).1 (v.tag a) (sumLanes v (v.tag a) a ps).2)
/-- SCAN (R126): the participants up to and including this lane. -/
def laneScan (d a : Sel) (ps : List View) (v : View) : Except Trap LaneOut :=
  let qs := ps.filter (fun p => decide (p.t.lane ≤ v.t.lane))
  v.withTags (v.slots (some a)) (immTag (v.tag a))
    (LaneOut.res d (sumLanes v (v.tag a) a qs).1 (v.tag a) (sumLanes v (v.tag a) a qs).2)

/-- Minimum or maximum over lanes, folded by R91 over flushed operands, each by its own lane's FLUSH, the result by
the receiver's (log entry 88). -/
def extremeLanes (isMax flush : Bool) (t : Tag) (a : Sel) (ps : List View) : Word × Fl :=
  match ps with
  | [] => (0, 0)
  | p :: r =>
    if t = .flt then
      let c := fun (q : View) => flushIn q.t.flush (q.val a).toNat
      let z := r.foldl (fun acc q =>
        let m := fMinMax f32 isMax acc.1 (c q)
        (m.1, acc.2 ||| m.2)) (if (f32.decode (c p)).isNan then (f32.nanCode, snanFl [f32.decode (c p)]) else (c p, 0))
      let z := flushOut flush z
      (BitVec.ofNat 32 z.1, z.2)
    else (r.foldl (fun acc q => if isMax then iopMax t acc (q.val a) else iopMin t acc (q.val a)) (p.val a), 0)

/-- RDMAX (R124). -/
def laneRdmax (d a : Sel) (ps : List View) (v : View) : Except Trap LaneOut :=
  let r := extremeLanes true v.t.flush (v.tag a) a ps
  v.withTags (v.slots (some a)) (immTag (v.tag a)) (LaneOut.res d r.1 (v.tag a) r.2)
/-- RDMIN (R124). -/
def laneRdmin (d a : Sel) (ps : List View) (v : View) : Except Trap LaneOut :=
  let r := extremeLanes false v.t.flush (v.tag a) a ps
  v.withTags (v.slots (some a)) (immTag (v.tag a)) (LaneOut.res d r.1 (v.tag a) r.2)

/-- Does a lane's key rank below another's (R127)? NaNs stand above +∞ and equal one another. -/
def keyLt (t : Tag) (a : Sel) (x y : View) : Bool :=
  if t = .flt then
    if (x.fval a).isNan then false
    else if (y.fval a).isNan then true
    else fLt (x.fval a) (y.fval a)
  else intLt t (x.val a) (y.val a)

/-- RANK (R127). -/
def laneRank (d a : Sel) (ps : List View) (v : View) : Except Trap LaneOut :=
  let t := v.tag a
  let below := ps.filter (fun p =>
    keyLt t a p v || (!keyLt t a v p && decide (p.t.lane < v.t.lane)))
  v.withTags (v.slots (some a)) (immTag t) (LaneOut.res d (BitVec.ofNat 32 below.length) .nat)

/-- CMPCT (R127). -/
def laneCmpct (d a b : Sel) (ps : List View) (v : View) : Except Trap LaneOut :=
  let place := (ps.filter (fun p => decide (p.t.lane < v.t.lane))).length
  let sel := (byLane ps).filter (fun p => p.val b != 0)
  let r := match sel[place]? with
    | some p => p.reg a
    | none => ⟨0, v.tag a⟩
  v.withTags (v.slots (some a) (some b)) (notVoid (v.tag a) && notVoid (v.tag b)) (LaneOut.res d r.val r.tag)

end Sys2Proof.Machine
end

