-- ==== Sys2Proof/Machine/ArrayInstr.lean ====
section
/-! DEFINITION. The meanings of the digit-array instructions, class 0xC: the operands each reads, the
arrival at the rendezvous latch, DGANG, DWAIT and DPASS (R181 to R188, R198, R216). -/

namespace Sys2Proof.Machine

/-- The operands of an array instruction that a lane reads under its descriptor (R181): a, b and d. -/
structure ArrReads where
  a : Option Sel := none
  b : Option Sel := none
  d : Option Sel := none

/-- The operands read and the HSRC operand, in the order d, a, b, HSRC: that of a DSTR or DSTRN with MXS = 0, which ends
BADDESC, counts as read (DESIGN CHOICE, log entry 133). -/
def ArrReads.sels (r : ArrReads) (v : View) : List Sel := r.d.toList ++ r.a.toList ++ r.b.toList ++ v.t.hints.src.toList

/-- The sources a gang operation has, whether or not its descriptor has it read b (R19). -/
def gangSlots (i : Instr) (v : View) : Slots :=
  match i with
  | .dld d a b => v.slots (some a) (some b) (some d)
  | .ddrn d a b => v.slots (some a) (some b) (some d)
  | .ddrq d a b => v.slots (some a) (some b) (some d)
  | .dldl d a b => v.slots (some a) (some b) (some d)
  | .dstr d a b => v.slots (some a) (some b) (some d)
  | .dstrn d a b => v.slots (some a) (some b) (some d)
  | .dscr d a b => v.slots (some a) (some b) (some d)
  | .smrg d a b => v.slots (some a) (some b) (some d)
  | .spgm _ a => v.slots (some a)
  | _ => v.slots

/-- The tag check: descriptors, counts, strides, positions and addresses (R181). -/
def ArrReads.tags (r : ArrReads) (sl : Slots) (v : View) : Option Trap :=
  tagsOk v sl ((r.sels v).all (fun x => addrTag (v.tag x)))

/-- Has a group tile words to write that a load of tile space must see (R254)? -/
def State.tileOutstanding (s : State) (k : GKey) : Bool :=
  s.pends.any (fun p => p.writes && decide (p.key = k) && p.accs.any (fun a => match a.loc with | .tile _ => true | _ => false))

/-- Does a DLD read its columns from tile space (R190)? -/
def tileSource (i : Instr) (vals : List Word) : Bool :=
  match i with
  | .dld _ _ _ | .dldl _ _ _ => (nth vals 0 0).getLsbD 4
  | _ => false

/-- Must an arrival wait: for the group's shared-memory accesses, for its tile stores if the operation reads
tile space, and for all of the participants' before a release (R187, R254)? -/
def State.arrWait (s : State) (g : Group) (ts : List Thread) (tile : Bool) : Bool :=
  s.sharedOutstanding g.key || (tile && s.tileOutstanding g.key) || ((ts.headD { tid := 0, lane := 0, pc := 0 }).hints.ord.any (fun o => o.2.1.getLsbD 1) && s.outstanding g.key (ts.map Thread.tid))

/-- The arrival of an issue group (R182). -/
def arrivalOf (i : Instr) (g : Group) (t : Thread) (ts : List Thread) (vals : List Word) (book : List Reg) (forming : Option (List Nat)) : Arrival :=
  { key := g.key, tids := ts.map Thread.tid, instr := i, vals := vals, book := book, hints := t.hints, pc := t.seqPc, forming := forming }

/-- A group that is not a member takes PROT (R184); it waits while its team's array state waits for the core's
array (log entry 25). -/
def notMemberOf (a : Arr) (g : Group) (ts : List Thread) (s : State) : State × List Due :=
  if s.arrAwaited g then stalled s else (s, dues g.key ts a.notMember)

/-- A gang operation arrives. -/
def gangArrive (i : Instr) (vals : View → List Word) (book : View → List Reg) (g : Group) (ts : List Thread) (s : State) : State × List Due :=
  match ts with
  | [] => (s, [])
  | t :: _ =>
    let a := s.arr g.arrCore
    if !a.member g.key then notMemberOf a g ts s
    else if s.arrWait g ts (tileSource i (vals ⟨g, t⟩)) then stalled s
    else s.arrive g (arrivalOf i g t ts (vals ⟨g, t⟩) (book ⟨g, t⟩) none)

/-- No codebook. -/
def noBook (_ : View) : List Reg := []

/-- A gang operation that reads uniform register operands (R181, R182). -/
def gangOp (i : Instr) (reads : View → ArrReads) (s : State) : Host.Outcome State Fault Refusal :=
  issueChecked i s (fun v => (reads v).tags (gangSlots i v) v) (fun v => ((reads v).sels v).map v.reg)
    (gangArrive i (fun v => ((reads v).sels v).map v.val) noBook)

/-- DLD (R190, R195): b is read when MXS is set. -/
def execDld (d a b : Sel) (s : State) : Host.Outcome State Fault Refusal :=
  gangOp (.dld d a b) (fun v => { d := some d, a := some a, b := if (v.val d).getLsbD 5 then some b else none }) s

/-- The tag check of DLDL: d and a, then the codebook (R47, R195). -/
def dldlTags (d a b : Sel) (v : View) : Option Trap :=
  (ArrReads.tags { d := some d, a := some a } (gangSlots (.dldl d a b) v) v).orElse (fun _ => bookTrap (codebook v.g b))

/-- A codebook entry: the bits that its tag uses (R47). -/
def bookEntry (r : Reg) : Reg := { r with val := if r.tag = .bflt2 then r.val &&& 0xFFFF else r.val &&& 0xFF }

/-- DLDL (R190, R195). -/
def execDldl (d a b : Sel) (s : State) : Host.Outcome State Fault Refusal :=
  issueChecked (.dldl d a b) s (dldlTags d a b) (fun v => [v.reg d, v.reg a])
    (gangArrive (.dldl d a b) (fun v => [v.val d, v.val a]) (fun v => (codebook v.g b).map bookEntry))

/-- DSWAP (R197). -/
def execDswap (s : State) : Host.Outcome State Fault Refusal := gangOp .dswap (fun _ => {}) s

/-- DSTR (R199). -/
def execDstr (d a b : Sel) (s : State) : Host.Outcome State Fault Refusal :=
  gangOp (.dstr d a b) (fun _ => { d := some d, a := some a, b := some b }) s

/-- DSTRN (R199). -/
def execDstrn (d a b : Sel) (s : State) : Host.Outcome State Fault Refusal :=
  gangOp (.dstrn d a b) (fun _ => { d := some d, a := some a, b := some b }) s

/-- DZRO (R203). The arrivals agree on its mask too, which R183 does not name (log entry 114). -/
def execDzro (imm : BitVec 16) (s : State) : Host.Outcome State Fault Refusal :=
  issueChecked (.dzro imm) s noTags noUniform (gangArrive (.dzro imm) (fun _ => [imm.setWidth 32]) noBook)

/-- The operands of a drain: b is read when CP or ZP is set (R204). -/
def drainReads (d a b : Sel) (v : View) : ArrReads :=
  { d := some d, a := some a, b := if (v.val d).getLsbD 8 || (v.val d).getLsbD 9 then some b else none }

/-- DDRN (R207). -/
def execDdrn (d a b : Sel) (s : State) : Host.Outcome State Fault Refusal := gangOp (.ddrn d a b) (drainReads d a b) s

/-- DDRQ (R208). -/
def execDdrq (d a b : Sel) (s : State) : Host.Outcome State Fault Refusal := gangOp (.ddrq d a b) (drainReads d a b) s

/-- SPGM (R210). -/
def execSpgm (d a : Sel) (s : State) : Host.Outcome State Fault Refusal := gangOp (.spgm d a) (fun _ => { a := some a }) s

/-- DSCR (R213). -/
def execDscr (d a b : Sel) (s : State) : Host.Outcome State Fault Refusal :=
  gangOp (.dscr d a b) (fun _ => { d := some d, a := some a, b := some b }) s

/-- SMRG (R215). -/
def execSmrg (d a b : Sel) (s : State) : Host.Outcome State Fault Refusal :=
  gangOp (.smrg d a b) (fun _ => { d := some d, a := some a, b := some b }) s

/-- The STAT of a DGANG that ends at once (R185). -/
def gangNow (d : Sel) (code : Nat) (g : Group) (ts : List Thread) (s : State) : State × List Due :=
  (s.modThreads g.key (ts.map Thread.tid) (fun t => t.latchStat d (stat code)), [])

/-- The cases of DGANG (R185). The rendezvous that forms a team waits for no shared access of its members (log entry
115); that of a member does, like every other operation of the team (R187). -/
def dgangStep (d a : Sel) (g : Group) (ts : List Thread) (s : State) : State × List Due :=
  match ts with
  | [] => (s, [])
  | t :: _ =>
    let v : View := ⟨g, t⟩
    let arr := s.arr g.arrCore
    match gangListOf (v.regAt a 0).val (v.regAt a 1).val with
    | none => gangNow d 0x20 g ts s
    | some l =>
      if !s.gangListOk g l then gangNow d 0x20 g ts s
      else if arr.owner.isSome then
        (if arr.member g.key then gangArrive (.dgang d a) (fun v => [(v.regAt a 0).val, (v.regAt a 1).val]) noBook g ts s
         else if s.arrAwaited g then stalled s else gangNow d 1 g ts s)
      else if l.isEmpty then gangNow d 0x20 g ts s
      else s.arrive g (arrivalOf (.dgang d a) g t ts [(v.regAt a 0).val, (v.regAt a 1).val] [] (some l))

/-- DGANG (R185). -/
def execDgang (d a : Sel) (s : State) : Host.Outcome State Fault Refusal :=
  issueChecked (.dgang d a) s
    (fun v => if addrTag (v.pairTag addrTag a) then none else some (Machine.tagTrap 15 (some (v.pairTag addrTag a)) none none))
    (fun v => [v.regAt a 0, v.regAt a 1]) (dgangStep d a)

/-- DWAIT (R216): a member's threads wait while their group has operations in flight. -/
def execDwait (d : Sel) (s : State) : Host.Outcome State Fault Refusal :=
  issue (.dwait d) s (fun g ts s =>
    let s := s.modThreads g.key (ts.map Thread.tid) Thread.close
    if (s.arr g.arrCore).member g.key && s.arrBusy g.key then (s.blockAt g ts .dwait, [])
    else (s.modThreads g.key (ts.map Thread.tid) (fun t => (t.result d ⟨stat 0, .stat⟩).advance), []))

/-- DPASS's place among the operations (R198): behind every one its member has arrived at, those whose
arrival still waits at the latch among them. -/
def dpassStep (d a : Sel) (g : Group) (ts : List Thread) (s : State) : State × List Due :=
  match ts with
  | [] => (s, [])
  | t :: _ =>
    let arr := s.arr g.arrCore
    let w := View.val ⟨g, t⟩ a
    if 2 ≤ w.toNat then (s, dues g.key ts (illegal 8 (.dpass d a)))
    else if !arr.member g.key then notMemberOf arr g ts s
    else if arr.waiting.any (fun x => decide (x.key = g.key)) then
      let x : Arrival := { arrivalOf (.dpass d a) g t ts [w] [] none with hints := {}, pass := some s.next }
      (({ s.setArr { arr with waiting := arr.waiting ++ [x] } with next := s.next + 1 }.modThreads g.key (ts.map Thread.tid)
        (fun t => t.issued s.next [(d, .nat)] false)).latch g.arrCore)
    else
      let id := s.next
      let op : ArrOp := {
        id := id, instr := .dpass d a, vals := [w], book := [], hints := {}, team := (g.key.team.getD ⟨0, 0, 0⟩), upper := g.upper, vtag := g.vid,
        captured := [], members := [⟨g.key, ts.map Thread.tid, some d, t.seqPc⟩], stat := none, newList := none }
      ({ s.setArr { arr with ops := arr.ops ++ [op] } with next := id + 1 }.modThreads g.key (ts.map Thread.tid) (fun t => t.issued id [(d, .nat)] false), [])

/-- DPASS (R198). -/
def execDpass (d a : Sel) (s : State) : Host.Outcome State Fault Refusal :=
  issueChecked (.dpass d a) s (fun v => tagsOk v (v.slots (some a)) (addrTag (v.tag a))) (fun v => [v.reg a]) (dpassStep d a)

end Sys2Proof.Machine
end

