-- ==== Sys2Proof/Machine/Control.lean ====
section
/-! DEFINITION. The meanings of the control instructions, class 0x7 (R128 to R134), of TRAP and ERET
(R237, R238) and of the hints (R72 to R75, R324). -/

namespace Sys2Proof.Machine

/-- ALIGN of a control transfer (R129, R356). -/
def jumpAlign (v : View) (a : Sel) : Trap := ⟨.align, 2, (v.val a).setWidth 64, .precise⟩

/-- A transfer to a register's value (R129). -/
def laneJump (v : View) (a : Sel) (d : Option (Sel × Reg)) : Except Trap LaneOut :=
  if !addrTag (v.tag a) then .error (v.tagTrap (v.slots (some a)))
  else if (v.val a).toNat % 4 ≠ 0 then .error (jumpAlign v a)
  else .ok { d := d, pc := some (v.val a) }

/-- The return address of a call (R129). -/
def linkReg (v : View) : Reg := ⟨v.t.pc + 4, .nat⟩

/-- A branch on a condition (R19, R129). -/
def laneBranch (v : View) (a : Sel) (off : BitVec 16) (taken : Word → Bool) : Except Trap LaneOut :=
  v.withTags (v.slots (some a)) (notVoid (v.tag a)) { pc := if taken (v.val a) then some (v.target off) else none }

/-- BR (R128). -/
def execBr (off : BitVec 16) (s : State) : Host.Outcome State Fault Refusal :=
  lanewise (.br off) s (fun _ v => .ok { pc := some (v.target off) })

/-- BNZ (R129). -/
def execBnz (a : Sel) (off : BitVec 16) (s : State) : Host.Outcome State Fault Refusal :=
  lanewise (.bnz a off) s (fun _ v => laneBranch v a off (fun x => x != 0))

/-- BZ (R129). -/
def execBz (a : Sel) (off : BitVec 16) (s : State) : Host.Outcome State Fault Refusal :=
  lanewise (.bz a off) s (fun _ v => laneBranch v a off (fun x => x == 0))

/-- BRX (R129). -/
def execBrx (a : Sel) (s : State) : Host.Outcome State Fault Refusal :=
  lanewise (.brx a) s (fun _ v => laneJump v a none)

/-- CALL (R129): the a field is the destination. -/
def execCall (a : Sel) (off : BitVec 16) (s : State) : Host.Outcome State Fault Refusal :=
  lanewise (.call a off) s (fun _ v => .ok { d := some (a, linkReg v), pc := some (v.target off) })

/-- CALLX (R129): a is read before d is written. -/
def execCallx (d a : Sel) (s : State) : Host.Outcome State Fault Refusal :=
  lanewise (.callx d a) s (fun _ v => laneJump v a (some (d, linkReg v)))

/-- RET (R129). -/
def execRet (a : Sel) (s : State) : Host.Outcome State Fault Refusal :=
  lanewise (.ret a) s (fun _ v => laneJump v a none)

/-- EXIT (R131). -/
def execExit (s : State) : Host.Outcome State Fault Refusal :=
  issue .exit s (fun g ts s => eachLane g.key (fun g t s => s.exitThread g.key t.tid) (ts.map Thread.tid) s)

/-- YIELD (R132). -/
def execYield (s : State) : Host.Outcome State Fault Refusal :=
  issue .yield s (fun g ts s =>
    let s := s.modThreads g.key (ts.map Thread.tid) Thread.advance
    (if g.key.isQueue then s else s.swapOut g.key g.core g.quad, []))

/-- NOP (R128). -/
def execNop (s : State) : Host.Outcome State Fault Refusal :=
  lanewise .nop s (fun _ _ => .ok {})

/-- PAUSE (R132): not ready until PAUSE_END. -/
def execPause (s : State) : Host.Outcome State Fault Refusal :=
  issue .pause s (fun g ts s =>
    (s.modThreads g.key (ts.map Thread.tid) (fun t => { t.advance with paused := true }), []))

/-! IDEM (R133, R134). -/

/-- The registers a mask selects, as selectors: chunks of 16 `v` registers, and bit 15 for `c0` to `c7`
and `lat`; those not allocated are skipped. -/
def idemSels (nregs : Nat) (mask : BitVec 16) : List Nat :=
  ((List.range 15).flatMap (fun k => if mask.getLsbD k then (List.range 16).map (fun j => 16 * k + j) else [])).filter (allocated nregs) ++
  (if mask.getLsbD 15 then (List.range 9).map (fun j => 240 + j) else [])

/-- Put a nibble into a word of the tag area. -/
def setNibble (w : Word) (i : Nat) (t : Tag) : Word :=
  (w &&& ~~~((0xF : Word) <<< (4 * i))) ||| (((tagCode t).setWidth 32 : Word) <<< (4 * i))

/-- The pending TRIT trap of a thread (R196). -/
def Thread.trit? (t : Thread) : Option AttrTrap := t.attr.find? (fun a => decide (a.trap.cause = .trit))

/-- Word 251: PENDTRIT, PENDLAT and the selector of d (R134, R196). -/
def tritRecord : Option AttrTrap → Word
  | none => 0
  | some a =>
    BitVec.ofNat 32 ((if a.sel ∈ a.regs then 2 ^ 31 else 0) + (if 0xF8 ∈ a.regs then 2 ^ 30 else 0) + a.sel)

/-- First word of a thread's checkpoint (R134). -/
def idemWord (idemBase : DWord) (tid : Nat) : Nat := (idemBase.extractLsb' 6 26).toNat * 64 + 320 * tid

/-- The checkpoint of one thread is written (R133, R134): registers with their tags, then the mask, the
restart PC and the pending TRIT trap. -/
def State.writeCheckpoint (s : State) (nregs : Nat) (base : Nat) (t : Thread) (mask : BitVec 16) : State :=
  let s := (idemSels nregs mask).foldl (fun s n =>
    let s := s.writeTile (base + n) (t.reg n).val
    s.writeTile (base + 256 + n / 8) (setNibble (s.readTile (base + 256 + n / 8)) (n % 8) (t.reg n).tag)) s
  let s := s.writeTile (base + 249) (t.pc + 4)
  let s := s.writeTile (base + 250) (mask.setWidth 32)
  let s := s.writeTile (base + 251) (tritRecord t.trit?)
  let s := s.writeTile (base + 252) ((t.trit?.map AttrTrap.pc).getD 0)
  s.writeTile (base + 253) ((t.trit?.map (fun a => a.trap.val.setWidth 32)).getD 0)

/-- The idempotent mode of a team (R133): its launch's PMODE. -/
def State.idemTeam (s : State) (k : GKey) : Option Team :=
  match s.teamOf? k with
  | some t => (match s.grid? t.key.ctx t.key.grid with | some g => if g.rcd.trapMode then none else some t | none => none)
  | none => none

/-- The first register that a checkpoint would read whose parity fails (R358). -/
def Thread.idemBad (t : Thread) (nregs : Nat) (mask : BitVec 16) : Option Nat :=
  (idemSels nregs mask).find? (fun n => decide (n ∈ t.parity))

/-- A thread whose region is open. One that is asked to give up its core parks at the new region's head (R327). -/
def Thread.openRegion (req : Option SaveKind) (t : Thread) : Thread :=
  { t.advance with regionOpen := true, checkpointed := true, parked := decide (req = some .idempotent) }

/-- IDEM (R133): NOP in a team of mode trap and in a queue thread. A thread waits for the results of its earlier
instructions and for the evacuation of its team's words (R365), and one that has them goes on without the others (R136).
A register that fails its parity is not
written: its read is an ECC fault (R358). -/
def execIdem (imm : BitVec 16) (s : State) : Host.Outcome State Fault Refusal :=
  issue (.idem imm) s (fun g ts s =>
    match s.idemTeam g.key with
    | none => (s.modThreads g.key (ts.map Thread.tid) Thread.advance, [])
    | some team =>
      let ts := ts.filter (fun t => (s.busySels g.key t.tid).isEmpty && !s.tileMoving team.tileBase team.tileWords)
      if ts.isEmpty then stalled s
      else
        let good := ts.filter (fun t => (t.idemBad g.nregs imm).isNone)
        let s := good.foldl (fun s t => s.writeCheckpoint g.nregs (idemWord team.idemBase t.tid) t imm) s
        (s.modThreads g.key (good.map Thread.tid) (Thread.openRegion team.req),
          ts.filterMap (fun t => (t.idemBad g.nregs imm).map (fun n => ⟨g.key, t.tid, parityTrap n⟩))))

/-! Traps. -/

/-- TRAP (R237). -/
def execTrap (imm : BitVec 16) (s : State) : Host.Outcome State Fault Refusal :=
  issue (.trap imm) s (fun g ts s =>
    (s.modThreads g.key (ts.map Thread.tid) Thread.close, dues g.key ts ⟨.software, 0, imm.setWidth 64, .precise⟩))

/-- Is the thread in the PREEMPT handler of a save that its team is asked for (R329)? -/
def preemptSave (req : Option SaveKind) (t : Thread) : Bool :=
  decide (req = some .handler) && decide (t.trapCause.extractLsb' 0 8 = 0x13#8) && decide (t.trapCause.extractLsb' 16 8 = 1#8)

/-- The return from a trap (R238): PC := TRAPPC.PC × 4, INHANDLER cleared. -/
def Thread.eret (t : Thread) : Thread :=
  { t with pc := t.trapPc.extractLsb' 2 30 ++ (0 : BitVec 2), inHandler := false, hints := {}, regionOpen := false }

/-- ERET (R238, R329): outside a handler it is ILLEGAL; in a PREEMPT save handler the thread parks. -/
def execEret (s : State) : Host.Outcome State Fault Refusal :=
  issue .eret s (fun g ts s =>
    let req := (s.teamOf? g.key).bind Team.req
    let good := ts.filter Thread.inHandler
    (s.modThreads g.key (good.map Thread.tid) (fun t => if preemptSave req t then { t with parked := true, hints := {} } else t.eret),
     dues g.key (ts.filter (fun t => !t.inHandler)) (illegal 8 .eret)))

/-! Hints (R72): each waits in the thread for the next instruction, with the PC of the first (R74). -/

/-- A hint is taken: the field set, the first hint's PC kept, the PC moved on. -/
def Thread.hint (t : Thread) (f : Hints → Hints) : Thread :=
  { t with hints := { f t.hints with first := some (t.hints.first.getD t.pc) }, pc := t.pc + 4 }

/-- The issue of a hint word. -/
def issueHint (i : Instr) (s : State) (f : Hints → Hints) : Host.Outcome State Fault Refusal :=
  issue i s (fun g ts s => (s.modThreads g.key (ts.map Thread.tid) (fun t => t.hint f), []))

/-- HIMM (R61, R72). -/
def execHimm (p : BitVec 24) (s : State) : Host.Outcome State Fault Refusal :=
  issueHint (.himm p) s (fun h => { h with imm := some p })

/-- HSRC (R72, R420). -/
def execHsrc (src : Sel) (s : State) : Host.Outcome State Fault Refusal :=
  issueHint (.hsrc src) s (fun h => { h with src := some src })

/-- HRND (R72). -/
def execHrnd (m : RMode) (s : State) : Host.Outcome State Fault Refusal :=
  issueHint (.hrnd m) s (fun h => { h with rnd := some m })

/-- HORD (R73). -/
def execHord (f : Bool) (u : BitVec 2) (sc : Scope) (s : State) : Host.Outcome State Fault Refusal :=
  issueHint (.hord f u sc) s (fun h => { h with ord := some (f, u, sc) })

/-- HPOL (R72). -/
def execHpol (pol : BitVec 2) (s : State) : Host.Outcome State Fault Refusal :=
  issueHint (.hpol pol) s (fun h => { h with pol := some pol })

/-- HSCH (R324). -/
def execHsch (c : BitVec 2) (s : State) : Host.Outcome State Fault Refusal :=
  issueHint (.hsch c) s (fun h => { h with sch := some c })

/-- HOFF (R73). -/
def execHoff (off : BitVec 24) (s : State) : Host.Outcome State Fault Refusal :=
  issueHint (.hoff off) s (fun h => { h with off := some off })

end Sys2Proof.Machine
end

