-- ==== Sys2Proof/Machine/Place.lean ====
section
/-! DEFINITION. Placement of teams (R12, R269 to R271, R313 to R316, R321) and the resources they hold. -/

namespace Sys2Proof.Machine

/-- Main-file words of a thread (R10). -/
def regWords (n : Nat) : Nat := Nat.min (n + 8) 240

/-- Groups of a team. -/
def LaunchRec.groups (r : LaunchRec) : Nat := r.threads / r.width

/-- Groups on the lower core, or on the single core (R313). -/
def LaunchRec.lowerGroups (r : LaunchRec) (pair : Bool) : Nat := if pair then (r.groups + 1) / 2 else r.groups

/-- Words of a team's tile allocation with its checkpoint area (R221, R270). -/
def LaunchRec.tileWords (r : LaunchRec) : Nat := r.tile / 4 + (if r.trapMode then 0 else 320 * r.threads)

/-- Resources of a core: main-file words, threads, shared bytes. -/
structure Res where
  words : Nat
  threads : Nat
  shared : Nat
  deriving DecidableEq, Repr

def Res.zero : Res := ⟨0, 0, 0⟩
def Res.add (x y : Res) : Res := ⟨x.words + y.words, x.threads + y.threads, x.shared + y.shared⟩
/-- Does it fit a core (R12, R313)? -/
def Res.fits (x : Res) : Bool := decide (x.words ≤ 131072) && decide (x.threads ≤ 2048) && decide (x.shared ≤ 524288)

/-- What a team takes of its lower and of its upper core. -/
def LaunchRec.res (r : LaunchRec) (pair upper : Bool) : Res :=
  if upper && !pair then Res.zero
  else
    let n := (if upper then r.groups - r.lowerGroups pair else r.lowerGroups pair) * r.width
    ⟨regWords r.nregs * n, n, r.shared⟩

/-- The record of a team's grid. -/
def State.teamRec (s : State) (t : Team) : Option LaunchRec := (s.grid? t.key.ctx t.key.grid).map Grid.rcd

/-- Does a team hold cores: dispatched, not saved? -/
def Team.resident (t : Team) : Bool :=
  match t.phase with
  | .saved _ => false
  | .staging | .running | .retired => true

/-- What the resident teams take of a core. -/
def State.coreUse (s : State) (core : Nat) : Res :=
  s.teams.foldl (fun acc t =>
    if !t.resident then acc
    else
      match s.teamRec t with
      | none => acc
      | some r => if t.core = core then acc.add (r.res t.pair false) else if t.pair && decide (t.core + 1 = core) then acc.add (r.res t.pair true) else acc) Res.zero

/-- A placement: the core, or the lower core of a pair. -/
structure Spot where
  core : Nat
  pair : Bool
  deriving DecidableEq, Repr

/-- The die of a placement. -/
def Spot.die (p : Spot) : Nat := dieOf p.core

/-- Has the placement's cores room for a team of the record? -/
def State.spotRoom (s : State) (r : LaunchRec) (p : Spot) : Bool :=
  ((s.coreUse p.core).add (r.res p.pair false)).fits && (!p.pair || ((s.coreUse (p.core + 1)).add (r.res p.pair true)).fits)

/-- Tile vaults of a die (R271). -/
def State.tileVaults (s : State) (die : Nat) : Nat := 16 - nth s.dev.vaultSplit die 0

/-- Is a vault taken as the new place of an evacuated vault (R365)? -/
def State.vaultTaken (s : State) (die vault : Nat) : Bool :=
  s.mem.vaults.any (fun v => decide (v.toDie = die) && decide (v.toVault = vault))

/-- Vaults of a die in the order the allocator tries them (R270). -/
def vaultOrder (near n : Nat) : List Nat :=
  ((List.range 16).flatMap (fun d => if d = 0 then [near] else (if d ≤ near then [near - d] else []) ++ [near + d])).filter (fun v => decide (v < n))

/-- First multiple of 64 at or above a word. -/
def up64 (w : Nat) : Nat := (w + 63) / 64 * 64

/-- Is a run of tile words free and in tile vaults of its die? -/
def State.tileFree (s : State) (die start n : Nat) : Bool :=
  decide (die * 2 ^ 28 ≤ start) && decide (start + n ≤ die * 2 ^ 28 + s.tileVaults die * 2 ^ 24) &&
    s.teams.all (fun t => decide (t.tileWords = 0) || decide (t.tileBase + t.tileWords ≤ start) || decide (start + n ≤ t.tileBase)) &&
    (List.range 16).all (fun v => !s.vaultTaken die v || decide (start + n ≤ die * 2 ^ 28 + v * 2 ^ 24) || decide (die * 2 ^ 28 + (v + 1) * 2 ^ 24 ≤ start))

/-- The allocation for a team whose near vault is given: the first vault in order that has a free run
starting in it, at its lowest place (R270). -/
def State.tileAlloc (s : State) (die near n : Nat) : Option Nat :=
  (vaultOrder near (s.tileVaults die)).findSome? (fun v =>
    let base := die * 2 ^ 28 + v * 2 ^ 24
    let starts := base :: (s.teams.filterMap (fun t =>
      let e := up64 (t.tileBase + t.tileWords)
      if t.tileWords ≠ 0 ∧ base ≤ e ∧ e < base + 2 ^ 24 then some e else none))
    (starts.filter (fun x => s.tileFree die x n)).foldl (fun (acc : Option Nat) x => match acc with | none => some x | some y => some (Nat.min x y)) none)

/-- The vault near a core (R269). -/
def nearVault (core : Nat) : Nat := core % 80 / 5

/-- Where a team's tile allocation would start, if it can have one; 0 when it needs none. -/
def State.tileFor (s : State) (r : LaunchRec) (p : Spot) : Option Nat :=
  if r.tileWords = 0 then some 0 else s.tileAlloc p.die (nearVault p.core) r.tileWords

/-- Is a compute die online? -/
def State.online (s : State) (die : Nat) : Bool := decide (nth s.dev.dies die .offline = .online)

/-- Every placement of a span on the online dies, in order. -/
def State.spots (s : State) (pair : Bool) : List Spot :=
  ((List.range 8).filter s.online).flatMap (fun d =>
    if pair then (List.range 40).map (fun j => ⟨80 * d + 2 * j, true⟩) else (List.range 80).map (fun c => ⟨80 * d + c, false⟩))

/-- The spans of a record, preferred first (R314): 1 single, 2 pair. -/
def LaunchRec.spans (r : LaunchRec) : List Bool := decide (r.spanp = 2) :: (if r.spanf = 0 then [] else [decide (r.spanf = 2)])

/-- Placements that can hold a new team, span by span, the preferred one first (R314). -/
def State.newSpots (s : State) (r : LaunchRec) : List (List Spot) :=
  r.spans.map (fun sp => (s.spots sp).filter (fun p => s.spotRoom r p && (s.tileFor r p).isSome))

/-- Placements of a saved team, in its own span; its tile allocation stays (R270, R314). -/
def State.oldSpots (s : State) (t : Team) (r : LaunchRec) : List Spot := (s.spots t.pair).filter (s.spotRoom r)

/-- What several like parts take. -/
def Res.times (n : Nat) (x : Res) : Res := ⟨n * x.words, n * x.threads, n * x.shared⟩

/-- How many parts `x` a core still has room for, beside what is used. -/
def Res.room (used x : Res) : Nat :=
  if !(used.add x).fits then 0
  else Nat.min ((131072 - used.words) / x.words) (Nat.min ((2048 - used.threads) / x.threads) (if x.shared = 0 then 2048 else (524288 - used.shared) / x.shared))

/-- Teams of a record that an empty pair of cores holds at once, in any mixture of its spans (R314, R315). -/
def pairHolds (r : LaunchRec) : Nat :=
  let single := fun (used : Res) => if false ∈ r.spans then used.room (r.res false false) else 0
  let pairs := if true ∈ r.spans then Res.zero.room (r.res true false) else 0
  (List.range (pairs + 1)).foldl (fun m b => Nat.max m (b + single ((r.res true false).times b) + single ((r.res true true).times b))) 0

/-- Teams that the empty tile space of a die holds at once; `none` when they need none. -/
def State.dieTiles (s : State) (r : LaunchRec) (die : Nat) : Option Nat :=
  if r.tileWords = 0 then none else some (s.tileVaults die * 2 ^ 24 / up64 r.tileWords)

/-- Teams that an empty online die holds at once, in any mixture of the record's spans (R314, R315). -/
def State.dieHolds (s : State) (r : LaunchRec) (die : Nat) : Nat :=
  let byCore := 40 * pairHolds r
  match s.dieTiles r die with
  | none => byCore
  | some n => Nat.min n byCore

/-- Can the grid never be placed on the online dies (R315)? -/
def State.noFit (s : State) (r : LaunchRec) : Bool :=
  let total := (((List.range 8).filter s.online).map (s.dieHolds r)).sum
  decide (total < (if r.dbars = 0 then 1 else r.teams))

/-- Is no compute die online? Teams then wait (R369). -/
def State.noDie (s : State) : Bool := !(List.range 8).any s.online

/-! Groups on their cores. -/

/-- The quadrant of a core with the fewest groups, ties to the lower (R321). -/
def State.leastQuad (s : State) (core : Nat) : Nat :=
  (List.range 4).foldl (fun best q => if (s.quadGroups core q).length < (s.quadGroups core best).length then q else best) 0

/-- A group becomes resident: its quadrant, and the active set if there is room (R321). -/
def State.seat (s : State) (g : Group) : State :=
  let q := s.leastQuad g.core
  let room := decide (((s.quadGroups g.core q).filter Group.active).length < 8)
  { s with
    groups := s.groups ++ [{ g with quad := q, active := room, readyAt := none, resid := s.dist.order }]
    dist := { s.dist with order := s.dist.order + 1 } }

/-- A new thread at the kernel's entry (R17, R28). -/
def newThread (tid lane : Nat) (entry : Word) : Thread := { tid := tid, lane := lane, pc := entry }

/-- A new group of a team (R8, R28). -/
def newGroup (t : TKey) (r : LaunchRec) (p : Spot) (gid : Nat) : Group :=
  let upper := decide (r.lowerGroups p.pair ≤ gid)
  { key := .kernel t.ctx t.grid t.tmid gid, width := r.width, nregs := r.nregs, vid := r.vtag
    core := p.core + (if upper then 1 else 0), upper := upper
    threads := (List.range r.width).map (fun l => newThread (r.width * gid + l) l r.entry) }

end Sys2Proof.Machine
end

