-- ==== Sys2Proof/Machine/Versions.lean ====
section
/-! DEFINITION. Grids coming to an end (R222, R225), teams being stopped, and the commit and the squash of
versions (R293, R294, R300 to R304). -/

namespace Sys2Proof.Machine

/-! Completion records. -/

/-- The 16 words of a completion record (R222). -/
def Grid.record (g : Grid) (w : Word) : List Word :=
  [ w, BitVec.ofNat 32 (g.handle.toNat + 2 ^ 16 * g.rcd.vtag.toNat), BitVec.ofNat 32 g.rcd.teams, BitVec.ofNat 32 g.retired,
    BitVec.ofNat 32 g.trapped, BitVec.ofNat 32 g.notRun, g.firstFault.getD 0xFFFFFFFF ] ++ List.replicate 9 0

/-- The completion word of a code: DETAIL is the teams retired normally, saturating. -/
def Grid.word (g : Grid) (code : Nat) : Word := sysWord code (Nat.min g.retired (2 ^ 24 - 1))

/-- Physical address of a completion record, while its page can take it: writable, of the device or of the host,
not versioned (R222). -/
def State.complPa (s : State) (ctx va : Nat) : State × Option Acc :=
  if 2 ^ 56 ≤ va then (s, none)
  else
    match s.translate 8 ctx .wr va with
    | (s, .ok pte pa) => (s, if pteVers pte || isPeer pa then none else some (accOf pte pa))
    | (s, _) => (s, none)

/-- Where a completion record can be written now: not on a host port that is down (R346). -/
def State.recordPa (s : State) (ctx va : Nat) : State × Option Nat :=
  match s.complPa ctx va with
  | (s, some a) =>
    (s, match a.loc with
      | .global pa => if s.accPortDown a then none else some pa
      | _ => none)
  | (s, none) => (s, none)

/-- Does the walk of a completion record's address wait for a line of its tables that is being moved (R287)? -/
def State.complWaits (s : State) (ctx va : Nat) : Bool :=
  decide (va < 2 ^ 56) && (match (s.translate 8 ctx .wr va).2 with | .wait => true | _ => false)

/-- Does a completion record wait for a line that is being moved, or for a half of host memory (R287, R344)? What
waits with it is log entry 125. -/
def State.recordWaits (s : State) (ctx va : Nat) : Bool :=
  match (s.translate 8 ctx .wr va).2 with
  | .wait => true
  | .ok pte pa => !s.accPortDown (accOf pte pa) && (s.lineWaits pa || (decide (hostBit ≤ s.fwd pa) && !s.halfOk (s.fwd pa) true))
  | _ => false

/-- Where a completion record goes, with D set for its page: where D cannot be set by the entry that the TLB holds, the
walk is made again (R284). -/
def State.recordDirty (s : State) (ctx va : Nat) : State × Option Nat :=
  match s.recordPa ctx va with
  | (s, none) => (s, none)
  | (s, some pa) =>
    match s.markDirty 8 ctx va with
    | (s, true) => (s, some (s.fwd pa))
    | (s, false) =>
      match s.recordPa ctx va with
      | (s, none) => (s, none)
      | (s, some pa) => let s := (s.markDirty 8 ctx va).1; (s, some (s.fwd pa))

/-- Write a grid's completion record: bytes 4 to 63, then word 0 (R222). A record that cannot be written
becomes a fault record (R359, R362), unless `quiet`. -/
def State.writeRecord (s : State) (g : Grid) (w : Word) (quiet : Bool) : State :=
  match s.recordDirty g.ctx g.rcd.compl with
  | (s, some pa) =>
    ((s.homeRun (pa + 4) ((g.record w).drop 1)).homeWrite pa w).clearPoison (runSectors pa 16)
  | (s, none) =>
    if quiet then s
    else s.faultLog g.ctx { type := 6, grid := g.handle.toNat, vtag := g.rcd.vtag, value := BitVec.ofNat 64 g.rcd.compl, extra := w.setWidth 64 }

/-- A queue thread blocked in WAITG gets the completion word and acquires (R228). -/
def State.waitgAnswer (s : State) (w : Word) (x : Nat × Sel) : State :=
  match s.group? (.queue x.1) with
  | none => s
  | some g =>
    let s := s.acquireL1 g .dev
    s.modThread g.key 0 (fun t => if t.block = some .waitg then { (t.result x.2 ⟨w, .nat⟩).advance with block := none } else t)

/-- A slot is freed (R225). -/
def State.freeGrid (s : State) (ctx handle : Nat) : State :=
  { s with grids := s.grids.filter (fun g => !(decide (g.ctx = ctx) && decide (g.handle.toNat = handle))) }

/-- A grid completes with a code: the record, the threads that wait for it, its slot (R222, R225, R228). -/
def State.completeGrid (s : State) (ctx handle code : Nat) (quiet : Bool) : State :=
  match s.grid? ctx handle with
  | none => s
  | some g =>
    if g.done.isSome then s
    else
      let w := g.word code
      let s := s.writeRecord g w quiet
      let s := g.waiters.foldl (fun s x => s.waitgAnswer w x) s
      let s := { s with dist := { s.dist with entered := s.dist.entered.filter (fun e => decide (e ≠ (ctx, handle))) } }
      if g.rcd.autofree || !g.waiters.isEmpty then s.freeGrid ctx handle
      else s.modGrid ctx handle (fun g => { g with done := some w, waiters := [] })

/-- Teams of a grid that neither retired nor trapped count as not run. -/
def Grid.dropRest (g : Grid) : Grid := { g with nextTmid := g.rcd.teams, notRun := g.rcd.teams - g.retired - g.trapped }

/-! Stopping teams. -/

/-- Keys of a team's groups, running or saved. -/
def State.teamKeys (s : State) (t : TKey) : List GKey :=
  (s.teamGroups t).map Group.key ++ (match s.team? t with | some x => x.frozen.map Group.key | none => [])

/-- Stores of a team of a squashed version that are on their way to a peer arrive there late (R302 step 7). -/
def State.sendLate (s : State) (t : TKey) : State :=
  let late := s.pends.filterMap (fun p =>
    match p.kind, p.peer with
    | .store _ _, some n =>
      if p.key.team = some t ∧ p.vtag ≠ 0 ∧ !s.live p.ctx p.vtag ∧ (n, p.ctx, p.vtag) ∈ s.peer.openAcked then some (n, p.ctx, p.vtag) else none
    | _, _ => none)
  { s with peer := { s.peer with lateStores := s.peer.lateStores ++ late } }

/-- A team is stopped and its state is discarded: operations in flight, locks with a code, groups, tile
allocation, save record (R302 steps 1 to 5 and 8, R335, R336, R367). SELF stores that it has performed stand, and reach
their home slices now. -/
def State.stopTeam (s : State) (t : TKey) (code low : Nat) : State :=
  let keys := s.teamKeys t
  let s := match s.team? t with | some x => if x.resident then s.teamThrough x else s | none => s
  let s := s.sendLate t
  let s := { s with pends := s.pends.filter (fun p => decide (p.key.team ≠ some t)) }
  let s := keys.foldl (fun s k => s.lockDropGroup k code low) s
  s.teamFree t

/-- Teams of a grid that have been dispatched. -/
def State.gridTeams (s : State) (ctx handle : Nat) : List TKey :=
  (s.teams.filter (fun t => decide (t.key.ctx = ctx) && decide (t.key.grid = handle) && decide (t.phase ≠ .retired))).map Team.key

/-- Every team of a grid is stopped or dropped. -/
def State.stopGrid (s : State) (ctx handle code low : Nat) : State :=
  let s := (s.gridTeams ctx handle).foldl (fun s t => s.stopTeam t code low) s
  let s := (s.teams.filter (fun t => decide (t.key.ctx = ctx) && decide (t.key.grid = handle))).foldl (fun s t => (s.sendLate t.key).teamFree t.key) s
  let s := { s with pends := s.pends.filter (fun p => match p.key with | .kernel c g _ _ => !(decide (c = ctx) && decide (g = handle)) | .queue _ => true) }
  s.modGrid ctx handle Grid.dropRest

/-! Versions. -/

/-- Live versions of a context (R293). -/
def Ctx.liveVers (c : Ctx) : List Ver := c.vers.filter (fun v => decide (v.st = .live))

/-- A version and its subtree, oldest first. -/
def Ctx.subtree (c : Ctx) (v : Tag16) : List Tag16 := (c.liveVers.filter (fun x => decide (v ∈ c.path x.tag))).map Ver.tag

/-- Change versions by tag. -/
def State.modVers (s : State) (ctx : Nat) (p : Tag16 → Bool) (f : Ver → Ver) : State :=
  s.modCtx ctx (fun c => { c with vers := c.vers.map (fun v => if p v.tag then f v else v) })

/-- Grids of a set of versions that have not completed. -/
def State.openGrids (s : State) (ctx : Nat) (p : Tag16 → Bool) : List Nat :=
  (s.grids.filter (fun g => decide (g.ctx = ctx) && p g.rcd.vtag && g.done.isNone)).map (fun g => g.handle.toNat)

/-- Does the completion record of a grid of a set of versions that has not completed wait (R287, R344)? -/
def State.recordsWait (s : State) (ctx : Nat) (p : Tag16 → Bool) : Bool :=
  s.grids.any (fun g => decide (g.ctx = ctx) && p g.rcd.vtag && g.done.isNone && s.recordWaits ctx g.rcd.compl)

/-- Locks held pending under squashed versions pass on with SQUASHED (R158). -/
def State.pendingPass (s : State) (ctx : Nat) (p : Tag16 → Bool) (code : Nat) : State :=
  (s.locks.filter (fun r => match r.pending with | some (c, v) => decide (c = ctx) && p v | none => false)).foldl
    (fun s r => s.lockPass r.line (fun _ => true) none code 0) s

/-- Peers in the sets of versions. -/
def State.peersOf (s : State) (ctx : Nat) (p : Tag16 → Bool) : List (Nat × Nat × Tag16) :=
  match s.ctx? ctx with
  | none => []
  | some c => (c.vers.filter (fun v => p v.tag)).flatMap (fun v => v.peers.map (fun n => (n, ctx, v.tag)))

/-- The cancellation rules for a set of versions (R302): their teams and operations end, their tags are
dead, notices go to their peers, their locks pass on, none to a request of the set. Dead copies stay until they are reclaimed. -/
def State.cancel (s : State) (ctx : Nat) (set : List Tag16) : State :=
  let p := fun v => decide (v ∈ set)
  let notices := s.peersOf ctx p
  let s := s.modVers ctx p (fun v => { v with st := .squashed })
  let gs := s.openGrids ctx p
  let keys := (gs.flatMap (fun h => s.gridTeams ctx h)).flatMap s.teamKeys
  let s := keys.foldl State.lockLeave s
  let s := gs.foldl (fun s h => s.stopGrid ctx h 6 0) s
  let s := s.pendingPass ctx p 6
  { s with peer := { s.peer with
      squashSent := s.peer.squashSent ++ notices
      openAcked := s.peer.openAcked.filter (fun x => !(decide (x.2.1 = ctx) && p x.2.2))
      openSent := s.peer.openSent.filter (fun x => !(decide (x.2.1 = ctx) && p x.2.2)) } }

/-- A squash by RSLV or VSQ: the cancellation rules, then the completion records (R303). -/
def State.squash (s : State) (ctx : Nat) (set : List Tag16) : State :=
  let gs := s.openGrids ctx (fun v => decide (v ∈ set))
  gs.foldl (fun s h => s.completeGrid ctx h 0x10 false) (s.cancel ctx set)

/-- The words of a version's copy that it has written. -/
def LineCopy.written (c : LineCopy) : List (Nat × Word) :=
  (List.range 32).filterMap (fun i => if c.mask.getLsbD i then some (c.line + 4 * i, Store.get 0 c.words i) else none)

/-- A copy's words become committed; a sector that it wrote whole takes its mark, and a marked sector that it
wrote in part is marked (R357). -/
def State.mergeCopy (s : State) (c : LineCopy) : State :=
  let s := c.written.foldl (fun s x => s.homeWrite x.1 x.2) s
  let s := s.clearPoison ((wholeSectors c.mask).map (fun k => c.line / 32 + k))
  s.setPoison (((List.range 4).filter (fun k => c.poison.getLsbD k)).map (fun k => c.line / 32 + k))

/-- Copies of a version become committed words and are freed (R300 steps 1 and 2). -/
def State.mergeCopies (s : State) (src : Option Nat) (ctx : Nat) (v : Tag16) : State :=
  let mine := fun (c : LineCopy) => decide (c.src = src) && decide (c.ctx = ctx) && c.tag == v
  ((s.mem.copies.filter mine).foldl State.mergeCopy s).dropCopies mine

/-- Are the copies of a committed version still to be merged? -/
def State.commitMerging (s : State) (ctx : Nat) (v : Tag16) : Bool :=
  match s.ctx? ctx with
  | some c => decide (v ∈ c.merging)
  | none => false

/-- Has a context a commit that is not yet complete? Operations on its version tree are applied one at a time (R227). -/
def State.treeBusy (s : State) (ctx : Nat) : Bool :=
  match s.ctx? ctx with
  | some c => !c.merging.isEmpty
  | none => false

/-- The end of a commit: the copies are merged, after every committed write performed before RSLV's d is written
(R261), and the version's pending locks pass on. -/
def State.commitEnd (s : State) (ctx : Nat) (v : Tag16) : State :=
  let s := (s.mergeCopies none ctx v).tileMerge ctx v
  let s := s.modCtx ctx (fun c => { c with merging := c.merging.filter (fun x => decide (x ≠ v)) })
  s.pendingPass ctx (fun x => decide (x = v)) 0

/-- Commit of a child of the root (R294, R300): its children become the root's, and commit notices go to the peers
of its set, which takes in those of its subtree. The copies are merged at once, or when every peer has
acknowledged. -/
def State.commit (s : State) (ctx : Nat) (v : Tag16) : State :=
  let sub := match s.ctx? ctx with | some c => c.subtree v | none => []
  let peers := ((s.peersOf ctx (fun x => decide (x ∈ sub))).map Prod.fst).eraseDups
  let s := s.modVers ctx (fun x => decide (x = v)) (fun x => { x with st := .committed, peers := peers, awaiting := peers })
  let s := s.modCtx ctx (fun c => { c with vers := c.vers.map (fun x => if x.parent = v then { x with parent := 0 } else x) })
  let s := if peers.isEmpty then s.commitEnd ctx v else s.modCtx ctx (fun c => { c with merging := v :: c.merging })
  { s with peer := { s.peer with
      commitSent := s.peer.commitSent ++ peers.map (fun n => (n, ctx, v))
      openAcked := s.peer.openAcked.filter (fun x => !(decide (x.2.1 = ctx) && decide (x.2.2 = v))) } }

/-- GRID_COMPLETE (R222): every team has retired or been dropped, and nothing of them is in flight. -/
def execGridComplete (ctx grid : Nat) (s : State) : Host.Outcome State Fault Refusal :=
  match s.grid? ctx grid with
  | none => .next s
  | some g =>
    if g.done.isNone ∧ g.nextTmid = g.rcd.teams ∧ !s.teams.any (fun t => decide (t.key.ctx = ctx) && decide (t.key.grid = grid)) ∧ !s.recordWaits ctx g.rcd.compl then
      .next (s.completeGrid ctx grid (match g.endCode with | some c => c | none => if g.trapped = 0 then 0 else 0x11) false)
    else .next s

/-- SPILLWAY_RECLAIM (R302 step 6): the copies of a base die whose tag is dead are reclaimed; those of a committed
version that are still to be merged are not dead (R300). -/
def execSpillwayReclaim (base : Nat) (s : State) : Host.Outcome State Fault Refusal :=
  .next (s.dropCopies (fun c => decide (baseDie c.line = base) && c.src.isNone && !s.live c.ctx c.tag && !s.commitMerging c.ctx c.tag))

end Sys2Proof.Machine
end

