-- ==== Sys2Proof/Machine/Launch.lean ====
section
/-! DEFINITION. Launching grids (R219 to R227, R422), waiting for them (R228), and the version
instructions RSLV, VSQ and VQRY (R229 to R231). -/

namespace Sys2Proof.Machine

/-! Reading what a launch names. -/

/-- A read of global words by the issuing thread: it waits, its address fails, its data are bad, or the
words. -/
inductive Rd where
  | wait
  | page (s : State)
  | ecc
  | ok (s : State) (ws : List Word)

/-- Read `n` words at an address that a record or an operand names. The thread's own written SELF words are
written through first, as for an engine (R247, R339). Words of a peer that no port reaches are read as if it answered (R223,
DESIGN CHOICE, log entry 138). -/
def State.readVirt (s : State) (g : Group) (va n : Nat) : Rd :=
  match s.engRange g .global va n with
  | some _ => .page s
  | none =>
    match s.engAccs g .global .rd va n with
    | (_, .error none) => .wait
    | (s, .error (some _)) => .page s
    | (s, .ok accs) =>
      if accs.any s.accPortDown then .ecc
      else if !accs.all (fun a => s.accReady g.engine a false false) then .wait
      else
        let s := s.engPrepare g accs []
        if accs.any (fun a => s.accPoison g.engine a) then .ecc
        else
          let (s, ws) := s.engRead g.engine accs
          .ok s ws

/-- A byte of words, by offset. -/
def recByte (ws : List Word) (o : Nat) : Nat := (nth ws (o / 4) 0).toNat / 2 ^ (8 * (o % 4)) % 256
/-- A half. -/
def recHalf (ws : List Word) (o : Nat) : Nat := recByte ws o + 256 * recByte ws (o + 1)
/-- A 32-bit field. -/
def recWord (ws : List Word) (o : Nat) : Nat := (nth ws (o / 4) 0).toNat
/-- A 64-bit field. -/
def recDword (ws : List Word) (o : Nat) : Nat := recWord ws o + 2 ^ 32 * recWord ws (o + 4)
/-- Are the bytes from `o` up to `e` zero? -/
def recZero (ws : List Word) (o e : Nat) : Bool := (List.range (e - o)).all (fun k => recByte ws (o + k) == 0)

/-- The checks of a launch record, in ascending offset order (R219): offset and whether it is good. -/
def recordChecks (w : List Word) : List (Nat × Bool) :=
  let mode := recByte w 6
  let width := recByte w 4
  let preden := mode / 8 % 2 = 1
  [ (0, recWord w 0 % 4 == 0),
    (4, width == 16 || width == 32 || width == 64),
    (5, recByte w 5 % 8 == 0 && decide (8 ≤ recByte w 5) && decide (recByte w 5 ≤ 240)),
    (6, mode / 2 % 4 != 3 && decide (mode < 32)),
    (7, decide (recByte w 7 < 64)),
    (8, decide (1 ≤ recWord w 8) && decide (recWord w 8 < 2 ^ 24)),
    (12, decide (1 ≤ recHalf w 12) && decide (recHalf w 12 ≤ 2048) && recHalf w 12 % width == 0),
    (14, recByte w 14 == 1 || recByte w 14 == 2),
    (15, decide (recByte w 15 ≤ 2) && recByte w 15 != recByte w 14),
    (16, recWord w 16 % 16 == 0 && decide (recWord w 16 ≤ 524288)),
    (20, recWord w 20 % 256 == 0),
    (24, recHalf w 24 % 4 == 0 && decide (recHalf w 24 ≤ 4096)),
    (26, if preden then recHalf w 26 % 4 == 0 && decide (recHalf w 26 < recHalf w 24) else recHalf w 26 == 0),
    (32, decide (recByte w 32 < 16)),
    (33, decide (recByte w 33 ≤ 8)),
    (36, recZero w 36 48),
    (48, recHalf w 24 == 0 || recDword w 48 % 4 == 0),
    (56, recByte w 33 == 0 || recDword w 56 % 32 == 0),
    (64, recDword w 64 % 64 == 0),
    (72, recZero w 72 128) ]

/-- Offset of the first bad field. -/
def recordBad (w : List Word) : Option Nat := ((recordChecks w).find? (fun c => !c.2)).map Prod.fst

/-- The checks of a region entry (R220, R422). -/
def regionBad (shared tile : Nat) (w : List Word) : Option Nat :=
  let sp := recByte w 16
  let checks : List (Nat × Bool) :=
    [ (0, recDword w 0 % 16 == 0),
      (8, sp != 0 || recWord w 8 % 16 == 0),
      (12, recWord w 12 % 16 == 0 && (sp != 0 || decide (recWord w 8 + recWord w 12 ≤ shared)) && (sp != 1 || decide (4 * recWord w 8 + recWord w 12 ≤ tile))),
      (16, decide (sp ≤ 1)),
      (17, recZero w 17 32) ]
  (checks.find? (fun c => !c.2)).map Prod.fst

/-- What reading the region table gives. -/
inductive Regions where
  | wait
  | bad (s : State) (w : Word)
  | ok (s : State) (l : List Region)

/-- Read and check the region table, entry by entry (R422). -/
def State.readRegions (s : State) (g : Group) (at_ shared tile : Nat) : Nat → Nat → Regions
  | 0, _ => .ok s []
  | n + 1, k =>
    match s.readVirt g (at_ + 32 * k) 8 with
    | .wait => .wait
    | .page s => .bad s (sysWord 2 (56 + 2 ^ 8 * k))
    | .ecc => .bad s (sysWord 0xF)
    | .ok s ws =>
      match regionBad shared tile ws with
      | some o => .bad s (sysWord 1 (56 + 2 ^ 8 * k + 2 ^ 16 * o))
      | none =>
        match State.readRegions s g at_ shared tile n (k + 1) with
        | .ok s l => .ok s (⟨recDword ws 0, recWord ws 8, recWord ws 12, recByte ws 16 == 1⟩ :: l)
        | x => x

/-- The record as the part keeps it. -/
def recordOf (w : List Word) (regions : List Region) : LaunchRec :=
  let mode := recByte w 6
  { entry := BitVec.ofNat 32 (recWord w 0), width := recByte w 4, nregs := recByte w 5, trapMode := decide (mode % 2 = 1), cls := mode / 2 % 4
    preden := decide (mode / 8 % 2 = 1), autofree := decide (mode / 16 % 2 = 1), queue := recByte w 7, teams := recWord w 8, threads := recHalf w 12
    spanp := recByte w 14, spanf := recByte w 15, shared := recWord w 16, tile := recWord w 20, paramb := recHalf w 24, predoff := recHalf w 26
    gbars := BitVec.ofNat 16 (recHalf w 28), tbars := BitVec.ofNat 16 (recHalf w 30), dbars := BitVec.ofNat 8 (recByte w 32)
    regions := regions, vtag := BitVec.ofNat 16 (recHalf w 34), compl := recDword w 64 }

/-! Versions and slots. -/

/-- The lowest free version number, with the tag its next allocation gets (R226). -/
def Ctx.freshTag (c : Ctx) : Option Tag16 :=
  match ((List.range 254).map (· + 1)).find? (fun n => !c.vers.any (fun v => decide (v.st = .live) && decide (v.tag.toNat % 256 = n))) with
  | none => none
  | some n =>
    let gen := match c.vers.find? (fun v => decide (v.tag.toNat % 256 = n)) with | some v => v.tag.toNat / 256 | none => 0
    let gen' := (gen + 1) % 256
    some (BitVec.ofNat 16 (256 * (if gen' = 0 then 1 else gen') + n))

/-- Create a child of a version (R223, R293). Copies that a dead version of the same tag left are gone. -/
def State.newVersion (s : State) (ctx : Nat) (tag parent : Tag16) (pred : Word) : State :=
  let s := s.modCtx ctx (fun c => { c with
    vers := c.vers.filter (fun v => decide (v.tag.toNat % 256 ≠ tag.toNat % 256)) ++ [{ tag := tag, st := .live, parent := parent, pred := pred, age := c.nextAge }]
    nextAge := c.nextAge + 1 })
  s.dropCopies (fun c => c.src.isNone && decide (c.ctx = ctx) && c.tag == tag)

/-- The lowest free grid slot of a context (R225). -/
def State.freeSlot (s : State) (ctx : Nat) : Option Nat :=
  (List.range 1024).find? (fun n => !s.grids.any (fun g => decide (g.ctx = ctx) && decide (g.handle.toNat % 1024 = n)))

/-- The handle of a slot's next assignment. -/
def Ctx.nextHandle (c : Ctx) (slot : Nat) : BitVec 16 := BitVec.ofNat 16 (slot + 1024 * ((Store.get 0 c.slotGen slot + 1) % 64))

/-- Assign a slot, invalidate the context's lines in the instruction caches (R76), and hand the grid to the
distributor (R223, R225, R312). -/
def State.newGrid (s : State) (c : Ctx) (slot : Nat) (r : LaunchRec) (params : Memory) : State :=
  let h := c.nextHandle slot
  let s := (s.modCtx c.id (fun c => { c with slotGen := Store.set 0 c.slotGen slot ((Store.get 0 c.slotGen slot + 1) % 64) })).codeInval c.id
  { s with
    grids := s.grids ++ [{ ctx := c.id, handle := h, rcd := r, params := params }]
    dist := { s.dist with entered := s.dist.entered ++ [(c.id, h.toNat)] } }

/-- The parameter space of a grid: the copied block, with the predicted value in its place (R221). -/
def paramsOf (r : LaunchRec) (ws : List Word) (v : Tag16) (pred : Word) : Memory :=
  let m := Memory.writeWords [] 0 ws
  if r.preden && v != 0 then m.writeWord r.predoff pred else m

/-- The outcome of a launch: it waits, or it gives a system word and a child tag. -/
inductive Launched where
  | wait
  | done (s : State) (w : Word) (child : Word)

/-- A launch from its record on (R223): `child` is the predicted value in LNCHS. -/
def State.launch (s : State) (g : Group) (va : Nat) (child : Option Word) : Launched :=
  let fail := fun (s : State) (w : Word) => Launched.done s w 0
  match s.readVirt g va 32 with
  | .wait => .wait
  | .page s => fail s (sysWord 2 0)
  | .ecc => fail s (sysWord 0xF)
  | .ok s w =>
    match recordBad w with
    | some o => fail s (sysWord 1 o)
    | none =>
      let r0 := recordOf w []
      match s.readVirt g (recDword w 48) (r0.paramb / 4) with
      | .wait => .wait
      | .page s => fail s (sysWord 2 48)
      | .ecc => fail s (sysWord 0xF)
      | .ok s params =>
        match s.readRegions g (recDword w 56) r0.shared r0.tile (recByte w 33) 0 with
        | .wait => .wait
        | .bad s e => fail s e
        | .ok s regions =>
          if s.complWaits g.ctx r0.compl then .wait else
          match s.complPa g.ctx r0.compl with
          | (s, none) => fail s (sysWord 2 64)
          | (s, some _) =>
            let r := recordOf w regions
            match s.ctx? g.ctx with
            | none => fail s (sysWord 0xA)
            | some c =>
              if s.noFit r then fail s (sysWord 4)
              else
                match s.freeSlot g.ctx with
                | none => fail s (sysWord 3)
                | some slot =>
                  if !c.live r.vtag then fail s (sysWord 5)
                  else
                    let ok := fun (s : State) (v : Tag16) (pred tagWord : Word) =>
                      Launched.done (s.newGrid c slot { r with vtag := v } (paramsOf r params v pred)) (sysWord 0 (c.nextHandle slot).toNat) tagWord
                    match child with
                    | none => ok s r.vtag ((c.ver? r.vtag).map Ver.pred |>.getD 0) 0
                    | some b =>
                      if (c.path r.vtag).length = 16 then fail s (sysWord 6)
                      else
                        match c.freshTag with
                        | none => fail s (sysWord 7)
                        | some tag => ok (s.newVersion g.ctx tag r.vtag b) tag b (tag.setWidth 32)

/-- The precise checks on a record's address (R223): none fails, a trap, or a wait. -/
def State.launchTrap (s : State) (g : Group) (va : Nat) : State × Option (Option Trap) :=
  if va % 128 ≠ 0 then (s, some (some (memTrap .align 3 va)))
  else
    match s.locate g .global .rd va 1 with
    | (s, .error e) => (s, some e)
    | (s, .ok _) => (s, none)

/-- The shared part of LNCH and LNCHS (R223), once a commit before it is complete (R227): `pred` reads the predicted value. -/
def launchStep (a : Sel) (pred : View → Option Word) (put : Thread → Word → Word → Thread) (g : Group) (ts : List Thread) (s : State) : State × List Due :=
  match ts with
  | [] => (s, [])
  | t :: _ =>
    let v : View := ⟨g, t⟩
    let va := (v.pair a).toNat
    match s.launchTrap g va with
    | (s, some none) => stalled s
    | (s, some (some e)) => laneTrap g t e s
    | (s', none) =>
      if s'.outstanding g.key [t.tid] || s'.treeBusy g.ctx then stalled s
      else
        match (s'.releaseL1 g .dev).launch g va (pred v) with
        | .wait => stalled s
        | .done s w child => (s.modThread g.key t.tid (fun t => (put t w child).advance), [])

/-- Tag check of a global address pair. -/
def pairTags (a : Sel) (b : Option Sel) (v : View) : Option Trap :=
  if addrTag (v.pairTag addrTag a) && b.all (fun x => v.tag x != .void) then none
  else some (Machine.tagTrap 15 (some (v.pairTag addrTag a)) (b.map v.tag) none)

/-- A system word to d (R218). -/
def Thread.sysRes (t : Thread) (d : Sel) (w : Word) : Thread := t.result d ⟨w, .nat⟩

/-- LNCH (R223). -/
def execLnch (d a : Sel) (s : State) : Host.Outcome State Fault Refusal :=
  issueChecked (.lnch d a) s (pairTags a none) noUniform (launchStep a (fun _ => none) (fun t w _ => t.sysRes d w))

/-- LNCHS (R223). -/
def execLnchs (d a b : Sel) (s : State) : Host.Outcome State Fault Refusal :=
  issueChecked (.lnchs d a b) s (pairTags a (some b)) noUniform
    (launchStep a (fun v => some (v.val b)) (fun t w c => (t.sysRes d w).resultMore (d + 1) ⟨c, .nat⟩))

/-! WAITG (R228). -/

/-- WAITG in one thread. -/
def waitgStep (d a : Sel) (g : Group) (t : Thread) (s : State) : State × List Due :=
  let w := View.val ⟨g, t⟩ a
  let h := w.toNat % 2 ^ 16
  let give := fun (s : State) (x : Word) => (s.modThread g.key t.tid (fun t => (t.sysRes d x).advance), ([] : List Due))
  match s.grid? g.ctx h with
  | none => give s (sysWord 1 0xFF)
  | some gr =>
    match gr.done with
    | some x => give ((s.acquireL1 g .dev).freeGrid g.ctx h) x
    | none =>
      if w.getLsbD 16 then give s (sysWord 8)
      else
        match g.key with
        | .queue slot => ((s.modGrid g.ctx h (fun gr => { gr with waiters := gr.waiters.filter (fun x => decide (x.1 ≠ slot)) ++ [(slot, d)] })).blockAt g [t] .waitg, [])
        | .kernel _ _ _ _ => (s, [])

/-- WAITG (R228). -/
def execWaitg (d a : Sel) (s : State) : Host.Outcome State Fault Refusal :=
  issueChecked (.waitg d a) s (fun v => tagsOk v (v.slots (some a)) (addrTag (v.tag a))) noUniform
    (fun g ts s => eachLane g.key (waitgStep d a) (ts.map Thread.tid) s)

/-! RSLV, VSQ, VQRY. -/

/-- The acceptance history after a resolve (R229). -/
def ahStep (ah : BitVec 8) (accepted drafted : Nat) : BitVec 8 :=
  BitVec.ofNat 8 (ah.toNat - ah.toNat / 8 + Nat.min accepted drafted * 255 / drafted / 8)

/-- The result of RSLV on the state, when it is applied (R229). -/
def State.resolve (s : State) (ctx : Nat) (a b : Word) : State × Word :=
  let v : Tag16 := a.setWidth 16
  match s.ctx? ctx with
  | none => (s, sysWord 1 0xFF)
  | some c =>
    if b.toNat / 2 ^ 19 ≠ 0 ∨ v = 0 then (s, sysWord 1 0xFF)
    else if !c.live v then (s, sysWord 5)
    else if (c.ver? v).all (fun x => decide (x.parent ≠ 0)) then (s, sysWord 9)
    else if !(s.openGrids ctx (fun x => decide (x = v))).isEmpty then (s, sysWord 8)
    else
      let others := (c.liveVers.filter (fun x => decide (x.parent = 0) && decide (x.tag ≠ v))).flatMap (fun x => c.subtree x.tag)
      let s := (s.commit ctx v).squash ctx others
      let cls := b.toNat / 2 ^ 16 % 8
      let drafted := b.toNat / 2 ^ 8 % 256
      let s := if drafted = 0 then s
        else s.modCtx ctx (fun c => { c with ah := c.ah.mapIdx (fun i x => if i = cls then ahStep x (b.toNat % 256) drafted else x) })
      let ah := match s.ctx? ctx with | some c => nth c.ah cls 0 | none => 0
      (s, sysWord 0 (2 ^ 16 * Nat.min others.length 255 + ah.toNat))

/-- Peers whose acknowledgement of a commit notice is awaited. -/
def State.commitAwaits (s : State) (ctx : Nat) (v : Tag16) : Bool :=
  match s.ctx? ctx with
  | some c => (c.ver? v).any (fun x => !x.awaiting.isEmpty)
  | none => false

/-- RSLV in one thread, once a commit before it is complete (R227) and no completion record that it may write waits: its d
is written at once, or when every peer of C's set has acknowledged the commit (R300 step 4), until when the queue thread is
blocked at it (log entry 130). -/
def rslvStep (d a b : Sel) (g : Group) (t : Thread) (s : State) : State × List Due :=
  let v : View := ⟨g, t⟩
  if s.outstanding g.key [t.tid] || s.treeBusy g.ctx || s.recordsWait g.ctx (fun _ => true) then stalled s
  else
    let s := s.releaseL1 g .dev
    let (s, w) := s.resolve g.ctx (v.val a) (v.val b)
    if w.toNat / 2 ^ 24 = 0 ∧ s.commitAwaits g.ctx ((v.val a).setWidth 16) then
      let id := s.next
      let s := s.push { id := id, key := g.key, tid := t.tid, pc := t.seqPc, kind := .engine (.rslv d a b) [(v.val64 a), w.setWidth 64] Layout.invalid, dests := [(d, .nat)], ctx := g.ctx, core := g.core }
      (s.modThread g.key t.tid (fun t => { t with block := some .rslv, latOwner := if d.toNat ≤ 0xF8 then some id else t.latOwner }), [])
    else (s.modThread g.key t.tid (fun t => (t.sysRes d w).advance), [])

/-- RSLV (R229). -/
def execRslv (d a b : Sel) (s : State) : Host.Outcome State Fault Refusal :=
  issueChecked (.rslv d a b) s (fun v => tagsOk v (v.slots (some a) (some b)) (addrTag (v.tag a) && addrTag (v.tag b))) noUniform
    (fun g ts s => eachLane g.key (rslvStep d a b) (ts.map Thread.tid) s)

/-- The result of VSQ (R230). -/
def State.vsq (s : State) (ctx : Nat) (v : Tag16) : State × Word :=
  match s.ctx? ctx with
  | none => (s, sysWord 1 0xFF)
  | some c =>
    if v = 0 then (s, sysWord 1 0xFF)
    else if !c.live v then (s, sysWord 5)
    else
      let set := c.subtree v
      (s.squash ctx set, sysWord 0 (2 ^ 16 * Nat.min set.length 255))

/-- VSQ (R230), once a commit before it is complete (R227) and no completion record that it may write waits. -/
def execVsq (d a : Sel) (s : State) : Host.Outcome State Fault Refusal :=
  issueChecked (.vsq d a) s (fun v => tagsOk v (v.slots (some a)) (addrTag (v.tag a))) noUniform
    (fun g ts s =>
      if s.treeBusy g.ctx || s.recordsWait g.ctx (fun _ => true) then stalled s
      else eachLane g.key (fun g t s =>
        let (s, w) := s.vsq g.ctx ((View.val ⟨g, t⟩ a).setWidth 16)
        (s.modThread g.key t.tid (fun t => (t.sysRes d w).advance), [])) (ts.map Thread.tid) s)

/-- What VQRY reports of a tag (R231). -/
def Ctx.vqry (c : Ctx) (v : Tag16) : Word :=
  let kids := (c.liveVers.filter (fun x => decide (x.parent = v))).length
  if v = 0 then BitVec.ofNat 32 (2 ^ 30 + 2 ^ 16 * kids)
  else
    match c.ver? v with
    | none => 0xC0000000
    | some x =>
      match x.st with
      | .live => BitVec.ofNat 32 (2 ^ 24 * (c.path v).length + 2 ^ 16 * kids + x.parent.toNat)
      | .committed => 0x40000000
      | .squashed => 0x80000000

/-- VQRY (R231). -/
def execVqry (d a : Sel) (s : State) : Host.Outcome State Fault Refusal :=
  lanewise (.vqry d a) s (fun _ v =>
    v.withTags (v.slots (some a)) (addrTag (v.tag a))
      (LaneOut.res d (match s.ctx? v.g.ctx with | some c => c.vqry ((v.val a).setWidth 16) | none => 0xC0000000) .nat))

end Sys2Proof.Machine
end

