-- ==== Sys2Proof/Machine/System.lean ====
section
/-! DEFINITION. System registers SRD and SWR (R26 to R29, R234), LOC (R232), HOSTI (R233), and the
privileged table and memory instructions TLWR, KVFRK, MIGR with its line moves, and PTINV (R239 to R242,
R286 to R289). -/

namespace Sys2Proof.Machine

/-! The catalogue of system registers. -/

/-- Who may read or write (R26). -/
inductive Level where
  | thread | queue | priv | nobody
  deriving DecidableEq, Repr

/-- Does a group's thread reach a level? -/
def Level.ok (l : Level) (g : Group) : Bool :=
  match l with
  | .thread => true
  | .queue => g.key.isQueue
  | .priv => g.key.isQueue && g.priv
  | .nobody => false

/-- One row of the catalogue with its fields (R26, R29): the RW and the RO bits. -/
structure SysReg where
  read : Level
  write : Level
  rw : DWord
  ro : DWord
  deriving DecidableEq, Repr

/-- The catalogue (R26, R29). -/
def sysReg (n : Nat) : Option SysReg :=
  match n with
  | 0x10 => some ⟨.thread, .queue, 0xFFFFFFFD, 0⟩
  | 0x11 => some ⟨.thread, .nobody, 0, 0xFF03FF⟩
  | 0x12 => some ⟨.thread, .thread, 0xFFFFFFFC, 0⟩
  | 0x13 => some ⟨.thread, .nobody, 0, 0xFFFFFFFFFFFFFFFF⟩
  | 0x14 => some ⟨.thread, .queue, 3, 0⟩
  | 0x20 => some ⟨.thread, .nobody, 0, 0x8000FFFF⟩
  | 0x21 => some ⟨.thread, .priv, 0x00FFFFFFFFFFF000, 0⟩
  | 0x30 => some ⟨.thread, .thread, 0xF, 0⟩
  | 0x31 => some ⟨.thread, .thread, 0x3F, 0⟩
  | 0x40 => some ⟨.thread, .thread, 0xFFFFFFFF, 0⟩
  | 0x41 => some ⟨.thread, .queue, 0x1FFFF, 0⟩
  | 0x50 => some ⟨.thread, .nobody, 0, 0x0087FFFFFFFFFFFF⟩
  | 0x60 => some ⟨.thread, .queue, 0xFFFF, 0xFFFFFFFF00FF0000⟩
  | 0x70 => some ⟨.thread, .nobody, 0, 0xFFFFFFC0⟩
  | n => if 0x80 ≤ n ∧ n ≤ 0x87 then some ⟨.queue, .nobody, 0, 0xFFFFFFFFFFFFFFFF⟩ else none

/-- Lines of a context in the spill pools (R29 VERS). -/
def State.spill (s : State) (ctx : Nat) : Nat := (s.mem.copies.filter (fun c => c.pool && c.src.isNone && decide (c.ctx = ctx))).length

/-- VERS of a context (R29). -/
def State.versWord (s : State) (c : Ctx) : DWord :=
  BitVec.ofNat 64 (2 ^ 48 * c.drops.toNat + 2 ^ 32 * Nat.min (s.spill c.id / 1024) 0xFFFF + 2 ^ 16 * c.liveVers.length + c.quota.toNat)

/-- A context-scope value; 0 for a context that does not exist. -/
def State.ctxVal (s : State) (g : Group) (f : Ctx → DWord) : DWord :=
  match s.ctx? g.ctx with
  | some c => f c
  | none => 0

/-- GANG as a group reads it: that of its core's array, or of its team's state that waits for the array (R29, log
entry 25). -/
def State.gangReg (s : State) (g : Group) : DWord :=
  match (if s.arrAwaited g then s.frozenArr g.arrCore else none) with
  | some (_, a) => a.gang
  | none => (s.arr g.arrCore).gang ||| (if (s.arr g.arrCore).ops.isEmpty then 0 else 0x0080000000000000)

/-- The value of a system register as a thread reads it (R29). -/
def State.readSys (s : State) (g : Group) (t : Thread) (n : Nat) : DWord :=
  match n with
  | 0x10 => s.ctxVal g Ctx.trapVec
  | 0x11 => t.trapCause
  | 0x12 => t.trapPc
  | 0x13 => t.trapVal
  | 0x14 => s.ctxVal g Ctx.trapMask
  | 0x20 => BitVec.ofNat 64 (g.ctx + (if g.key.isQueue && g.priv then 2 ^ 31 else 0))
  | 0x21 => s.ctxVal g Ctx.codeBase
  | 0x30 => t.rndm
  | 0x31 => t.flags
  | 0x40 => g.lockTmo
  | 0x41 => s.ctxVal g Ctx.preempt
  | 0x50 => s.gangReg g
  | 0x60 => s.ctxVal g s.versWord
  | 0x70 => (match s.teamOf? g.key with | some x => x.idemBase | none => 0)
  | n => nth s.dev.heatmap (n - 0x80) 0

/-- A half of a 64-bit value. -/
def halfOf (high : Bool) (x : DWord) : Word := if high then x.extractLsb' 32 32 else x.extractLsb' 0 32

/-- A value with one half replaced. -/
def putHalf (high : Bool) (x : DWord) (w : Word) : DWord := if high then w ++ x.extractLsb' 0 32 else x.extractLsb' 32 32 ++ w

/-- The value a write leaves: RW bits from the operand, the others kept (R27). -/
def SysReg.put (r : SysReg) (high : Bool) (old : DWord) (w : Word) : DWord :=
  putHalf high old ((halfOf high old &&& ~~~(halfOf high r.rw)) ||| (w &&& halfOf high r.rw))

/-- Write a register (R28). A write at context scope is one step, so that an instruction which issues after it sees the new
value (DESIGN CHOICE, log entry 131). -/
def State.writeSys (s : State) (g : Group) (tid n : Nat) (f : DWord → DWord) : State :=
  let inThread := fun (h : Thread → Thread) => s.modThread g.key tid h
  let inCtx := fun (h : Ctx → Ctx) => s.modCtx g.ctx h
  match n with
  | 0x10 => inCtx (fun c => { c with trapVec := f c.trapVec })
  | 0x12 => inThread (fun t => { t with trapPc := f t.trapPc })
  | 0x14 => inCtx (fun c => { c with trapMask := f c.trapMask })
  | 0x21 => inCtx (fun c => { c with codeBase := f c.codeBase })
  | 0x30 => inThread (fun t => { t with rndm := f t.rndm })
  | 0x31 => inThread (fun t => { t with flags := f t.flags })
  | 0x40 => s.modGroup g.key (fun g => { g with lockTmo := f g.lockTmo })
  | 0x41 => inCtx (fun c => { c with preempt := f c.preempt })
  | 0x60 => inCtx (fun c => { c with quota := (f (c.quota.setWidth 64)).extractLsb' 0 16 })
  | _ => s

/-- PROT of a system register (R356). -/
def sysProt (n : Nat) : Trap := ⟨.prot, 3, BitVec.ofNat 64 n, .precise⟩

/-- Register number and half of an immediate (R234). -/
def sysNum (imm : BitVec 16) : Nat := imm.toNat % 2 ^ 15
def sysHigh (imm : BitVec 16) : Bool := imm.getLsbD 15

/-- Checks 1 and 2 of R27 for a read or a write of one half. -/
def sysCheck (i : Instr) (g : Group) (imm : BitVec 16) (wr : Bool) : Except Trap SysReg :=
  match sysReg (sysNum imm) with
  | none => .error (illegal 8 i)
  | some r =>
    let level := if wr then r.write else r.read
    if !level.ok g then .error (sysProt (sysNum imm))
    else if wr && halfOf (sysHigh imm) r.rw == 0 && halfOf (sysHigh imm) r.ro != 0 then .error (sysProt (sysNum imm))
    else .ok r

/-- Check 3 of R27: RES0 bits and reserved values. -/
def sysValueBad (imm : BitVec 16) (r : SysReg) (w : Word) : Bool :=
  (w &&& ~~~(halfOf (sysHigh imm) (r.rw ||| r.ro))) != 0 ||
  (decide (sysNum imm = 0x30) && !sysHigh imm && decide (4 < w.toNat % 8))

/-- SRD (R234). -/
def execSrd (d : Sel) (imm : BitVec 16) (s : State) : Host.Outcome State Fault Refusal :=
  issue (.srd d imm) s (fun g ts s =>
    match sysCheck (.srd d imm) g imm false with
    | .error e => (s, dues g.key ts e)
    | .ok _ =>
      (s.modThreads g.key (ts.map Thread.tid) (fun t =>
        (t.result d ⟨halfOf (sysHigh imm) (s.readSys g t (sysNum imm)), .nat⟩).advance), []))

/-- Tag check and check 3 of a lane of SWR. -/
def swrLane (d : Sel) (imm : BitVec 16) (r : SysReg) (v : View) : Option Trap :=
  if v.tag d = .void then some (v.tagTrap (v.slots none none (some d)))
  else if sysValueBad imm r (v.val d) then some (illegal 8 (.swr d imm))
  else none

/-- SWR (R234, R28): it closes the idempotent region (R326). R27 gives the tag check of d no place among its checks: it
stands after checks 1 and 2 and before check 3 (log entry 107). -/
def execSwr (d : Sel) (imm : BitVec 16) (s : State) : Host.Outcome State Fault Refusal :=
  issue (.swr d imm) s (fun g ts s =>
    match sysCheck (.swr d imm) g imm true with
    | .error e => (s, dues g.key ts e)
    | .ok r =>
      afterChecks (swrLane d imm r) (fun v => if sysNum imm = 0x40 then [v.reg d] else [])
        (fun g ts s => eachLane g.key (fun g t s =>
          let w := View.val ⟨g, t⟩ d
          let s := s.writeSys g t.tid (sysNum imm) (fun old => r.put (sysHigh imm) old w)
          (s.modThread g.key t.tid (fun t => t.close.advance), [])) (ts.map Thread.tid) s) g ts s)

/-! LOC (R232). -/

/-- Selector 0 of LOC. -/
def State.locPlace (s : State) (g : Group) : Nat :=
  match g.key with
  | .queue slot => 2 ^ 31 + 2 ^ 28 * (slot / 32) + 2 ^ 25 * (slot / 8 % 4) + 2 ^ 22 * (slot % 8)
  | .kernel _ _ _ _ =>
    2 ^ 28 * dieOf g.core + 2 ^ 21 * (g.core % 80) + (match s.teamOf? g.key with | some t => if t.pair then 2 ^ 20 else 0 | none => 0)

/-- What LOC writes for a selector below 4. -/
def State.locVal (s : State) (g : Group) (sel : Nat) : Nat :=
  match sel, s.teamOf? g.key with
  | 0, _ => s.locPlace g
  | 1, some t => (match s.grid? t.key.ctx t.key.grid with | some gr => if gr.rcd.tile = 0 then 0 else t.tileBase | none => 0)
  | 2, some t => Nat.min t.migrations 255
  | 3, some t => t.key.grid
  | 3, none => 0xFFFF
  | _, _ => 0

/-- LOC (R232). -/
def execLoc (d : Sel) (s : State) : Host.Outcome State Fault Refusal :=
  lanewise (.loc d) s (fun _ v =>
    reservedValue (.loc d) (decide (3 < (v.val d).toNat))
      (v.withTags (v.slots none none (some d)) (addrTag (v.tag d))
        (LaneOut.res d (BitVec.ofNat 32 (s.locVal v.g (v.val d).toNat)) .nat)))

/-! HOSTI (R233). -/

/-- Send the interrupt of a context's vector (R233, R376). -/
def State.sendMsix (s : State) (c : Ctx) (v : Nat) : State × Word :=
  if c.vecCount ≤ v then (s, sysWord 0xD)
  else
    let n := c.vecFirst + v
    let e := Store.get MsixEntry.reset s.dev.msix n
    if !e.masked then ({ s with dev := { s.dev with msixSent := s.dev.msixSent ++ [(n, e.addr, e.data)] } }, sysWord 0)
    else ({ s with dev := { s.dev with msixPending := n :: s.dev.msixPending.filter (fun x => decide (x ≠ n)) } }, sysWord 0xC)

/-- HOSTI in one thread: it waits until every earlier access is performed at scope SYS. -/
def hostiStep (d a : Sel) (g : Group) (t : Thread) (s : State) : State × List Due :=
  let w := View.val ⟨g, t⟩ a
  let give := fun (s : State) (x : Word) => (s.modThread g.key t.tid (fun t => (t.sysRes d x).advance), ([] : List Due))
  if 2 ^ 11 ≤ w.toNat then give s (sysWord 1 0xFF)
  else if s.outstanding g.key [t.tid] then stalled s
  else
    match s.ctx? g.ctx with
    | none => give s (sysWord 0xD)
    | some c =>
      let (s, x) := (s.releaseL1 g .sys).sendMsix c w.toNat
      give s x

/-- HOSTI (R233). -/
def execHosti (d a : Sel) (s : State) : Host.Outcome State Fault Refusal :=
  issueChecked (.hosti d a) s (fun v => tagsOk v (v.slots (some a)) (addrTag (v.tag a))) noUniform
    (fun g ts s => eachLane g.key (hostiStep d a) (ts.map Thread.tid) s)

/-! TLWR (R239). -/

/-- The entry of an image (R170). -/
def layoutOf (w : List Word) : Layout :=
  { ctx := recHalf w 0, kind := recByte w 2, opt := recByte w 3, count := recWord w 4, base := recDword w 8, pool := recDword w 16,
    hdrs := recDword w 24, nblk := recWord w 32, stride := recWord w 36, rowbytes := recWord w 40, trows := recHalf w 44 }

/-- The checks of an image, in ascending offset order (R170, R239); KIND 0 has none. -/
def imageChecks (w : List Word) : List (Nat × Bool) :=
  match recByte w 2 with
  | 0 => []
  | 1 =>
    [ (3, decide (recByte w 3 ≤ 1)), (16, recDword w 16 % 4096 == 0), (24, recDword w 24 % 64 == 0),
      (36, recWord w 36 % 16 == 0 && decide (128 ≤ recWord w 36)), (40, recWord w 40 == 0), (44, recHalf w 44 == 0), (46, recZero w 46 64) ]
  | 2 =>
    [ (3, recByte w 3 == 0), (16, recDword w 16 == 0), (24, recDword w 24 == 0), (32, recWord w 32 == 0),
      (36, recWord w 36 % 4 == 0 && decide (recWord w 40 ≤ recWord w 36)),
      (40, recWord w 40 % 4 == 0 && decide (4 ≤ recWord w 40) && decide (recWord w 40 ≤ 65536)),
      (44, decide (1 ≤ recHalf w 44) && decide (recHalf w 44 ≤ 1024)), (46, recZero w 46 64) ]
  | _ => [(2, false)]

/-- The offset of the first bad field. -/
def imageBad (w : List Word) : Option Nat := ((imageChecks w).find? (fun c => !c.2)).map Prod.fst

/-- TLWR in one thread. -/
def tlwrStep (d a b : Sel) (g : Group) (t : Thread) (s : State) : State × List Due :=
  let v : View := ⟨g, t⟩
  let va := (v.pair b).toNat
  let tgt := (v.val a).toNat / 2 ^ 16
  let give := fun (s : State) (x : Word) => (s.modThread g.key t.tid (fun t => (t.sysRes d x).advance), ([] : List Due))
  if va % 64 ≠ 0 then laneTrap g t (memTrap .align 4 va) s
  else if s.outstanding g.key [t.tid] then stalled s
  else if (s.ctx? tgt).isNone then give s (sysWord 0xA)
  else
    match s.readVirt g va 16 with
    | .wait => stalled s
    | .page s => give s (sysWord 2 0xFF)
    | .ecc => give s (sysWord 0xF)
    | .ok s w =>
      if recHalf w 0 ≠ tgt then give s (sysWord 1 0)
      else
        match imageBad w with
        | some o => give s (sysWord 1 o)
        | none =>
          let e := if recByte w 2 = 0 then Layout.invalid else layoutOf w
          give (s.modCtx tgt (fun c => { c with layout := Store.set Layout.invalid c.layout ((v.val a).toNat % 2 ^ 16) e })) (sysWord 0)

/-- Tag check of an operand and a global pair. -/
def valPairTags (a : Sel) (b : Sel) (v : View) : Option Trap :=
  if addrTag (v.tag a) && addrTag (v.pairTag addrTag b) then none
  else some (Machine.tagTrap 15 (some (v.tag a)) (some (v.pairTag addrTag b)) none)

/-- TLWR (R239). -/
def execTlwr (d a b : Sel) (s : State) : Host.Outcome State Fault Refusal :=
  issueChecked (.tlwr d a b) s (valPairTags a b) noUniform (fun g ts s => eachLane g.key (tlwrStep d a b) (ts.map Thread.tid) s)

/-! KVFRK (R240). -/

/-- The issuing thread acting in another context, at the home slices. -/
def Group.inCtx (g : Group) (ctx : Nat) : Group := { key := g.key, width := 1, nregs := 8, threads := [], core := g.core, qctx := ctx }

/-- Words that a privileged instruction reads or writes in a context, with their readiness. -/
inductive Words where
  | wait (s : State)
  | bad (s : State) (w : Word)
  | ok (s : State) (l : List Acc)

/-- Words of a run of a context, with the permission that is needed (R283). -/
def State.privWords (s : State) (g : Group) (need : Need) (va n : Nat) : Words :=
  match s.engRange g .global va n with
  | some _ => .bad s (sysWord 2 0xFF)
  | none =>
    match s.engAccs g .global need va n with
    | (s, .error none) => .wait s
    | (s, .error (some _)) => .bad s (sysWord 2 0xFF)
    | (s, .ok l) =>
      if l.any s.accPortDown then .bad s (sysWord 0xF)
      else if s.engReady g.engine l (if need = .rd then [] else l) then .ok s l
      else .wait s

/-- REFCNT of a header word raised by one (R171). -/
def refPlus (h : Word) : Word := h + 0x10000

/-- A header with REFCNT 1. -/
def refOne (h : Word) : Word := BitVec.ofNat 32 (h.toNat % 2 ^ 16 + 2 ^ 16)

/-- What a KVFRK comes to: it waits, or a state and a system word. -/
inductive Forked where
  | wait (s : State)
  | done (s : State) (w : Word)

/-- The words of a run, or the end of the KVFRK. -/
def Words.andThen (x : Words) (f : State → List Acc → Forked) : Forked :=
  match x with
  | .wait s => .wait s
  | .bad s w => .done s w
  | .ok s l => f s l

/-- The copy itself, once REFCNT(q) is known to be 0 (R240): D is set for the pages of q first (R284). -/
def State.kvCopyBlock (s : State) (g : Group) (h : Layout) (p q : Nat) : Forked :=
  (s.privWords g .rw (h.hdr q) 16).andThen fun s qh =>
  (s.privWords g .rw (h.rows q) 1024).andThen fun s qr =>
  (s.privWords g .rd (h.hdr p) 16).andThen fun s ph =>
  (s.privWords g .rd (h.rows p) 1024).andThen fun s pr =>
    let s := s.engPrepare g (ph ++ pr) (qh ++ qr)
    if (ph ++ pr).any (fun a => s.accPoison g.engine a) then .done s (sysWord 0xF)
    else
      match s.markAll g.tlbUnit g.ctx [h.rows q, h.hdr q] with
      | (s, false) => .wait s
      | (s, true) =>
        let (s, hw) := s.engRead g.engine ph
        let (s, rw) := s.engRead g.engine pr
        .done (s.engWrite g.engine ((qr.zip rw) ++ qh.zip (refOne (nth hw 0 0) :: hw.drop 1))) (sysWord 0 (2 ^ 23))

/-- The copy of block p to the spare block q (R240): q's REFCNT is looked at before anything else of q or p. -/
def State.kvSpare (s : State) (g : Group) (h : Layout) (p q : Nat) : Forked :=
  if h.nblk ≤ q then .done s (sysWord 0xE 1)
  else
    (s.privWords g .rd (h.hdr q) 1).andThen fun s q0 =>
      let s := s.engPrepare g q0 []
      if q0.any (fun a => s.accPoison g.engine a) then .done s (sysWord 0xF)
      else
        let (s, w) := s.engRead g.engine q0
        if kvRefcnt (nth w 0 0) ≠ 0 then .done s (sysWord 0xE 1) else s.kvCopyBlock g h p q

/-- KVFRK on an entry (R240). -/
def State.kvFork (s : State) (g : Group) (h : Layout) (p q : Nat) : Forked :=
  if h.nblk ≤ p then .done s (sysWord 0xE 0)
  else
    (s.privWords g .rw (h.hdr p) 1).andThen fun s ha =>
      let s := s.engPrepare g ha ha
      if ha.any (fun a => s.accPoison g.engine a) then .done s (sysWord 0xF)
      else
        let h0 := nth (s.engRead g.engine ha).2 0 0
        if kvRefcnt h0 = 0 then .done s (sysWord 0xE 0)
        else if kvRefcnt h0 < 1023 then
          match s.markDirty g.tlbUnit g.ctx (h.hdr p) with
          | (s, false) => .wait s
          | (s, true) => .done (s.engWrite g.engine (ha.zip [refPlus h0])) (sysWord 0 0)
        else s.kvSpare g h p q

/-- KVFRK in one thread. -/
def kvfrkStep (d a b : Sel) (g : Group) (t : Thread) (s : State) : State × List Due :=
  let v : View := ⟨g, t⟩
  let tgt := (v.val a).toNat / 2 ^ 16
  let give := fun (s : State) (x : Word) => (s.modThread g.key t.tid (fun t => (t.sysRes d x).advance), ([] : List Due))
  match s.ctx? tgt with
  | none => give s (sysWord 1 0xFF)
  | some c =>
    let e := Store.get Layout.invalid c.layout ((v.val a).toNat % 2 ^ 16)
    if e.ctx ≠ tgt ∨ e.kind ≠ 1 then give s (sysWord 1 0xFF)
    else if s.outstanding g.key [t.tid] then stalled s
    else
      match s.kvFork (g.inCtx tgt) e (v.val b).toNat (v.val d).toNat with
      | .wait s => stalled s
      | .done s w => give s w

/-- KVFRK (R240). -/
def execKvfrk (d a b : Sel) (s : State) : Host.Outcome State Fault Refusal :=
  issueChecked (.kvfrk d a b) s
    (fun v => if addrTag (v.tag a) && decide (v.tag b = .nat) && addrTag (v.tag d) then none
      else some (v.tagTrap (v.slots (some a) (some b) (some d)) (if v.tag b = .nat then 15 else 2))) noUniform
    (fun g ts s => eachLane g.key (kvfrkStep d a b) (ts.map Thread.tid) s)

/-! MIGR and its line moves (R241, R286 to R289). -/

/-- The frame that an operand of MIGR names, as the model keys it: bit 63 names host memory, as HOST does
in an entry (R282). -/
def migrFrame (b : DWord) : Nat × Bool := ((b &&& 0x7FFFFFFFFFFFFFFF).toNat, b.getLsbD 63)

/-- Is an operand of MIGR a good frame of a size (R241, R283)? -/
def State.migrFrameOk (s : State) (b : DWord) (bytes : Nat) : Bool :=
  let (f, host) := migrFrame b
  (host || decide (f < 2 ^ 39)) && s.frameOk host f bytes

/-- A frame's key. -/
def migrKey (b : DWord) : Nat := let (f, host) := migrFrame b; f + (if host then hostBit else 0)

/-- The record of a page, migrating or split. -/
def State.migrOf (s : State) (ctx va : Nat) : Option Migr := s.mem.migr.find? (fun m => decide (m.ctx = ctx) && decide (m.va = va))

/-- Replace the record of a page. -/
def State.setMigr (s : State) (m : Migr) : State :=
  { s with mem := { s.mem with migr := m :: s.mem.migr.filter (fun x => !(decide (x.ctx = m.ctx) && decide (x.va = m.va))) } }

/-- A MIGR that is accepted, or its system word (R241, R288). -/
def State.migrStart (s : State) (ctx : Nat) (a b : DWord) (dst : GKey × Sel) : Except Word Migr :=
  match s.ctx? ctx with
  | none => .error (sysWord 0xA)
  | some c =>
    if 2 ^ 56 ≤ a.toNat then .error (sysWord 2 0xFF)
    else
      match s.walk a.toNat 4 c.ptRoot with
      | .error _ => .error (sysWord 2 0xFF)
      | .ok l =>
        let bytes := pageBytes (pteSize l.pte)
        if l.vbase ≠ a.toNat ∨ !s.migrFrameOk b bytes then .error (sysWord 2 0xFF)
        else
          match s.migrOf ctx a.toNat with
          | none => .ok { ctx := ctx, va := a.toNat, size := bytes, old := leafBase l.pte, new := migrKey b, dst := some dst }
          | some m =>
            if m.running then .error (sysWord 0xB)
            else if migrKey b = m.new then .ok { m with next := 0, toNew := true, running := true, dst := some dst }
            else if migrKey b = m.old then .ok { m with next := 0, toNew := false, running := true, dst := some dst }
            else .error (sysWord 2 0xFF)

/-- Does the table that maps a page have a line that waits to be moved (R287)? -/
def State.tableWaits (s : State) (ctx va : Nat) : Bool :=
  match s.ctx? ctx with
  | some c => s.walkWaits va 4 c.ptRoot
  | none => false

/-- MIGR in one thread: d stays busy until the migration ends. -/
def migrStep (d a b : Sel) (g : Group) (t : Thread) (s : State) : State × List Due :=
  let v : View := ⟨g, t⟩
  let give := fun (s : State) (x : Word) => (s.modThread g.key t.tid (fun t => (t.sysRes d x).advance), ([] : List Due))
  if 2 ^ 16 ≤ (v.val d).toNat then give s (sysWord 1 0xFF)
  else if s.tableWaits (v.val d).toNat (v.pair a).toNat then stalled s
  else
    match s.migrStart (v.val d).toNat (v.pair a) (v.pair b) (g.key, d) with
    | .error w => give s w
    | .ok m =>
      let id := s.next
      let s := (s.setMigr m).push {
        id := id, key := g.key, tid := t.tid, pc := t.seqPc, kind := .engine (.migr d a b) [] Layout.invalid, dests := [(d, .nat)], ctx := g.ctx, core := g.core }
      (s.modThread g.key t.tid (fun t => t.issued id [(d, .nat)] false), [])

/-- Tag check of MIGR. -/
def migrTags (d a b : Sel) (v : View) : Option Trap :=
  if addrTag (v.tag d) && addrTag (v.pairTag addrTag a) && addrTag (v.pairTag addrTag b) then none
  else some (Machine.tagTrap 15 (some (v.pairTag addrTag a)) (some (v.pairTag addrTag b)) (some (v.tag d)))

/-- MIGR (R241). -/
def execMigr (d a b : Sel) (s : State) : Host.Outcome State Fault Refusal :=
  issueChecked (.migr d a b) s (migrTags d a b) noUniform (fun g ts s => eachLane g.key (migrStep d a b) (ts.map Thread.tid) s)

/-- The operation of MIGR ends with its system word in d. -/
def State.migrAnswer (s : State) (m : Migr) (w : Word) : State :=
  match s.pends.find? (fun p => match p.kind with
      | .engine (.migr _ _ _) _ _ => m.dst.any (fun x => decide (x.1 = p.key) && decide (p.dests = [(x.2, .nat)]))
      | _ => false) with
  | some p => { s.deliver p [w] with pends := s.pends.filter (fun q => decide (q.id ≠ p.id)) }
  | none => s

/-- Can a line be read or written for a migration: no transaction on it, and its host halves held? -/
def State.migrReady (s : State) (line : Nat) (write : Bool) : Bool :=
  if line < hostBit then !s.coh.busy line
  else [line, line + 64].all (fun h => !s.coh.busy h && s.halfOk h write)

/-- Can no word of a line be read: a sector is poisoned, or a half was lost with its port (R288)? -/
def State.lineBad (s : State) (line : Nat) : Bool :=
  (List.range 4).any (fun j => s.poisoned (line + 32 * j)) || (List.range 2).any (fun j => decide ((line + 64 * j) / 64 ∈ s.mem.lost))

/-- What a group knows of a lock's line follows the lock's record (R287). -/
def Group.moveLock (g : Group) (src dst : Nat) : Group :=
  let f := fun (l : Nat) => if l = src then dst else l
  { g with held := g.held.map f, awaited := g.awaited.map f, lockEnded := g.lockEnded.map (fun e => (e.1, f e.2.1, e.2.2)) }

/-- The lock record of a line moves, with what the groups know of it, running or saved (R287). -/
def State.moveLock (s : State) (src dst : Nat) : State :=
  let f := fun (g : Group) => g.moveLock src dst
  { s with
    locks := s.locks.map (fun r => if r.line = src then { r with line := dst } else r)
    groups := s.groups.map f
    teams := s.teams.map (fun t => { t with frozen := t.frozen.map f })
    ctxs := s.ctxs.map (fun c => { c with savedQ := c.savedQ.map (fun x => (f x.1, x.2)) }) }

/-- The newest words of a line come to its home slice, before it is read for a move (R286). -/
def State.gatherLine (s : State) (line : Nat) : State :=
  let s := (s.coh.self.filter (fun x => decide (x.line = line))).foldl (fun s x => s.dropSelf x.core (fun l => decide (l = line))) s
  (s.recall line).recall (line + unitWords line * 4 % 128)

/-- The copies of a line go to its place in the other frame, those in L2 to its home slice there. -/
def State.moveCopies (s : State) (src dst : Nat) : State :=
  let mine := s.mem.copies.filter (fun c => decide (c.line = src))
  let s := { s with mem := { s.mem with
    copies := s.mem.copies.map (fun c => if c.line = src then { c with line := dst } else c)
    l2 := s.mem.l2.filter (fun e => decide (e.line ≠ src)) } }
  (mine.filter (fun c => c.src.isNone && !c.pool && decide (dst < peerBit))).foldl (fun s c => s.l2Use 0 dst (some (c.ctx, c.tag)) 0xF) s

/-- A line's words, gathered at its home slice, move to its place in the other frame, with the copies, the pool lines and
the lock record it has; scope-checker records do not move (R286, R287). -/
def State.moveLine (s : State) (src dst : Nat) : State :=
  let ws := (List.range 32).map (fun i => s.peek (src + 4 * i))
  let s := (s.polderInval src).homeWrites dst ws
  let s := (s.moveLock src dst).moveCopies src dst
  { s with scopes := s.scopes.filter (fun r => decide (r.line ≠ src) && decide (r.line ≠ dst)) }

/-- A leaf entry with another frame (R286). -/
def pteWithFrame (e : DWord) (frame : Nat) : DWord :=
  (e &&& ~~~(((BitVec.allOnes 39 : BitVec 39).setWidth 64 <<< 12) ||| (1#64 <<< 63))) |||
    BitVec.ofNat 64 (frame % hostBit) ||| (if hostBit ≤ frame then 1#64 <<< 63 else 0)

/-- Entries that a page of a size code takes (R281). -/
def leafCount (code : Nat) : Nat :=
  if code ≤ 3 then pageBytes code / 2 ^ 12 else if code ≤ 6 then pageBytes code / 2 ^ 23 else 1

/-- Step 3 of R286: the frame in every leaf entry of the page, from the first on. -/
def State.writeFrames (s : State) (at_ frame : Nat) : Nat → State
  | 0 => s
  | n + 1 =>
    let pa := s.fwd at_
    State.writeFrames (s.pokes pa (halves64 (pteWithFrame (s.peek64 pa) frame))) (at_ + 8) frame n

/-- A piece of an engine command with its addresses mended. -/
def EngPiece.fix (f : Acc → Acc) (x : EngPiece) : EngPiece := { x with words := x.words.map (fun (w : Acc × Acc) => (f w.1, f w.2)), hdr := x.hdr.map f }

/-- How far a command has come, with its addresses mended. -/
def EngProg.fix (f : Acc → Acc) (x : EngProg) : EngProg := { x with left := x.left.map (EngPiece.fix f) }

/-- The end of a migration: entries, translations, record, d (R286 steps 3 and 4). Operations that were
translated before it work at the frame where the lines now are. -/
def State.migrEnd (s : State) (m : Migr) : State :=
  let target := if m.toNew then m.new else m.old
  let code := match s.ctx? m.ctx with
    | some c => (match s.walk m.va 4 c.ptRoot with | .ok l => some (l, pteSize l.pte) | .error _ => none)
    | none => none
  let s := match code with
    | some (l, code) => s.writeFrames l.leafAt target (leafCount code)
    | none => s
  let s := s.tlbInval m.ctx (some m.va)
  let s := { s with mem := { s.mem with
    migr := s.mem.migr.filter (fun x => !(decide (x.ctx = m.ctx) && decide (x.va = m.va))) } }
  let fix := fun (a : Acc) => match a.loc with
    | .global pa => if m.toNew && m.covers pa then { a with loc := .global (pa - m.old + m.new) } else a
    | _ => a
  let s := { s with pends := s.pends.map (fun (p : Pend) => if p.ctx = m.ctx then { p with prog := p.prog.map (EngProg.fix fix), kind := match p.kind with
    | .load ws => .load (ws.map fix)
    | .store ws f => .store (ws.map (fun (x : Acc × Word) => (fix x.1, x.2))) f
    | .atomic a op t x r => .atomic (fix a) op t x r
    | .cas a c n f => .cas (fix a) c n f
    | .lock i a ps ws => .lock i (fix a) ps ws
    | k => k } else p) }
  s.migrAnswer m (sysWord 0 (match code with | some (_, c) => c | none => 0))

/-- The record of a page after a line: past the last the migration ends, once the page's table can be read. -/
def State.migrNext (s : State) (m : Migr) : State :=
  let s := s.setMigr m
  if m.size ≤ 128 * m.next ∧ !s.tableWaits m.ctx m.va then s.migrEnd m else s

/-- A page whose line cannot be read stays split, and d has ECC (R288). -/
def State.migrSplit (s : State) (m : Migr) : State := (s.setMigr { m with running := false, dst := none }).migrAnswer m (sysWord 0xF)

/-- MIGRATION_LINE_MOVE (R286): the next line of a migrating page moves; after the last the page leaves
MIGRATING. A line that cannot be read leaves the page split (R288); one whose lock record finds no room, or finds
another at the new line, stays (R287, log entry 95). -/
def execMigrationLineMove (ctx va : Nat) (s : State) : Host.Outcome State Fault Refusal :=
  match s.migrOf ctx va with
  | none => .next s
  | some m =>
    if !m.running then .next s
    else if m.size ≤ 128 * m.next then .next (s.migrNext m)
    else
      let k := m.next
      let atNew := Store.get false m.there k
      let from_ := if atNew then m.new + 128 * k else m.old + 128 * k
      let to_ := if atNew then m.old + 128 * k else m.new + 128 * k
      if atNew = m.toNew then .next (s.migrNext { m with next := k + 1 })
      else if !s.migrReady from_ false || !s.migrReady to_ true || ((s.lock? from_).isSome && ((s.lock? to_).isSome || s.lockFull to_)) then
        .next (if (List.range 2).any (fun j => decide ((from_ + 64 * j) / 64 ∈ s.mem.lost)) then s.migrSplit m else s)
      else
        let s := s.gatherLine from_
        if s.lineBad from_ then .next (s.migrSplit m)
        else .next ((s.moveLine from_ to_).migrNext { m with there := Store.set false m.there k m.toNew, next := k + 1 })

/-! PTINV (R242). -/

/-- PTINV in one thread: it waits for the thread's accesses, then drops the translations. -/
def ptinvStep (a b : Sel) (g : Group) (t : Thread) (s : State) : State × List Due :=
  let v : View := ⟨g, t⟩
  let w := v.val b
  if 2 ^ 17 ≤ w.toNat then laneTrap g t (illegal 8 (.ptinv a b)) s
  else if s.outstanding g.key [t.tid] then stalled s
  else
    let s := (s.releaseL1 g .dev).tlbInval (w.toNat % 2 ^ 16) (if w.getLsbD 16 then none else some (v.pair a).toNat)
    (s.modThread g.key t.tid Thread.advance, [])

/-- PTINV (R242). -/
def execPtinv (a b : Sel) (s : State) : Host.Outcome State Fault Refusal :=
  issueChecked (.ptinv a b) s
    (fun v => if addrTag (v.pairTag addrTag a) && addrTag (v.tag b) then none
      else some (Machine.tagTrap 15 (some (v.pairTag addrTag a)) (some (v.tag b)) none)) noUniform
    (fun g ts s => eachLane g.key (ptinvStep a b) (ts.map Thread.tid) s)

end Sys2Proof.Machine
end

