-- ==== Sys2Proof/Machine/Save.lean ====
section
/-! DEFINITION. Pre-emption of teams (R319, R326 to R332), the save records (R30 to R34), LOST contexts
(R335), and the migration of saved teams (R320). -/

namespace Sys2Proof.Machine

/-! Requests (R319, R327, R329, R332). -/

/-- How a team asked now is saved (R332). -/
def State.saveKind (s : State) (t : Team) : SaveKind :=
  match s.teamRec t with
  | some r => if !r.trapMode then .idempotent else if (s.handler? t.key.ctx).isSome then .handler else .full
  | none => .full

/-- An arrival without the threads that withdraw from it (R188); a DPASS has issued and keeps its threads. -/
def Arrival.without (x : Arrival) (k : GKey) (tids : List Nat) : Option Arrival :=
  if x.key ≠ k ∨ x.pass.isSome then some x
  else
    let left := x.tids.filter (fun t => !decide (t ∈ tids))
    if left.isEmpty then none else some { x with tids := left }

/-- An LLOCK that has not reached its slice, without the threads that withdraw from it; other operations go on. -/
def Pend.withdrawn (p : Pend) (tids : List Nat) : Option Pend :=
  match p.kind with
  | .lock (.llock d a st) acc parts ws =>
    let ws := ws.filter (fun w => decide (w.1 ∉ tids))
    if ws.isEmpty then none else some { p with kind := .lock (.llock d a st) acc parts ws }
  | _ => some p

/-- Requests that blocked threads of a group have made are withdrawn or marked absent: LDSE and LDSC at
the bank, LLOCK at the lock, arrivals at the latch, which have not issued (R30, R156, R188). -/
def State.withdraw (s : State) (k : GKey) (tids : List Nat) : State :=
  let s := match k.team with
    | some t => s.modTeam t (fun x => { x with bankQ := x.bankQ.filter (fun w => !(decide (w.key = k) && decide (w.tid ∈ tids))) })
    | none => s
  let locked : Bool := match s.group? k with
    | some g => g.threads.any (fun t => decide (t.tid ∈ tids) && decide (t.block = some .lock))
    | none => false
  let s := if locked then s.lockAbsent k else s
  { s with
    pends := s.pends.filterMap (fun p => if p.key = k then p.withdrawn tids else some p)
    arrs := s.arrs.map (fun (a : Arr) => Arr.passes { a with waiting := a.waiting.filterMap (fun x => x.without k tids) }) }

/-- A thread parked by a full save (R30): it stays where it is, so that a wait that ends before the record
is written ends as it would have; one held at the latch has not issued (R188). -/
def Thread.parkFull (t : Thread) : Thread :=
  if t.exited then t else { t with parked := true, saveDue := false, block := if t.block = some .latch then none else t.block }

/-- A thread as a full save records it: at the first of its pending hints (R30, R74). -/
def Thread.saveFull (t : Thread) : Thread := if t.exited then t else { t with pc := t.seqPc, hints := {} }

/-- A thread parked in an open region: its wait is dropped (R327). -/
def Thread.parkOpen (t : Thread) : Thread := if t.exited || !t.regionOpen then t else { t with parked := true, block := none, paused := false }

/-- A thread that is to take the PREEMPT trap (R329). -/
def Thread.askTrap (t : Thread) : Thread :=
  if t.exited then t else if t.inHandler then { t with saveDue := true, parked := false } else { t with saveDue := true, parked := false, block := none }

/-- Threads of a group that a request unblocks. -/
def Group.unblocked (g : Group) (kind : SaveKind) : List Nat :=
  (g.threads.filter (fun t => !t.exited &&
    (match kind with
     | .full => decide (t.block = some .latch)
     | .idempotent => t.regionOpen
     | .handler => !t.inHandler))).map Thread.tid

/-- The request reaches a team: what its threads do at once. -/
def State.askAs (s : State) (t : TKey) (kind : SaveKind) : State :=
  let s := s.modTeam t (fun x => { x with req := some kind })
  (s.teamGroups t).foldl (fun s g =>
    let s := if (g.unblocked kind).isEmpty then s else s.withdraw g.key (g.unblocked kind)
    s.modGroup g.key (fun g => { g with threads := g.threads.map (fun t =>
      match kind with
      | .full => t.parkFull
      | .idempotent => t.parkOpen
      | .handler => t.askTrap) })) s

/-- Ask one running team; a second request joins the first (R319). -/
def State.askTeam (s : State) (t : TKey) : State :=
  match s.team? t with
  | some x => if x.phase = .running ∧ x.req.isNone then s.askAs t (s.saveKind x) else s
  | none => s

/-- Teams that are pre-empted together with one (R316). -/
def State.together (s : State) (t : TKey) : List TKey :=
  match s.grid? t.ctx t.grid with
  | some g => if g.rcd.dbars = 0 then [t] else s.gridTeams t.ctx t.grid
  | none => [t]

/-- Ask a team, or the whole grid under R316. -/
def State.ask (s : State) (t : TKey) : State := (s.together t).foldl State.askTeam s

/-- Has every thread of a team parked or exited? -/
def State.allParked (s : State) (t : TKey) : Bool := (s.teamGroups t).all (fun g => g.threads.all (fun x => x.exited || x.parked))

/-- DEFERRAL_LIMIT (R328): the limit passes before every thread of an idempotent save has parked. -/
def execDeferralLimit (t : TKey) (s : State) : Host.Outcome State Fault Refusal :=
  match s.team? t, s.ctx? t.ctx with
  | some x, some c =>
    if x.req = some .idempotent ∧ x.phase = .running ∧ !s.allParked t ∧ !c.preempt.getLsbD 16 then
      .next (s.askAs t (if c.trapVec.getLsbD 0 then .handler else .full))
    else .next s
  | _, _ => .next s

/-- TRAP_SAVE_TIMEOUT (R331): a trap save whose record is not written becomes a full save, parked threads
and all. -/
def execTrapSaveTimeout (t : TKey) (s : State) : Host.Outcome State Fault Refusal :=
  match s.team? t with
  | some x => if x.req = some .handler ∧ x.phase = .running then .next (s.askAs t .full) else .next s
  | none => .next s

/-! Save records (R31 to R33). -/

/-- Words from bytes of nibbles or bits: value `f i` in `w` bits at index `i`, `n` in all. -/
def packWords (w n : Nat) (f : Nat → Nat) : List Word :=
  (List.range ((n * w + 31) / 32)).map (fun k => BitVec.ofNat 32 (joinBits w ((List.range (32 / w)).map (fun j => if k * (32 / w) + j < n then f (k * (32 / w) + j) else 0))))

/-- A list padded with zero words to a multiple of 32 words, 128 bytes (R31). -/
def padLine (l : List Word) : List Word := l ++ List.replicate ((32 - l.length % 32) % 32) 0

/-- Code of a save kind, in the order R31 names them. -/
def SaveKind.code : SaveKind → Nat
  | .full => 0
  | .idempotent => 1
  | .handler => 2

/-- Phase and arrival count of a barrier. -/
def Bar.saved (b : Bar) : List Word := [b.phase.setWidth 32, BitVec.ofNat 32 b.arrived.length]

/-- The team header (R31). -/
def teamHeader (t : Team) (g : Grid) (kind : SaveKind) : List Word :=
  let r := g.rcd
  let l : List Word := [BitVec.ofNat 32 t.key.tmid, BitVec.ofNat 32 t.key.grid, r.vtag.setWidth 32, BitVec.ofNat 32 r.width, BitVec.ofNat 32 r.threads,
    BitVec.ofNat 32 r.nregs, BitVec.ofNat 32 (regWords r.nregs), if t.pair then 2 else 1, BitVec.ofNat 32 kind.code] ++
    (List.range 16).flatMap (fun i => (Store.get Bar.fresh t.bars i).saved) ++ (List.range 4).flatMap (fun i => (Store.get Bar.fresh g.bars i).saved)
  (List.range 64).map (Config.recordWord 0 l)

/-- A group record (R31). -/
def groupRecord (g : Group) : List Word :=
  let l : List Word := [g.lockTmo.extractLsb' 0 32] ++ (List.range 4).flatMap (fun i => halves64 (BitVec.ofNat 64 (nth g.held i 0))) ++
    halves64 (BitVec.ofNat 64 (g.awaited.getD 0)) ++ (List.range 16).flatMap (fun i => (Store.get Bar.fresh g.bars i).saved)
  (List.range 32).map (Config.recordWord 1 l)

/-- Main-file selectors in slot order (R32). -/
def slotSels (n : Nat) : List Nat := if n = 240 then List.range 240 else List.range n ++ (List.range 8).map (fun i => 232 + i)

/-- Is a thread that waits so recorded as blocked (R30)? -/
def Block.recorded : Block → Bool
  | .bank | .lock | .barw | .dwait | .waitg => true
  | .latch | .rslv => false

/-- The state word of a thread header (R32). It has room for one TRIT trap: of several pending the first is kept (log
entry 106). -/
def Thread.stateWord (t : Thread) (idem : Bool) : Word :=
  let tr := if idem then none else t.trit?
  let regs := match tr with | some a => a.regs | none => []
  let sel := match tr with | some a => a.sel | none => 0
  BitVec.ofNat 32 ((if t.exited then 1 else 0) + (if t.block.any Block.recorded then 2 else 0) + (if t.inHandler then 4 else 0) +
    (if sel ∈ regs then 8 else 0) + (if 0xF8 ∈ regs then 16 else 0) + 2 ^ 8 * sel)

/-- A thread record (R32): `pc` is the header PC; an idempotent or a handler save writes the main file
as VOID zeros. -/
def Thread.record (t : Thread) (n : Nat) (kind : SaveKind) (pc : Word) : List Word :=
  let idem := decide (kind = .idempotent)
  let tr := if idem then none else t.trit?
  let file := (slotSels n).map (fun k => if kind = .full then t.reg k else Reg.void)
  padLine ([pc, t.stateWord idem, t.rndm.extractLsb' 0 32, t.flags.extractLsb' 0 32] ++
    (List.range 8).map (fun i => (t.reg (0xF0 + i)).val) ++ [(t.reg 0xF8).val] ++
    packWords 4 8 (fun i => (tagCode (t.reg (0xF0 + i)).tag).toNat) ++ [(tagCode (t.reg 0xF8).tag).setWidth 32, t.trapPc.extractLsb' 0 32] ++
    halves64 t.trapCause ++ halves64 t.trapVal ++
    [(tr.map AttrTrap.pc).getD 0, (tr.map (fun a => a.trap.val.setWidth 32)).getD 0] ++ List.replicate 10 0 ++
    file.map Reg.val ++ packWords 4 file.length (fun i => (tagCode (nth file i Reg.void).tag).toNat))

/-- The descriptor of a plane (R179). -/
def Plane.descriptor (p : Plane) : List Word :=
  [BitVec.ofNat 32 (p.fmt + 2 ^ 8 * p.passes + 2 ^ 16 * p.had + 2 ^ 24 * ((if p.poison then 1 else 0) + (if p.tritBad then 2 else 0)))] ++
    packWords 16 8 (fun k => nth p.counts k 0 % 65536) ++ List.replicate 11 0

/-- A plane part (R33). -/
def Plane.record (p : Plane) : List Word :=
  p.descriptor ++
  packWords 16 256 (fun c => (Store.get Plane.zeroCol p.cols c).toNat) ++
  packWords 16 8192 (fun i => (Store.get 0 p.vals i % 65536).toNat) ++ List.replicate 16 0

/-- The array-state part of one core (R33). -/
def Arr.record (a : Arr) : List Word :=
  a.active.record ++ a.shadow.record ++ (List.range 131072).map (fun i => Store.get 0 a.acc i) ++
  (List.range 512).flatMap (fun i => [Store.get ninf32 a.smax i, Store.get 0 a.ssum i]) ++
  padLine (a.score.ops ++ a.score.k ++ [BitVec.ofNat 32 a.score.n]) ++ padLine (halves64 a.gang)

/-- Header PC of a thread in a save: the restart PC of an idempotent one (R327), the first of the pending
hints in a full one (R74). -/
def State.headerPc (s : State) (team : Team) (entry : Word) (t : Thread) (kind : SaveKind) : Word :=
  if kind = .idempotent ∧ !t.exited then (if t.checkpointed then s.readTile (idemWord team.idemBase t.tid + 249) else entry)
  else if kind = .full ∧ !t.exited then t.seqPc else t.pc

/-- Words of a record, of which none failed a check. -/
def sound (l : List Word) : List (Word × Bool) := l.map (fun w => (w, false))

/-- Shared image and, next to it, full bits (R31); a word whose unit is poisoned is marked (R357). -/
def Team.sharedRecord (t : Team) (bytes : Nat) : List (Word × Bool) :=
  let halfWords := fun (base : Nat) => (List.range (bytes / 4)).map (fun i => (t.shared.readWord (base + 4 * i), decide ((base + 4 * i) / 8 ∈ t.poison)))
  let bases := if t.pair then [0, 2 ^ 19] else [0]
  let granules := bytes / 16
  let part := bases.flatMap halfWords ++
    sound (packWords 1 (bases.length * granules) (fun k => if Store.get false t.full (if k < granules then k else 2 ^ 15 + (k - granules)) then 1 else 0))
  part ++ List.replicate ((32 - part.length % 32) % 32) (0, false)

/-- Array state that a team owns, lower core first: in the arrays of its cores, or still waiting for one. -/
def State.teamArrs (s : State) (t : Team) : List Arr :=
  ([t.core] ++ (if t.pair then [t.core + 1] else [])).filterMap (fun c =>
    if (s.arr c).owner = some t.key then some (s.arr c) else t.frozenArrs.find? (fun a => decide (a.core = c)))

/-- Does the record of a thread take in a value that fails a check: a register whose parity is bad, in a full save,
or a poisoned restart PC (R357, R358)? -/
def State.recordBad (s : State) (team : Team) (t : Thread) (kind : SaveKind) : Bool :=
  (decide (kind = .full) && !t.parity.isEmpty) || t.parity.any (fun n => decide (240 ≤ n)) ||
    (decide (kind = .idempotent) && !t.exited && t.checkpointed && decide (idemWord team.idemBase t.tid + 249 ∈ s.mem.tilePoison))

/-- A thread's part of a team's record. -/
def State.threadPart (s : State) (t : Team) (g : Grid) (kind : SaveKind) (th : Thread) : List (Word × Bool) :=
  (th.record g.rcd.nregs kind (s.headerPc t g.rcd.entry th kind)).map (fun w => (w, s.recordBad t th kind))

/-- A team's save record (R31), with the words that an uncorrectable error keeps from being written. -/
def State.teamRecord (s : State) (t : Team) (g : Grid) (kind : SaveKind) : List (Word × Bool) :=
  let gs := s.teamGroups t.key
  let sorted := (List.range g.rcd.groups).filterMap (fun i => gs.find? (fun x => decide (x.key.gid = i)))
  sound (teamHeader t g kind) ++ sound (sorted.flatMap groupRecord) ++ sorted.flatMap (fun x => x.threads.flatMap (s.threadPart t g kind)) ++
    t.sharedRecord g.rcd.shared ++ sound ((s.teamArrs t).flatMap Arr.record)

/-- Bytes of a team's save record (R31). -/
def recordBytes (words : List (Word × Bool)) : Nat := 4 * words.length

/-! The save area (R334). -/

/-- Does a record at an offset meet no live record and end in the area? -/
def Ctx.saveFits (c : Ctx) (off bytes : Nat) : Bool :=
  decide (off + bytes ≤ c.saveBytes) && c.saves.all (fun r => decide (r.1 + r.2 ≤ off) || decide (off + bytes ≤ r.1))

/-- The lowest place for a record (log entry 14). -/
def Ctx.savePlace (c : Ctx) (bytes : Nat) : Option Nat :=
  ((0 :: c.saves.map (fun r => r.1 + r.2)).filter (fun o => c.saveFits o bytes)).foldl
    (fun best o => match best with | none => some o | some b => some (Nat.min b o)) none

/-- How a write of the save area ends: it waits, it fails at an address with the EXTRA code of R362, or it is
done. -/
inductive Saved (α : Type) where
  | wait (s : State)
  | fail (s : State) (va code : Nat)
  | ok (s : State) (x : α)

/-- Write words of a save record through the context's page table, at the home slices (R335); D is set before the
writes (R284), and a sector written whole loses its mark (R357). A word that fails its check cannot be written. -/
def State.saveWrite (s : State) (unit ctx : Nat) : Nat → List (Word × Bool) → Saved Unit
  | _, [] => .ok s ()
  | va, w :: r =>
    if 2 ^ 56 ≤ va then .fail s va 1
    else
      match s.translate unit ctx .wr va with
      | (s, .wait) => .wait s
      | (s, .page _) => .fail s va 0
      | (s, .prot) => .fail s va 1
      | (s, .ok pte pa) =>
        let who : Who := { l1 := none, die := none, ctx := ctx, vtag := 0 }
        if w.2 || s.accPortDown (accOf pte pa) then .fail s va 2
        else if !s.accReady who (accOf pte pa) true false then .wait s
        else
          match s.markDirty unit ctx va with
          | (s, false) => .wait s
          | (s, true) =>
            let s := s.homeWrite (s.fwd pa) w.1
            let s := if va % 32 = 28 ∧ (s.fwd pa) % 32 = 28 then s.clearPoison [s.fwd pa / 32] else s
            State.saveWrite s unit ctx (va + 4) r

/-- Write a record: where it stands. -/
def State.saveRecord (s : State) (unit ctx : Nat) (words : List (Word × Bool)) : Saved Nat :=
  match s.ctx? ctx with
  | none => .fail s 0 0
  | some c =>
    match c.savePlace (recordBytes words) with
    | none => .fail s (c.saveBase + c.saveBytes) Config.saveNoFit.toNat
    | some off =>
      match s.saveWrite unit ctx (c.saveBase + off) words with
      | .wait s => .wait s
      | .fail s va code => .fail s va code
      | .ok s _ => .ok (s.modCtx ctx (fun c => { c with saves := c.saves ++ [(off, recordBytes words)] })) off

/-- A record that will not be read again. -/
def State.dropRecord (s : State) (ctx off : Nat) : State := s.modCtx ctx (fun c => { c with saves := c.saves.filter (fun r => decide (r.1 ≠ off)) })

/-! LOST contexts (R335) and the work of a context that ends. -/

/-- Slots of the queue threads of a context, running or held. -/
def State.ctxSlots (s : State) (ctx : Nat) : List Nat :=
  (List.range 64).filter (fun i => let q := nth s.dev.qtctl i QtCtl.zero
    decide (q.ctx.toNat = ctx) && (decide (q.st = .running) || decide (q.st = .held) || decide (q.st = .lost)))

/-- Everything a context runs stops, without a save and with no STAT: teams, queue threads, commands and
array operations; locks pass on with ORPHAN, DETAIL 0 (R335, R336 steps 1 to 5). SELF stores that were performed
stand: they reach their home slices now, so that no write of the context is left for later (R336 step 8). -/
def State.stopCtx (s : State) (ctx : Nat) : State :=
  let s := s.coh.self.foldl State.writeThroughLine s
  let own : GKey → Bool := fun k => match k with | .kernel c _ _ _ => decide (c = ctx) | .queue i => decide (i ∈ s.ctxSlots ctx)
  let qkeys := (s.ctxSlots ctx).map GKey.queue
  let s := { s with pends := s.pends.filter (fun p => !own p.key), arrs := s.arrs.map (fun (a : Arr) => { a with ops := a.ops.filter (fun o => decide (o.team.ctx ≠ ctx)) }) }
  let s := (s.grids.filter (fun g => decide (g.ctx = ctx))).foldl (fun s g => if g.done.isSome then s else s.stopGrid ctx g.handle.toNat 5 0) s
  let s := qkeys.foldl (fun s k => s.lockDropGroup k 5 0) s
  State.modCtx { s with groups := s.groups.filter (fun g => !decide (g.key ∈ qkeys)) } ctx (fun c => { c with savedQ := [], saves := [] })

/-- Every live version is squashed, and every grid that has not completed gets its record: `code`, or, at a
teardown, SQUASHED where the squash writes it. A record that cannot be written is dropped at a teardown, and noted
in a fault record otherwise (R303, R335, R336, R359, log entry 94). -/
def State.endCtxGrids (s : State) (ctx code : Nat) (squashed : Bool) : State :=
  let set := match s.ctx? ctx with | some c => c.liveVers.map Ver.tag | none => []
  let mine := s.openGrids ctx (fun v => decide (v ∈ set))
  let s := s.cancel ctx set
  let s := if squashed then mine.foldl (fun s h => s.completeGrid ctx h 0x10 true) s else s
  (s.openGrids ctx (fun _ => true)).foldl (fun s h => s.completeGrid ctx h code squashed) s

/-- The status word of a command block and its event (R376). -/
def State.ctxDone (s : State) (block ctx : Nat) (status : Word) : State := (s.homeWrite (block + 4) status).postUnit 7 (ctx % 256)

/-- A context is marked LOST (R335): `rec` is the party of the save that failed. -/
def State.loseCtx (s : State) (ctx : Nat) (rec : FaultRec) : State :=
  let slots := s.ctxSlots ctx
  let st := (s.ctx? ctx).map Ctx.status
  let s := s.faultLog ctx rec
  let s := (s.stopCtx ctx).endCtxGrids ctx 0x12 false
  let s := slots.foldl (fun s i => s.setQt i .lost) s
  let s := (s.modCtx ctx (fun c => { c with status := .lost })).postUnit 8 (ctx % 256)
  match st with
  | some (.switchingOut block) => s.ctxDone block ctx 4
  | _ => s

/-! TEAM_SAVE (R30). -/

/-- Word of a team's record at which the thread records begin (R31). -/
def threadsAt (r : LaunchRec) : Nat := 64 + 32 * r.groups

/-- A team whose record is written: its groups and arrays leave the cores (R30 step 3, R316). `head` are the words of
its header and group records. -/
def State.freeze (s : State) (t : Team) (g : Grid) (kind : SaveKind) (off : Nat) (head : List Word) : State :=
  let gs := s.teamGroups t.key
  let arrs := s.teamArrs t
  let s := gs.foldl (fun s g => s.withdraw g.key (g.threads.map Thread.tid)) s
  let gs := gs.map (fun g => (s.group? g.key).getD g)
  let asSaved := fun (x : Thread) => if kind = .full then x.saveFull else { x with pc := s.headerPc t g.rcd.entry x kind }
  let gs := gs.map (fun g => { g with threads := g.threads.map asSaved })
  let s := { s with
    groups := s.groups.filter (fun g => decide (g.key.team ≠ some t.key))
    arrs := s.arrs.map (fun (a : Arr) => if a.owner = some t.key then a.released else a)
    dist := { s.dist with order := s.dist.order + 1 } }
  let s := s.modTeam t.key (fun x => { x with phase := .saved kind, req := none, frozen := gs, frozenArrs := arrs, savedAt := off, saveOrder := s.dist.order, savedHead := head })
  arrs.foldl (fun s a => s.claimArr a.core) s

/-- Is a team of a set that is saved together ready to be written: asked for, every thread parked or exited, nothing in
flight (R30, R316)? -/
def State.saveReady (s : State) (t : TKey) : Bool :=
  match s.team? t with
  | none => true
  | some x =>
    match x.phase with
    | .saved _ => true
    | .running => x.req.isSome && s.allParked t && !s.teamBusy t && !s.tileMoving x.tileBase x.tileWords
    | _ => false

/-- TEAM_SAVE (R30, R31, R334): a team that is asked for, ready with all that are saved together with it, is written to
the save area: the headers of a grid hold one state of its barriers (R163). A write that fails marks the context LOST
(R335). -/
def execTeamSave (t : TKey) (s : State) : Host.Outcome State Fault Refusal :=
  match s.team? t, s.grid? t.ctx t.grid with
  | some x, some g =>
    match x.req with
    | none => .next s
    | some kind =>
      if x.phase ≠ .running ∨ !(t :: s.together t).all s.saveReady then .next s
      else
        let s' := s.teamThrough x
        let words := s'.teamRecord x g kind
        match s'.saveRecord (dieOf x.core) t.ctx words with
        | .wait s => .next s
        | .ok s off => .next (s.freeze x g kind off ((words.take (threadsAt g.rcd)).map Prod.fst))
        | .fail s va code =>
          if s.recordsWait t.ctx (fun _ => true) then .next s
          else .next (s.loseCtx t.ctx { type := 4, flags := 4, grid := t.grid, vtag := g.rcd.vtag, tmid := t.tmid, place := dieOf x.core, core := x.core % 80, value := BitVec.ofNat 64 va, extra := BitVec.ofNat 64 code })
  | _, _ => .next s

/-! Restart of a thread (R21, R327, R330). -/

/-- A thread restored from a full save (R30). -/
def Thread.restoreFull (t : Thread) : Thread := { t with block := none, parked := false, saveDue := false, passOver := 0 }

/-- The registers that a checkpoint restores (R21, R134). -/
def State.checkpointRegs (s : State) (nregs base : Nat) : Store Reg :=
  (idemSels nregs ((s.readTile (base + 250)).setWidth 16)).foldl (fun r n =>
    let tag := tagOf (((s.readTile (base + 256 + n / 8)) >>> (4 * (n % 8))).setWidth 4)
    Store.set Reg.void r n ⟨s.readTile (base + n), tag⟩) []

/-- The TRIT trap that a checkpoint carries, held against the registers it restores (R196). -/
def State.checkpointTrit (s : State) (base : Nat) (sels : List Nat) : List AttrTrap :=
  let w := s.readTile (base + 251)
  let regs := ((if w.getLsbD 31 then [w.toNat % 256] else []) ++ (if w.getLsbD 30 then [0xF8] else [])).eraseDups.filter (fun r => decide (r ∈ sels))
  if regs.isEmpty then [] else [⟨⟨.trit, 0, (s.readTile (base + 253)).setWidth 64, .attributed⟩, s.readTile (base + 252), regs, false, w.toNat % 256⟩]

/-- A thread restarted at the PC that its header gives, its region's head (R21, R327). -/
def State.restoreIdem (s : State) (team : Team) (r : LaunchRec) (t : Thread) : Thread :=
  if t.exited then t.restoreFull
  else
    let base := idemWord team.idemBase t.tid
    let sels := if t.checkpointed then idemSels r.nregs ((s.readTile (base + 250)).setWidth 16) else []
    { t.restoreFull with
      parity := []
      regs := if t.checkpointed then s.checkpointRegs r.nregs base else []
      attr := if t.checkpointed then s.checkpointTrit base sels else []
      hints := {}, latOwner := none, regionOpen := true, paused := false }

/-- A thread that resumes in the restore handler (R330). -/
def Thread.restoreHandler (t : Thread) (handler : Word) : Thread :=
  if t.exited || !t.inPreempt 1 then t.restoreFull
  else
    { t.restoreFull with
      regs := [], parity := [], hints := {}, latOwner := none, trapCause := (⟨.preempt, 2, 0, .precise⟩ : Trap).word, trapVal := 0, pc := handler }

/-! Reading a record (R334). The parts whose places R32 and R33 give are read back; what the team header and the
group records hold is the distributor's own (log entry 14). -/

/-- A word of the save area as a restore reads it: at its home slice, through the context's page table. `none` is a
word that cannot be read. -/
def State.savedWord (s : State) (unit ctx base i : Nat) : Option Word :=
  let va := base + 4 * i
  if 2 ^ 56 ≤ va then none
  else
    match (s.translate unit ctx .rd va).2 with
    | .ok pte pa => if s.accPortDown (accOf pte pa) || s.marked (s.fwd pa) then none else some (s.peek (s.fwd pa))
    | _ => none

/-- A register from its word and its tag, nibble `i` of the tag words; what was saved where either cannot be read. -/
def savedReg (old : Reg) (v tags : Option Word) (i : Nat) : Reg :=
  match v, tags with
  | some v, some w => ⟨v, tagOf ((w >>> (4 * (i % 8))).setWidth 4)⟩
  | _, _ => old

/-- The low half of a 64-bit register from its word. -/
def savedLow (old : DWord) (w : Option Word) : DWord := match w with | some w => old.extractLsb' 32 32 ++ w | none => old

/-- The TRIT trap of a thread header (R32, R196). -/
def savedTrit (state pc stat : Word) : List AttrTrap :=
  let sel := state.toNat / 2 ^ 8 % 256
  let regs := ((if state.getLsbD 3 then [sel] else []) ++ (if state.getLsbD 4 then [0xF8] else [])).eraseDups
  if regs.isEmpty then [] else [⟨⟨.trit, 0, stat.setWidth 64, .attributed⟩, pc, regs, false, sel⟩]

/-- Words of a thread record (R32). -/
def recordLen (n : Nat) : Nat := (32 + regWords n + regWords n / 8 + 31) / 32 * 32

/-- A thread as its record `rd` gives it (R32): what cannot be read is as it was saved. The header has room for one TRIT
trap (log entry 106). -/
def Thread.fromRecord (t : Thread) (n : Nat) (kind : SaveKind) (rd : Nat → Option Word) : Thread :=
  if (match rd 1 with | some w => w.getLsbD 0 | none => t.exited) then t.exit
  else
    let file := if kind = .full then (slotSels n).mapIdx (fun i k => (k, savedReg (t.reg k) (rd (32 + i)) (rd (32 + regWords n + i / 8)) i)) else []
    let ctl := (List.range 8).map (fun i => (0xF0 + i, savedReg (t.reg (0xF0 + i)) (rd (4 + i)) (rd 13) i))
    let regs := file ++ ctl ++ [(0xF8, savedReg (t.reg 0xF8) (rd 12) (rd 14) 0)]
    { t with
      exited := false
      pc := (rd 0).getD t.pc
      regs := regs.foldl (fun r x => Store.set Reg.void r x.1 x.2) t.regs
      inHandler := match rd 1 with | some w => w.getLsbD 2 | none => t.inHandler
      rndm := savedLow t.rndm (rd 2), flags := savedLow t.flags (rd 3), trapPc := savedLow t.trapPc (rd 15)
      trapCause := match rd 16, rd 17 with | some lo, some hi => hi ++ lo | _, _ => t.trapCause
      trapVal := match rd 18, rd 19 with | some lo, some hi => hi ++ lo | _, _ => t.trapVal
      attr := match rd 1, rd 20, rd 21 with
        | some w, some pc, some x => if kind = .idempotent then t.attr else t.attr.filter (fun a => decide (a.trap.cause ≠ .trit)) ++ savedTrit w pc x
        | _, _, _ => t.attr }

/-- Word of a team's record at which the shared image begins (R31). -/
def sharedAt (r : LaunchRec) : Nat := threadsAt r + recordLen r.nregs * r.threads

/-- Shared memory and its full bits as the record gives them (R31). -/
def Team.fromRecord (t : Team) (r : LaunchRec) (rd : Nat → Option Word) : Team :=
  let halves := if t.pair then 2 else 1
  let words := r.shared / 4
  let granules := r.shared / 16
  let bitsAt := halves * words
  let place := fun (k n base : Nat) => if k < n then k else base + (k - n)
  { t with
    shared := (List.range (halves * words)).foldl (fun m k =>
      let a := 4 * place k words (2 ^ 17)
      match rd k with | some w => m.writeWord a w | none => m) t.shared
    full := (List.range (halves * granules)).foldl (fun f k =>
      match rd (bitsAt + k / 32) with | some w => Store.set false f (place k granules (2 ^ 15)) (w.getLsbD (k % 32)) | none => f) t.full }

/-- Half `i` of a row of 16-bit values. -/
def savedHalf (rd : Nat → Option Word) (at_ i : Nat) : BitVec 16 := (((rd (at_ + i / 2)).getD 0) >>> (16 * (i % 2))).setWidth 16

/-- A plane recoded from its aligned values (R33, R179); the plane that was saved where a word cannot be read. -/
def Plane.fromRecord (p : Plane) (rd : Nat → Option Word) : Plane :=
  match rd 0 with
  | none => p
  | some d =>
    if (List.range 4256).all (fun i => (rd i).isSome) then
      planeOf (d.toNat % 256) (d.toNat / 2 ^ 16 % 256) (d.getLsbD 25) ((List.range 256).map (fun c =>
        ⟨(List.range 32).map (fun k => (savedHalf rd 144 (256 * k + c)).toInt), savedHalf rd 16 c⟩))
    else p

/-- Words of one core's array state (R33). -/
def arrayLen : Nat := 140672

/-- Array state as the record gives it (R33). -/
def Arr.fromRecord (a : Arr) (rd : Nat → Option Word) : Arr :=
  let gang : DWord := match rd 140640, rd 140641 with | some lo, some hi => hi ++ lo | _, _ => a.gang
  { a with
    gang := gang
    latchList := gangOf gang
    active := a.active.fromRecord rd
    shadow := a.shadow.fromRecord (fun i => rd (4256 + i))
    acc := storeOf 0 ((List.range 131072).map (fun i => (i, (rd (8512 + i)).getD (Store.get 0 a.acc i))))
    smax := storeOf ninf32 ((List.range 512).map (fun i => (i, (rd (139584 + 2 * i)).getD (Store.get ninf32 a.smax i))))
    ssum := storeOf 0 ((List.range 512).map (fun i => (i, (rd (139585 + 2 * i)).getD (Store.get 0 a.ssum i))))
    score := {
      ops := a.score.ops.mapIdx (fun i x => (rd (140608 + i)).getD x)
      k := a.score.k.mapIdx (fun i x => (rd (140624 + i)).getD x)
      n := ((rd 140628).map BitVec.toNat).getD a.score.n } }

/-- The words of a saved team's record, read for a core of a die. -/
def State.recordWordAt (s : State) (t : Team) (die i : Nat) : Option Word :=
  s.savedWord die t.key.ctx (match s.ctx? t.key.ctx with | some c => c.saveBase + t.savedAt | none => 2 ^ 56) i

/-- Do `n` words of the team header and the group records, as they were written, no longer stand? A word that cannot be
read counts as standing. -/
def headChanged (head : List Word) (rd : Nat → Option Word) (at_ n : Nat) : Bool :=
  (List.range n).any (fun i => match rd (at_ + i) with | some w => w != nth head (at_ + i) 0 | none => false)

/-- Barriers whose phases a changed record gives at places that the spec does not state: free values (log entry 14). -/
def freeBars (free n : Nat) (l : Store Bar) : Store Bar :=
  (List.range n).foldl (fun l i => Store.set Bar.fresh l i { Store.get Bar.fresh l i with phase := (Config.freeWord (free + i)).setWidth 24 }) l

/-- A group as its record gives it (R31): as it was saved, or, where the record was changed, with free values for its
barriers' phases and its LOCKTMO (log entry 14). -/
def Group.fromRecord (g : Group) (head : List Word) (free : Nat) (rd : Nat → Option Word) : Group :=
  if headChanged head rd (64 + 32 * g.key.gid) 32 then
    { g with
      bars := freeBars (free + 17 * g.key.gid) 16 g.bars
      lockTmo := g.lockTmo.extractLsb' 32 32 ++ Config.freeWord (free + 17 * g.key.gid + 16) }
  else g

/-- A restore takes the state of the grid's barriers from the header too (R163). -/
def State.gridHeader (s : State) (t : Team) (die : Nat) : State :=
  if headChanged t.savedHead (s.recordWordAt t die) 0 64 then
    s.modGrid t.key.ctx t.key.grid (fun g => { g with bars := freeBars (s.free + 16) 4 g.bars })
  else s

/-- A saved team as its record gives it, read for a core of a die. -/
def State.readTeam (s : State) (t : Team) (r : LaunchRec) (kind : SaveKind) (die : Nat) : Team :=
  let rd := s.recordWordAt t die
  let halves := if t.pair then 2 else 1
  let arraysAt := sharedAt r + (halves * (r.shared / 4) + (halves * (r.shared / 16) + 31) / 32 + 31) / 32 * 32
  { t.fromRecord r (fun i => rd (sharedAt r + i)) with
    bars := if headChanged t.savedHead rd 0 64 then freeBars s.free 16 t.bars else t.bars
    frozen := t.frozen.map (fun g => { g.fromRecord t.savedHead (s.free + 20) rd with threads := g.threads.map (fun x => x.fromRecord r.nregs kind (fun i => rd (threadsAt r + recordLen r.nregs * x.tid + i))) })
    frozenArrs := t.frozenArrs.mapIdx (fun k a => a.fromRecord (fun i => rd (arraysAt + arrayLen * k + i))) }

/-! Other steps of pre-emption. -/

/-- Priority of a team's queue (R311). -/
def State.teamPrio (s : State) (t : Team) : Nat :=
  match s.teamRec t with
  | some r => (nth s.dist.prio r.queue 0).toNat
  | none => 0

/-- A team as it would stand once saved, for a trial of what then fits. -/
def State.asSaved (s : State) (ts : List TKey) : State :=
  { s with teams := s.teams.map (fun x => if x.key ∈ ts then { x with phase := .saved .full } else x) }

/-- The team to pre-empt next: lowest priority, most recently dispatched (R319). -/
def State.victim (s : State) (below : Nat) : Option Team :=
  (s.teams.filter (fun t => decide (t.phase = .running) && decide (s.teamPrio t < below))).foldl
    (fun best t => match best with
      | none => some t
      | some b => if s.teamPrio t < s.teamPrio b ∨ (s.teamPrio t = s.teamPrio b ∧ b.order < t.order) then some t else some b) none

end Sys2Proof.Machine
end

