-- ==== Sys2Proof/Machine/Queue.lean ====
section
/-! DEFINITION. The steps of the issue logic (R135, R309, R322, R323, R132), the page walker (R283 to
R285), and the distributor (R291, R292, R312 to R319). -/

namespace Sys2Proof.Machine

/-! Issue. -/

/-- The group a quadrant chooses: the first ready active one after the group chosen last, in order of
residency (R322). -/
def State.choose (s : State) (core quad : Nat) : Option Group :=
  let last := Store.get 0 s.dist.lastGroup (4 * core + quad)
  let gs := (s.quadGroups core quad).filter (fun g => g.active && s.groupReady g)
  match gs.find? (fun g => decide (last < g.resid)) with
  | some g => some g
  | none => gs.head?

/-- ISSUE_SELECT (R135, R322): the quadrant's chosen group gets an issue opportunity. -/
def execIssueSelect (core quad : Nat) (s : State) : Host.Outcome State Fault Refusal :=
  match s.cur, s.choose core quad with
  | none, some g =>
    let s := s.markReady core quad
    .next { s.opportunity g with dist := { s.dist with lastGroup := Store.set 0 s.dist.lastGroup (4 * core + quad) g.resid } }
  | _, _ => .next s

/-- Does no thread of an active group keep it in the set: is none not ready for a reason that R323 does not list? -/
def State.mayYield (s : State) (g : Group) : Bool := g.threads.all (fun t => t.exited || s.threadReady g t || s.longWait g t)

/-- GROUP_SWAP (R323): a waiting group gives its place in the active set to the group that has been ready
pending longest; while there is room that group is admitted. Where no active group waits, the one longest in the
set that R323 does not keep there gives its place, so that the group enters as R325 promises (log entry 121). -/
def execGroupSwap (core quad : Nat) (s : State) : Host.Outcome State Fault Refusal :=
  let s := s.markReady core quad
  match s.pendingReady core quad with
  | none => .next s
  | some p =>
    let act := (s.quadGroups core quad).filter Group.active
    if act.length < 8 then .next (s.setActive p.key true)
    else
      match (act.find? s.waiting).orElse (fun _ => act.find? s.mayYield) with
      | some g => .next ((s.setActive g.key false).setActive p.key true)
      | none => .next s

/-- The queue threads of a queue core, in slot order. -/
def State.coreQueue (s : State) (qcore : Nat) : List (Nat × Group) :=
  (List.range 8).filterMap (fun i => (s.group? (.queue (8 * qcore + i))).map (fun g => (i, g)))

/-- QUEUE_THREAD_ISSUE (R309): the next ready queue thread of a queue core, in round robin. -/
def execQueueThreadIssue (qcore : Nat) (s : State) : Host.Outcome State Fault Refusal :=
  let last := nth s.dist.lastQt qcore 7
  let ready := (s.coreQueue qcore).filter (fun x => s.groupReady x.2)
  match s.cur, (ready.find? (fun x => decide (last < x.1))).orElse (fun _ => ready.head?) with
  | none, some (i, g) =>
    .next { s.opportunity g with dist := { s.dist with lastQt := s.dist.lastQt.mapIdx (fun c x => if c = qcore then i else x) } }
  | _, _ => .next s

/-- PAUSE_END (R132): a paused thread becomes ready again. -/
def execPauseEnd (k : GKey) (tid : Nat) (s : State) : Host.Outcome State Fault Refusal :=
  .next (s.modThread k tid (fun t => { t with paused := false }))

/-- TRANSLATION_WALK (R283 to R285): a die's TLB that holds no translation of an address walks the context's table for
it: it sets A and takes the translation, or the walk fails and sets nothing. -/
def execTranslationWalk (tlb ctx : Nat) (va : BitVec 64) (s : State) : Host.Outcome State Fault Refusal :=
  if va.toNat < 2 ^ 56 ∧ tlb < 10 ∧ s.tlbFind tlb ctx va.toNat = none then .next (s.tlbWalk tlb ctx va.toNat).1 else .next s

/-! Placing a team. -/

/-- Segments of tile memory, as byte runs, that hold a run of tile words (R269, R365). -/
def State.tileSegs (s : State) (start n : Nat) : List (Nat × Nat) :=
  (List.range 16).filterMap (fun v =>
    let base := start / 2 ^ 28 * 2 ^ 28 + v * 2 ^ 24
    let lo := Nat.max start base
    let hi := Nat.min (start + n) (base + 2 ^ 24)
    if lo < hi then some (s.tileByte lo, 4 * (hi - lo)) else none)

/-- A new allocation reads as zero (R268). -/
def State.zeroTile (s : State) (start n : Nat) : State :=
  let segs := s.tileSegs start n
  { s with mem := { s.mem with
      tile := s.mem.tile.filter (fun c => !segs.any (fun g => decide (g.1 ≤ c.1) && decide (c.1 < g.1 + g.2)))
      tilePoison := s.mem.tilePoison.filter (fun w => !(decide (start ≤ w) && decide (w < start + n))) } }

/-- A new team at a placement (R221, R268, R313, R321): its resources, its groups, and its staging if
the launch has regions. -/
def State.dispatchTeam (s : State) (g : Grid) (p : Spot) : Option State :=
  match s.tileFor g.rcd p with
  | none => none
  | some tile =>
    let r := g.rcd
    let key : TKey := ⟨g.ctx, g.handle.toNat, g.nextTmid⟩
    let team : Team := {
      key := key, die := p.die, core := p.core, pair := p.pair, phase := if r.regions.isEmpty then .running else .staging
      tileBase := tile, tileWords := r.tileWords, idemBase := if r.trapMode then 0 else BitVec.ofNat 64 (tile + r.tile / 4), order := s.dist.order }
    let s := (s.zeroTile tile r.tileWords).outwardAcquire p.core
    let s := if p.pair then s.outwardAcquire (p.core + 1) else s
    let s := { s with teams := s.teams ++ [team], dist := { s.dist with order := s.dist.order + 1 } }
    let s := s.modGrid g.ctx g.handle.toNat (fun g => { g with nextTmid := g.nextTmid + 1 })
    some ((List.range r.groups).foldl (fun s i => s.seat (newGroup key r p i)) s)

/-- A saved thread as it restarts (R21, R30, R327, R330). -/
def State.restoreThread (s : State) (t : Team) (r : LaunchRec) (kind : SaveKind) (handler : Word) (x : Thread) : Thread :=
  match kind with
  | .full => x.restoreFull
  | .idempotent => s.restoreIdem t r x
  | .handler => x.restoreHandler handler

/-- Threads that resume in a restore handler when none is installed: their trap is unhandled (R236). -/
def restoreTraps (t : Team) : List (GKey × Nat) :=
  t.frozen.flatMap (fun g => (g.threads.filter (fun x => !x.exited && x.inPreempt 1)).map (fun x => (g.key, x.tid)))

/-- A saved team is restored at a placement from its record (R30, R270, R320, R321, R334). -/
def State.restoreTeam (s : State) (t : Team) (r : LaunchRec) (kind : SaveKind) (p : Spot) : State :=
  let s := s.outwardAcquire p.core
  let s := if p.pair then s.outwardAcquire (p.core + 1) else s
  let s := s.gridHeader t p.die
  let t := s.readTeam t r kind p.die
  let handler := s.handler? t.key.ctx
  let s := { s with free := s.free + 20 + 17 * t.frozen.length }
  let s := (s.modTeam t.key (fun x => { x with
    shared := t.shared, full := t.full
    bars := t.bars
    core := p.core, die := p.die, phase := .running, order := s.dist.order, frozen := []
    frozenArrs := t.frozenArrs.map (fun a => { a with core := p.core + (a.core - t.core) })
    migrations := if p.die = x.die then x.migrations else x.migrations + 1 })).dropRecord t.key.ctx t.savedAt
  let s := { s with dist := { s.dist with order := s.dist.order + 1 } }
  let s := t.frozen.foldl (fun s g => s.seat { g with
    core := p.core + (if g.upper then 1 else 0)
    threads := g.threads.map (s.restoreThread t r kind (handler.getD 0)) }) s
  let s := t.frozenArrs.foldl (fun s a => s.claimArr (p.core + (a.core - t.core))) s
  if (s.teamGroups t.key).all (fun g => g.threads.all Thread.exited) then s.teamEnd t.key (fun g => { g with retired := g.retired + 1 })
  else if kind = .handler ∧ handler.isNone then
    (restoreTraps t).foldl (fun s x => State.settle (s.takeTrap x.1 x.2 ⟨.preempt, 2, 0, .precise⟩ (s.trapPcOf x.1 x.2))) s
  else s

/-- Saved teams of a grid. -/
def State.savedTeams (s : State) (g : Grid) : List (Team × SaveKind) :=
  s.teams.filterMap (fun t =>
    if t.key.ctx = g.ctx ∧ t.key.grid = g.handle.toNat then (match t.phase with | .saved k => some (t, k) | _ => none) else none)

/-- The team saved first (R312). -/
def State.oldestSaved (s : State) (g : Grid) : Option (Team × SaveKind) :=
  (s.savedTeams g).foldl (fun best x => match best with
    | none => some x
    | some b => if x.1.saveOrder < b.1.saveOrder then some x else some b) none

/-- Place the next team of a grid where what comes after it, `next`, can be done too (R312, R314): `choice` says which
placement of a span is tried first. -/
def State.placeThen (s : State) (g : Grid) (choice : Nat) (next : State → Option State) : Option State :=
  match s.oldestSaved g with
  | some (t, kind) =>
    if kind = .idempotent ∧ s.tileMoving t.tileBase t.tileWords then none
    else ((s.oldSpots t g.rcd).rotateLeft choice).findSome? (fun p => next (s.restoreTeam t g.rcd kind p))
  | none =>
    if g.nextTmid < g.rcd.teams then
      (s.newSpots g.rcd).findSome? (fun l => (l.rotateLeft choice).findSome? (fun p => (s.dispatchTeam g p).bind next))
    else none

/-- Place the next team of a grid. -/
def State.placeNext (s : State) (g : Grid) (choice : Nat) : Option State := s.placeThen g choice some

/-- Place `n` teams of a grid, all or none (R316): none only where no placement of them all is free. A digit of
`choice` in base 640, the placements that there can be, goes to each team. -/
def State.placeAll (ctx handle : Nat) : Nat → Nat → State → Option State
  | 0, _, s => some s
  | n + 1, choice, s =>
    match s.grid? ctx handle with
    | none => none
    | some g => s.placeThen g (choice % 640) (State.placeAll ctx handle n (choice / 640))

/-- The grids whose teams have still to be placed: undispatched, or saved. -/
def State.hasWork (s : State) (g : Grid) : Bool :=
  g.done.isNone && (decide (g.nextTmid < g.rcd.teams) || !(s.savedTeams g).isEmpty)

/-- One placement of a grid: its next team, or the whole grid under R316, when no team of it is still on
a core. -/
def State.placeStep (s : State) (g : Grid) (choice : Nat) : Option State :=
  if g.rcd.dbars = 0 then s.placeNext g choice
  else if (s.gridTeams g.ctx g.handle.toNat).any (fun k => match s.team? k with | some t => t.resident | none => false) then none
  else State.placeAll g.ctx g.handle.toNat ((s.savedTeams g).length + (g.rcd.teams - g.nextTmid)) choice s

/-- Is a context switched in (R333)? -/
def State.ctxActive (s : State) (ctx : Nat) : Bool :=
  match s.ctx? ctx with
  | some c => decide (c.status = .active)
  | none => false

/-- The head of a queue (R312, R333). -/
def State.head (s : State) (q : Nat) : Option Grid :=
  (s.dist.entered.filterMap (fun e => s.grid? e.1 e.2)).find? (fun g => decide (g.rcd.queue = q) && s.ctxActive g.ctx && s.hasWork g)

/-! The order of dispatch. -/

/-- A head that fits some placement now. -/
structure Head where
  q : Nat
  g : Grid
  deriving DecidableEq, Repr

/-- Priority and class of a queue (R311). -/
def State.prioOf (s : State) (q : Nat) : Nat := (nth s.dist.prio q 0).toNat
def State.clsOf (s : State) (q : Nat) : Nat := (nth s.dist.cls q 0).toNat

/-- Resident threads of a context's grids of one kind (1 draft, 2 target) in a queue class (R318). -/
def State.kindThreads (s : State) (ctx cls kind : Nat) : Nat :=
  (s.teams.filterMap (fun t =>
    match s.teamRec t with
    | some r => if t.key.ctx = ctx ∧ s.clsOf r.queue = cls ∧ r.cls = kind ∧ (t.phase = .running ∨ t.phase = .staging) then some r.threads else none
    | none => none)).sum

/-- Is draft chosen over target (R318)? -/
def State.chooseDraft (s : State) (ctx cls : Nat) : Bool :=
  let ah := match s.ctx? ctx with | some c => (nth c.ah cls 0).toNat | none => 0
  let td := s.kindThreads ctx cls 1
  let tt := s.kindThreads ctx cls 2
  decide (td * 256 < (32 + 3 * ah / 4) * (td + tt))

/-- Does the draft-share step remove a head (R317)? -/
def State.shareDrops (s : State) (hs : List Head) (h : Head) : Bool :=
  let same := hs.filter (fun x => decide (x.g.ctx = h.g.ctx) && decide (s.clsOf x.q = s.clsOf h.q))
  let both := same.any (fun x => decide (x.g.rcd.cls = 1)) && same.any (fun x => decide (x.g.rcd.cls = 2))
  both && (if s.chooseDraft h.g.ctx (s.clsOf h.q) then decide (h.g.rcd.cls = 2) else decide (h.g.rcd.cls = 1))

/-- The heads that fit, of the highest priority present, after the draft share (R317). -/
def State.candidates (s : State) : List Head :=
  let fit := ((List.range 64).filterMap (fun q => (s.head q).map (Head.mk q))).filter (fun h => (s.placeStep h.g 0).isSome)
  let top := fit.foldl (fun m h => Nat.max m (s.prioOf h.q)) 0
  let hs := fit.filter (fun h => decide (s.prioOf h.q = top))
  hs.filter (fun h => !s.shareDrops hs h)

/-- The head served next (R317). -/
def State.nextHead (s : State) : Option Head :=
  let hs := s.candidates
  match hs with
  | [] => none
  | h :: _ =>
    let last := nth s.dist.lastServed (s.prioOf h.q) 63
    (hs.find? (fun x => decide (last < x.q))).orElse (fun _ => hs.head?)

/-- DISPATCH_STEP (R317): the distributor serves one queue head; `choice` picks the placement, which the
manual leaves open (R314; log entry 13). -/
def execDispatchStep (choice : Nat) (s : State) : Host.Outcome State Fault Refusal :=
  match s.nextHead with
  | none => .next s
  | some h =>
    match s.placeStep h.g choice with
    | none => .next s
    | some s' => .next { s' with dist := { s'.dist with
        lastServed := s'.dist.lastServed.mapIdx (fun p x => if p = s.prioOf h.q then h.q else x) } }

/-! Staging (R291, R292). -/

/-- What staging a region comes to. -/
inductive Staged where
  | wait
  | fail (s : State) (cause : Cause) (sub at_ : Nat)
  | ok (s : State)

/-- Stage the words of a region: `k` is the next word. -/
def State.stageWords (s : State) (g : Group) (t : Team) (r : Region) : Nat → Nat → Staged
  | 0, _ => .ok s
  | n + 1, k =>
    let va := r.src + 4 * k
    if 2 ^ 56 ≤ va then .fail s .prot 1 va
    else
      match s.locateGlobal g .rd va [0] with
      | (_, .error none) => .wait
      | (s, .error (some e)) => .fail s e.cause e.sub va
      | (s, .ok []) => State.stageWords s g t r n (k + 1)
      | (s, .ok (a :: _)) =>
        if s.accPortDown a then .fail s .ecc 7 va
        else if !s.accReady g.engine a false false then .wait
        else if s.accPoison g.engine a then .fail s .ecc 7 va
        else
          let (s, w) := s.readAcc g.engine a
          if r.tile && s.tileWaits (t.tileBase + r.dest + k) then .wait
          else
          let s := if r.tile then s.tileWrite t.key.ctx g.vid (t.tileBase + r.dest + k) w
            else (s.writeShared t.key (r.dest + 4 * k) w).setFull t.key ((r.dest + 4 * k) / 16) true
          State.stageWords s g t r n (k + 1)

/-- Stage the regions in ascending index: the outcome, and the index of a region that failed. -/
def State.stageAll (s : State) (g : Group) (t : Team) : List Region → Nat → Staged × Nat
  | [], i => (.ok s, i)
  | r :: rs, i =>
    match s.stageWords g t r (r.bytes / 4) 0 with
    | .ok s => State.stageAll s g t rs (i + 1)
    | x => (x, i)

/-- A die that a DIEOP is taking offline. -/
def State.leaving (s : State) (die : Nat) : Bool := decide (nth s.dev.dies die .offline = .goingOffline)

/-- Has a context queue threads that run? -/
def State.queueRuns (s : State) (ctx : Nat) : Bool :=
  (s.ctxSlots ctx).any (fun i => decide ((nth s.dev.qtctl i QtCtl.zero).st = .running))

/-- Is a team to be asked for as soon as it runs: its context is being switched out and its queue threads are
recorded, its die is going offline, or the other teams of its grid were asked for while it was staged (R316, R333,
R364)? -/
def State.unwanted (s : State) (t : Team) : Bool :=
  (match s.ctx? t.key.ctx with | some c => (match c.status with | .switchingOut _ => !s.queueRuns c.id | _ => false) | none => false) ||
  s.leaving t.die ||
  (s.together t.key).any (fun k => decide (k ≠ t.key) &&
    (match s.team? k with
     | some x => x.req.isSome || (match x.phase with | .saved _ => true | _ => false)
     | none => false))

/-- STAGING_COMPLETE (R291, R292): the regions of a team are staged and its threads may issue, or the team
ends as if on an unhandled trap. -/
def execStagingComplete (t : TKey) (s : State) : Host.Outcome State Fault Refusal :=
  match s.team? t, s.grid? t.ctx t.grid, (s.teamGroups t).head? with
  | some x, some gr, some g =>
    if x.phase ≠ .staging then .next s
    else
      match s.stageAll g x gr.rcd.regions 0 with
      | (.wait, _) => .next s
      | (.ok s, _) =>
        let s := s.modTeam t (fun x => { x with phase := .running })
        .next (if s.unwanted x then s.ask t else s)
      | (.fail s cause sub at_, i) =>
        let s := s.faultLog t.ctx { g.faultRec 3 with cause := cause.code, sub := sub, flags := 2, gid := 0xFFFF, value := BitVec.ofNat 64 at_, extra := BitVec.ofNat 64 i }
        .next ((s.teamEnd t (fun g => { g with trapped := g.trapped + 1 })).gridSettle t.ctx t.grid)
  | _, _, _ => .next s

/-! Starvation (R319 case 1). -/

/-- Would the next team of a grid, or the whole grid, fit now? -/
def State.fits (s : State) (g : Grid) : Bool := (s.placeStep g 0).isSome

/-! Migration (R319 case 2, R320). -/

/-- A saved team as it would stand at a placement, for a trial of what then fits. -/
def State.standAt (s : State) (t : TKey) (p : Spot) : State :=
  s.modTeam t (fun x => { x with core := p.core, die := p.die, pair := p.pair, phase := .running })

/-- Has a die room for all of some teams at once, each in its own span? -/
def State.roomOn (die : Nat) : List Team → State → Bool
  | [], _ => true
  | t :: r, s =>
    match s.teamRec t with
    | none => false
    | some rec => ((s.oldSpots t rec).filter (fun p => decide (p.die = die))).any (fun p => State.roomOn die r (s.standAt t.key p))

/-- Does a die hold teams that it cannot dispatch (R319 case 2): saved teams that it cannot place, or the undispatched
teams of a queue's head, which every online die is taken to hold while they fit nowhere (log entry 120)? -/
def State.overfull (s : State) (die : Nat) : Bool :=
  s.teams.any (fun t =>
    match t.phase, s.teamRec t with
    | .saved _, some r => decide (t.die = die) && !(s.oldSpots t r).any (fun p => decide (p.die = die))
    | _, _ => false) ||
  (s.online die && (List.range 64).any (fun q =>
    match s.head q with
    | some g => (s.savedTeams g).isEmpty && !s.fits g && !s.noFit g.rcd
    | none => false))

/-- TEAM_MIGRATE (R319 case 2, R320): a saved team, or a saved grid with a grid barrier whole, goes to another online
die; a team of it that is there already does not migrate. A running team of a die that holds teams it cannot dispatch is
asked for, where the other die has room for it. An undispatched team's migration leaves no trace. -/
def execTeamMigrate (t : TKey) (die : Nat) (s : State) : Host.Outcome State Fault Refusal :=
  match s.team? t with
  | none => .next s
  | some x =>
    let set := (s.together t).filterMap s.team?
    let moved := set.filter (fun y => decide (y.die ≠ die))
    let saved := fun (y : Team) => match y.phase with | .saved _ => true | _ => false
    if !s.online die || decide (x.die = die) || !State.roomOn die moved s then .next s
    else if set.all saved then
      .next (moved.foldl (fun s y => s.modTeam y.key (fun y => { y with die := die, migrations := y.migrations + 1 })) s)
    else if x.phase = .running ∧ x.req.isNone ∧ s.overfull x.die then .next (s.ask t)
    else .next s

/-- Teams to pre-empt until a grid's next team fits: `done` counts those already asked for. -/
def State.starve (s : State) (g : Grid) (below : Nat) : Nat → State → List TKey → List TKey
  | 0, _, acc => acc
  | n + 1, trial, acc =>
    if trial.fits g then acc
    else
      match trial.victim below with
      | none => acc
      | some t => State.starve s g below n (trial.asSaved (s.together t.key)) (acc ++ s.together t.key)

/-- PREEMPT_STARVATION (R319 case 1): a queue's head that has fit nowhere for the limit, while teams of
lower priority hold cores, has teams pre-empted for it. -/
def execPreemptStarvation (queue : Nat) (s : State) : Host.Outcome State Fault Refusal :=
  match s.head queue with
  | none => .next s
  | some g =>
    if s.fits g || s.noDie || s.noFit g.rcd then .next s
    else
      let leaving := (s.teams.filter (fun t => t.req.isSome)).map Team.key
      .next ((s.starve g (s.prioOf queue) s.teams.length (s.asSaved leaving) []).foldl State.ask s)

end Sys2Proof.Machine
end

