-- ==== Sys2Proof/Machine/Sync.lean ====
section
/-! DEFINITION. The meanings of the lock instructions (R149 to R159), fences (R160, R161), barriers
(R162 to R165) and cache maintenance (R178). -/

namespace Sys2Proof.Machine

/-- The registers of an address pair, for the uniform check (R22). -/
def pairRegs (a : Sel) (v : View) : List Reg := [v.regAt a 0, v.regAt a 1]

/-- Must a lock instruction of the participants wait for an operation that one of them has issued (R154, R160, R251)?
`waits` is set for the release of LUNLK, which comes after all their accesses. -/
def State.lockWaits (s : State) (g : Group) (ts : List Thread) (a : Acc) (ord : OrdClass) (st : BitVec 4) (waits : Bool) : Bool :=
  let p : Pend := { id := s.next, key := g.key, tid := 0, pc := 0, kind := .load [a], ord := ord, stream := st.toNat, rel := waits }
  s.pends.any (fun q => decide (q.key = g.key) && ts.any (fun t => decide (t.tid ∈ q.tids)) && q.beforeLock p)

/-- Has one of the participants a lock instruction in flight? -/
def State.lockPending (s : State) (g : Group) (ts : List Thread) : Bool :=
  s.pends.any (fun q => decide (q.key = g.key) && ts.any (fun t => decide (t.tid ∈ q.tids)) && (match q.kind with | .lock _ _ _ _ => true | _ => false))

/-- Is it an LLOCK, at which its threads block (R153)? -/
def isLlock : Instr → Bool
  | .llock _ _ _ => true
  | _ => false

/-- A lock instruction that must wait has issued: it is outstanding, with its d busy, or its threads blocked at an
LLOCK, until it reaches the home slice (R135, R153, R154, log entry 117). -/
def State.lockIssue (s : State) (i : Instr) (g : Group) (ts : List Thread) (d : Sel) (acc : Acc) (st : BitVec 4) (addr : Nat) (closes waits : Bool) : State :=
  match ts with
  | [] => s
  | t :: _ =>
    let dests : List (Sel × Tag) := if isLlock i then [] else [(d, .stat)]
    let id := s.next
    let s := s.push {
      id := id, key := g.key, tid := t.tid, pc := t.seqPc, kind := .lock i acc (ts.map Thread.tid) (waitersOf ts d), dests := dests, stream := st.toNat,
      acq := closes && !waits, rel := waits, scope := .dev, ord := acc.ord, ctx := g.ctx, vtag := g.vid, core := g.core, upper := g.upper, va := BitVec.ofNat 64 addr }
    if isLlock i then (s.modThreads g.key (ts.map Thread.tid) Thread.close).blockAt g ts .lock
    else s.modThreads g.key (ts.map Thread.tid) (fun t => t.issued id dests closes)

/-- A lock instruction (R138, R149 to R151): the address's checks; an answer LIMIT, which never reaches the slice
(R152); the scope check; and, unless it must wait, the home slice's recall of the line and `f` at the line. `need` is RD and
W for all but LSTAT (R283); those close the region (R326). `limit` says when the group's own lock state answers. -/
def lockOp (i : Instr) (d a : Sel) (st : BitVec 4) (lock waits : Bool) (limit : Group → List Thread → Nat → Bool) (s : State)
    (f : State → Group → List Thread → Nat → CohClass → State) : Host.Outcome State Fault Refusal :=
  issueChecked i s (memTags .global a none) (pairRegs a) (fun g ts s =>
    match ts with
    | [] => (s, [])
    | t :: _ =>
      let addr := View.address ⟨g, t⟩ .global a
      if addr % 4 ≠ 0 then (s, dues g.key ts (memTrap .align 1 addr))
      else
        match s.locate g .global (if lock then .rw else .rd) addr 1 with
        | (s, .error none) => stalled s
        | (s, .error (some e)) => (s, dues g.key ts e)
        | (s, .ok (acc :: _)) =>
          match acc.loc with
          | .global pa =>
            let line := lineOf (s.fwd pa)
            let closed := fun (s : State) => if lock then s.modThreads g.key (ts.map Thread.tid) Thread.close else s
            if !deviceHomed pa then (s, dues g.key ts (memTrap .prot 4 addr))
            else if limit g ts line && !s.lockPending g ts then ((closed s).lockAnswer g (waitersOf ts d) line 7 0, [])
            else
              match s.scopeCheck g.key .dev line with
              | .error sub => (s, dues g.key ts (memTrap .scope sub addr))
              | .ok s' =>
                if s.lineHeld pa || s.lockWaits g ts acc acc.ord st waits then (s'.lockIssue i g ts d acc st addr lock waits, [])
                else (f (closed (s'.recall line)) g ts line acc.coh, [])
          | _ => (s, [])
        | (s, .ok []) => (s, []))

/-- LLOCK (R149, R153). -/
def execLlock (d a : Sel) (st : BitVec 4) (s : State) : Host.Outcome State Fault Refusal :=
  lockOp (.llock d a st) d a st true false (fun g ts line => ts.all (fun t => (g.ended line t.tid).isNone) && g.lockLimit true line) s
    (fun s g ts line coh => s.llockAt g ts d line coh)

/-- LTRY (R149, R153). -/
def execLtry (d a : Sel) (st : BitVec 4) (s : State) : Host.Outcome State Fault Refusal :=
  lockOp (.ltry d a st) d a st true false (fun g _ line => g.lockLimit false line) s (fun s g ts line coh => let r := s.ltry g line coh; r.1.lockAnswer g (waitersOf ts d) line r.2 0)

/-- LUNLK (R149, R154). -/
def execLunlk (d a : Sel) (st : BitVec 4) (s : State) : Host.Outcome State Fault Refusal :=
  lockOp (.lunlk d a st) d a st true true (fun _ _ _ => false) s (fun s g ts line _ => let r := s.lunlk g line; r.1.lockAnswer g (waitersOf ts d) line r.2 0)

/-- LSTAT (R149, R153). -/
def execLstat (d a : Sel) (st : BitVec 4) (s : State) : Host.Outcome State Fault Refusal :=
  lockOp (.lstat d a st) d a st false false (fun _ _ _ => false) s (fun s g ts line _ => s.lockAnswer g (waitersOf ts d) line (s.lstat g line) 0)

/-- LOCK_TIMEOUT (R155, R156): a request with a limit, still queued when the limit has passed. -/
def execLockTimeout (line : Nat) (k : GKey) (s : State) : Host.Outcome State Fault Refusal :=
  match s.lock? line with
  | none => .next s
  | some r =>
    match r.queue.find? (fun q => decide (q.key = k) && decide (q.limit ≠ 0)) with
    | none => .next s
    | some q => .next (s.lockFail r q 3)

/-- DEADLOCK_BROKEN (R157): the youngest waiter of a cycle leaves its queue, and a deadlock record is
written, whose VALUE is the line's physical address (DESIGN CHOICE, log entry 111). -/
def execDeadlockBroken (k : GKey) (s : State) : Host.Outcome State Fault Refusal :=
  match s.waitCycle k, s.lockReq? k with
  | some cycle, some (r, q) =>
    if s.youngest k cycle then
      let s' := match s.anyGroup? k with
        | some g => s.faultLog q.ctx { g.faultRec 2 with value := BitVec.ofNat 64 r.line, extra := BitVec.ofNat 64 (cycle.length % 256) }
        | none => s
      .next (s'.lockFail r q 4)
    else .next s
  | _, _ => .next s

/-! Fences. -/

/-- A fence joins each participant's outstanding operations, and takes effect when what it covers has
been performed. -/
def fenceOp (i : Instr) (sc : Scope) (mask : BitVec 16) (s : State) : Host.Outcome State Fault Refusal :=
  issue i s (fun g ts s =>
    let s := ts.foldl (fun s t =>
      (s.push { id := s.next, key := g.key, tid := t.tid, pc := t.seqPc, kind := .fence mask, scope := sc, ctx := g.ctx, vtag := g.vid, core := g.core, upper := g.upper }).modThread
        g.key t.tid Thread.advance) s
    (s.retireFences, []))

/-- FENCE (R160). -/
def execFence (sc : Scope) (s : State) : Host.Outcome State Fault Refusal := fenceOp (.fence sc) sc (BitVec.allOnes 16) s

/-- FNCX (R161). -/
def execFncx (sc : Scope) (mask : BitVec 16) (s : State) : Host.Outcome State Fault Refusal := fenceOp (.fncx sc mask) sc mask s

/-! Barriers. -/

/-- Tag check of a barrier instruction: a register that names it, and a token that is read (R162). -/
def barTags (reg : Option Sel) (token : Option Sel) (v : View) : Option Trap :=
  let ok := (reg.toList ++ token.toList).all (fun x => v.tag x != .void)
  if ok then none else some (Machine.tagTrap 15 (reg.map v.tag) none (token.map v.tag))

/-- The shared part of the barrier instructions: the checks of R70 and R164, then each good lane. With
`release`, a thread waits for its own accesses (R165), and the others go on without it (R136). -/
def barOp (i : Instr) (imm : Option (BitVec 8)) (reg : Option Sel) (token : Option Sel) (release : Bool) (s : State)
    (f : BarName → Group → List Thread → State → State × List Due) : Host.Outcome State Fault Refusal :=
  issueChecked i s (barTags reg token) (fun v => reg.toList.map v.reg) (fun g ts s =>
    match ts with
    | [] => (s, [])
    | t :: _ =>
      let name : BitVec 8 := imm.getD ((reg.map (fun r => (View.val ⟨g, t⟩ r).extractLsb' 0 8)).getD 0)
      if !barImmOk name then (s, dues g.key ts (illegal 8 i))
      else
        let ts := if release then s.ripe g.key ts else ts
        let trapOf := fun (t : Thread) => s.barTrap g.key name (token.map (View.val ⟨g, t⟩))
        let good := ts.filter (fun t => (trapOf t).isNone)
        let bad := ts.filterMap (fun t => (trapOf t).map (fun e => (⟨g.key, t.tid, e⟩ : Due)))
        let (s, ds) := f (barOf name) g good s
        (s, bad ++ ds))

/-- A result of a barrier instruction, to each thread, whose idempotent region it closes (R326). -/
def State.barResult (s : State) (g : Group) (ts : List Thread) (d : Sel) (val : Word) (tag : Tag) : State :=
  s.modThreads g.key (ts.map Thread.tid) (fun t => (t.close.result d ⟨val, tag⟩).advance)

/-- BARV: the participants arrive together; one that has arrived already faults (R163, R164). -/
def barvStep (imm : BarName → BitVec 8) (d : Sel) (b : BarName) (g : Group) (ts : List Thread) (s : State) : State × List Due :=
  let x := s.bar g b
  let new := ts.filter (fun t => !decide ((g.key.tmid, t.tid) ∈ x.arrived))
  let old := ts.filter (fun t => decide ((g.key.tmid, t.tid) ∈ x.arrived))
  let s := if new.isEmpty then s else s.releaseL1 g b.scope
  let s := s.barResult g new d (barToken b x.phase) .raw
  let s := s.setBar g.key b { x with arrived := x.arrived ++ new.map (fun t => (g.key.tmid, t.tid)) }
  let s := match s.group? g.key with | some g => s.barSettle g b | none => s
  (s, dues g.key old ⟨.barrier, 2, barVal (imm b) none, .precise⟩)

/-- The immediate of a barrier (R70). -/
def barImm (b : BarName) : BitVec 8 := BitVec.ofNat 8 (64 * b.level + b.num)

/-- Has the barrier left the phase of a token (R162)? -/
def Bar.left (x : Bar) (token : Word) : Bool := x.phase != token.extractLsb' 0 24

/-- BARW: threads whose phase has been left acquire and go on; the others block (R162, R165). -/
def barwStep (d : Sel) (b : BarName) (g : Group) (ts : List Thread) (s : State) : State × List Due :=
  let x := s.bar g b
  let go := ts.filter (fun t => x.left (View.val ⟨g, t⟩ d))
  let wait := ts.filter (fun t => !x.left (View.val ⟨g, t⟩ d))
  let s := if go.isEmpty then s else s.acquireL1 g b.scope
  let s := s.modThreads g.key (go.map Thread.tid) (fun t => t.close.advance)
  ((s.modThreads g.key (wait.map Thread.tid) Thread.close).blockAt g wait .barw, [])

/-- BARS: the token of the current phase (R162). -/
def barsStep (d : Sel) (b : BarName) (g : Group) (ts : List Thread) (s : State) : State × List Due :=
  (s.barResult g ts d (barToken b (s.bar g b).phase) .raw, [])

/-- BARQ: 1 and an acquire if the phase has been left, else 0 (R162, R165). -/
def barqStep (d : Sel) (b : BarName) (g : Group) (ts : List Thread) (s : State) : State × List Due :=
  let x := s.bar g b
  let yes := ts.filter (fun t => x.left (View.val ⟨g, t⟩ d))
  let no := ts.filter (fun t => !x.left (View.val ⟨g, t⟩ d))
  let s := if yes.isEmpty then s else s.acquireL1 g b.scope
  ((s.barResult g yes d 1 .pred).barResult g no d 0 .pred, [])

/-- BARV, immediate form (R163). -/
def execBarv (d : Sel) (imm : BitVec 8) (s : State) : Host.Outcome State Fault Refusal :=
  barOp (.barv d imm) (some imm) none none true s (barvStep barImm d)
/-- BARV, register form (R163). -/
def execBarvReg (d a : Sel) (s : State) : Host.Outcome State Fault Refusal :=
  barOp (.barvReg d a) none (some a) none true s (barvStep barImm d)
/-- BARW, immediate form (R162). -/
def execBarw (d : Sel) (imm : BitVec 8) (s : State) : Host.Outcome State Fault Refusal :=
  barOp (.barw d imm) (some imm) none (some d) false s (barwStep d)
/-- BARW, register form (R162). -/
def execBarwReg (d a : Sel) (s : State) : Host.Outcome State Fault Refusal :=
  barOp (.barwReg d a) none (some a) (some d) false s (barwStep d)
/-- BARS, immediate form (R162). -/
def execBars (d : Sel) (imm : BitVec 8) (s : State) : Host.Outcome State Fault Refusal :=
  barOp (.bars d imm) (some imm) none none false s (barsStep d)
/-- BARS, register form (R162). -/
def execBarsReg (d a : Sel) (s : State) : Host.Outcome State Fault Refusal :=
  barOp (.barsReg d a) none (some a) none false s (barsStep d)
/-- BARQ, immediate form (R162). -/
def execBarq (d : Sel) (imm : BitVec 8) (s : State) : Host.Outcome State Fault Refusal :=
  barOp (.barq d imm) (some imm) none (some d) false s (barqStep d)
/-- BARQ, register form (R162). -/
def execBarqReg (d a : Sel) (s : State) : Host.Outcome State Fault Refusal :=
  barOp (.barqReg d a) none (some a) (some d) false s (barqStep d)

/-! Cache maintenance (R178). -/

/-- The 128-byte lines of the 512-byte L1 lines at virtual addresses (R275): lines of unmapped pages are left
out, and `none` is a wait for a page table that is being moved. -/
def State.rangeLines (s : State) (g : Group) : List Nat → State × Option (List Nat)
  | [] => (s, some [])
  | va :: r =>
    let (s, here) : State × Option (List Nat) :=
      if 2 ^ 56 ≤ va then (s, some [])
      else
        match s.translate g.tlbUnit g.ctx .nothing va with
        | (s, .wait) => (s, none)
        | (s, .ok _ pa) => (s, some ((List.range 4).map (fun k => lineOf (s.fwd (pa + 128 * k)))))
        | (s, _) => (s, some [])
    match here, State.rangeLines s g r with
    | some l, (s, some ls) => (s, some (l ++ ls))
    | _, (s, _) => (s, none)

/-- The addresses of the 512-byte lines that a range overlaps; a count of 0 names none. -/
def rangeBlocks (va n : Nat) : List Nat :=
  if n = 0 then [] else (List.range ((va + n - 1) / 512 - va / 512 + 1)).map (fun k => (va / 512 + k) * 512)

/-- The units of the directory on lines. -/
def lineUnits (lines : List Nat) : List Nat := lines.flatMap (fun l => if hostBit ≤ l then [l, l + 64] else [l])

/-- A core's DIR copies of lines: clean, and with `inval` no longer in its L1. -/
def State.maintainDir (s : State) (g : Group) (inval : Bool) (lines : List Nat) : State :=
  let mine := fun (x : DieCopy) => decide (x.die = dieOf g.core) && decide (g.core ∈ x.cores) && decide (x.line ∈ lineUnits lines)
  if g.key.isQueue then s
  else
    let s := (s.coh.copies.filter mine).foldl (fun s x => s.cleanCopy x.die x.line) s
    if !inval then s
    else
      let gone := (s.coh.copies.filter mine).filter (fun x => decide (x.cores = [g.core]))
      let s := { s with coh := ({ s.coh with copies := s.coh.copies.map (fun x =>
        if mine x then { x with cores := x.cores.filter (fun c => decide (c ≠ g.core)), writer := if x.writer = some g.core then none else x.writer } else x) }).l1Lose g.core lines }
      gone.foldl State.giveUp s

/-- Dirty halves of host lines go back to host memory, with what a die holds newer, and the device keeps clean copies
(R178). -/
def State.cleanHalves (s : State) (lines : List Nat) : State :=
  let s := (s.coh.copies.filter (fun x => decide (hostBit ≤ x.line) && decide (lineOf x.line ∈ lines) && (x.st == .m || x.st == .o))).foldl
    (fun s x => s.cleanCopy x.die x.line) s
  (s.coh.halves.filter (fun h => decide (h.st = .m) && decide (lineOf (64 * h.half) ∈ lines))).foldl (fun s h =>
    { s with
      mem := { s.mem with ram := s.mem.ram.writeWords (64 * h.half) ((List.range 16).map (fun i => Store.get 0 h.words i)) }
      coh := { s.coh with halves := s.coh.halves.map (fun x => if x.half = h.half then { x with st := .e } else x) } }) s

/-- SFLSH and SINV on the lines of one lane's range (R178). -/
def State.maintain (s : State) (g : Group) (inval : Bool) (lines : List Nat) : State :=
  let s := if inval then s.dropSelf g.l1 (fun l => decide (l ∈ lines)) else s.writeThrough g.l1 (fun l => decide (l ∈ lines))
  (s.maintainDir g inval lines).cleanHalves lines

/-- Tag check of SFLSH and SINV: an address pair, and a count tagged INT, NAT or RAW. -/
def maintainTags (a b : Sel) (v : View) : Option Trap :=
  if addrTag (v.pairTag addrTag a) && addrTag (v.tag b) then none
  else some (Machine.tagTrap 15 (some (v.pairTag addrTag a)) (some (v.tag b)) none)

/-- SFLSH and SINV of one lane, whose byte count is an unsigned number under every tag (DESIGN CHOICE, log entry 113), after the accesses that it has issued: it waits for a page table or a line that
is being moved, and for a transaction on one of its lines. -/
def maintainLane (inval : Bool) (a b : Sel) (g : Group) (t : Thread) (s : State) : State × List Due :=
  match s.rangeLines g (rangeBlocks (View.pair ⟨g, t⟩ a).toNat (View.val ⟨g, t⟩ b).toNat) with
  | (s', none) => (s', [])
  | (s', some lines) =>
    if lines.any (fun l => s'.lineWaits l || (lineUnits [l]).any s'.coh.busy) then (s', [])
    else ((s'.maintain g inval lines).modThread g.key t.tid Thread.advance, [])

/-- SFLSH and SINV: a thread whose accesses are outstanding waits, and the others go on without it (R136). -/
def maintainOp (i : Instr) (inval : Bool) (a b : Sel) (s : State) : Host.Outcome State Fault Refusal :=
  issueChecked i s (maintainTags a b) noUniform (fun g ts s =>
    eachLane g.key (maintainLane inval a b) ((s.ripe g.key ts).map Thread.tid) s)

/-- SINV (R178). -/
def execSinv (a b : Sel) (s : State) : Host.Outcome State Fault Refusal := maintainOp (.sinv a b) true a b s
/-- SFLSH (R178). -/
def execSflsh (a b : Sel) (s : State) : Host.Outcome State Fault Refusal := maintainOp (.sflsh a b) false a b s

end Sys2Proof.Machine
end

