-- ==== Sys2Proof/Machine/Coherence.lean ====
section
/-! DEFINITION. The home directory's protocol between dies and slices (R341 to R343, R352) and the host's
side of host memory and of device memory (R344, R345, R347). Each event is the arrival of one message. -/

namespace Sys2Proof.Machine

/-! Messages. -/

/-- Incarnation of a die (R352); the home slice has none. -/
def State.incOf (s : State) (die : Nat) : BitVec 8 := nth s.dev.dieInc die 0

/-- Is a message from an earlier incarnation of its sender? -/
def State.stale (s : State) (m : Msg) : Bool := decide (m.from_ < 8) && m.inc != s.incOf m.from_

/-- Send a message. -/
def State.send (s : State) (m : Msg) : State := { s with coh := { s.coh with msgs := s.coh.msgs ++ [m] } }

/-- Remove the first message equal to one. -/
def State.unsend (s : State) (m : Msg) : State := { s with coh := { s.coh with msgs := s.coh.msgs.erase m } }

/-- The first message of a kind to a die about a line. -/
def State.msg? (s : State) (k : MsgKind) (die line : Nat) : Option Msg :=
  s.coh.msgs.find? (fun m => decide (m.kind = k) && decide (m.die = die) && decide (m.line = line))

/-- Receive a message: a stale one is dropped and counted (R352). -/
def State.receive (s : State) (k : MsgKind) (die line : Nat) (f : State → Msg → State) : Host.Outcome State Fault Refusal :=
  match s.msg? k die line with
  | none => .next s
  | some m => .next (let s' := s.unsend m; if s.stale m then s'.countDead else f s' m)

/-! The directory: one entry for each unit, a line of the device or a half of a host line (R341, R344). -/

/-- DATA from the home slice, with what L2 holds and its marks: the line takes a place in L2 by the policy of the
access that asked for it (R276, R357). -/
def State.homeData (s : State) (die line : Nat) (grant : DirSt) (acks : Nat) (pol : Nat := 0) : State :=
  (s.l2Use pol line none (unitSectors line)).send
    { kind := .data, die := die, line := line, grant := grant, acks := acks, words := s.lineWords line, poison := s.unitMarks line }

/-- INV to dies, each to answer a requester. -/
def State.sendInvs (s : State) (line req : Nat) (ds : List Nat) : State :=
  ds.foldl (fun s d => s.send { kind := .inv, die := d, line := line, req := req }) s

/-- FWD to the owner for a requester. -/
def State.sendFwd (s : State) (k : MsgKind) (owner line req acks : Nat) : State :=
  s.send { kind := k, die := owner, line := line, req := req, acks := acks }

/-- May the slice grant a unit for writing: a half that the host has left to the device (R344)? -/
def State.unitExcl (s : State) (unit : Nat) : Bool := decide (unit < hostBit) || s.halfOk unit true

/-- The home action of a read request (R342). -/
def State.homeRds (s : State) (die line : Nat) (pol : Nat := 0) : State :=
  let e := s.coh.entry line
  match e.st, e.owner with
  | .i, _ =>
    if s.unitExcl line then (s.homeData die line .e 0 pol).setEntry { e with st := .e, owner := some die, sharers := [], busy := some die }
    else (s.homeData die line .s 0 pol).setEntry { e with st := .s, owner := none, sharers := [die], busy := some die }
  | .s, _ => (s.homeData die line .s 0 pol).setEntry { e with sharers := e.sharers ++ [die], busy := some die }
  | st, some o => (s.sendFwd .fwdS o line die 0).setEntry
      { e with st := if st = .e then .e else .o, sharers := e.sharers ++ [die], busy := some die }
  | _, none => s

/-- The home action of an exclusive request (R342). -/
def State.homeRdx (s : State) (die line : Nat) (pol : Nat := 0) : State :=
  let e := s.coh.entry line
  let others := e.sharers.filter (fun d => decide (d ≠ die))
  let e' := { e with st := .m, owner := some die, sharers := [], busy := some die }
  match e.st, e.owner with
  | .i, _ => (s.homeData die line .m 0 pol).setEntry e'
  | .s, _ => ((s.homeData die line .m others.length pol).sendInvs line die others).setEntry e'
  | _, some o => ((s.sendFwd .fwdX o line die others.length).sendInvs line die others).setEntry e'
  | _, none => s

/-- The home action of an upgrade (R342): its grant carries what the die holds already. A die that has lost
its copy meanwhile is served as for RDX. -/
def State.homeUpg (s : State) (die line : Nat) (pol : Nat := 0) : State :=
  match s.coh.copy? die line with
  | none => s.homeRdx die line pol
  | some c =>
    let e := s.coh.entry line
    let others := (e.sharers ++ e.owner.toList).filter (fun d => decide (d ≠ die))
    ((s.send { kind := .data, die := die, line := line, grant := .m, acks := others.length, words := c.words, poison := c.poison, dirty := e.st == .o }).sendInvs line die others).setEntry
      { e with st := .m, owner := some die, sharers := [], busy := some die }

/-- The home action of a request. -/
def State.homeRequest (s : State) (m : Msg) : State :=
  match m.kind with
  | .rds => s.homeRds m.die m.line m.pol
  | .rdx => s.homeRdx m.die m.line m.pol
  | .upg => s.homeUpg m.die m.line m.pol
  | _ => s

/-! Back-invalidation (R343). -/

/-- A victim is back-invalidated: BINV goes to every die that holds it, and it is busy (R343). The entry that
was changed least recently is chosen (log entry 92), one victim at a time. -/
def State.binvFor (s : State) (unit : Nat) : State :=
  let set := s.coh.dirSetOf unit
  if set.any (fun e => decide (e.busy = some 8)) then s
  else
    match (set.filter (fun e => e.busy.isNone)).getLast? with
    | none => s
    | some e =>
      (e.owner.toList ++ e.sharers).foldl (fun s d => s.send { kind := .binv, die := d, line := e.line }) (s.setEntry { e with busy := some 8 })

/-- Take up the requests that wait at a unit that is free, until one makes it busy (R342): each waits for the half
that it needs (R344) and for a free entry (R343). -/
def State.nextRequest : Nat → State → Nat → State
  | 0, s, _ => s
  | n + 1, s, line =>
    let e := s.coh.entry line
    match e.busy, e.waiting with
    | none, m :: r =>
      if s.stale m then State.nextRequest n (s.setEntry { e with waiting := r }).countDead line
      else if hostBit ≤ line ∧ !s.halfOk line (m.kind != .rds) then s
      else if !s.coh.dirRoom line then s.binvFor line
      else State.nextRequest n ((s.setEntry { e with waiting := r }).homeRequest m) line
    | _, _ => s

/-- A unit whose dirty data are lost is poisoned in L2 (R352). -/
def State.poisonLine (s : State) (line : Nat) : State := s.setPoison (runSectors line (unitWords line))

/-- A unit whose entry, in the directory or in a die filter, has failed its check: every copy is invalid, and the line is
poisoned in L2 (R358). -/
def State.breakEntry (s : State) (unit : Nat) : State :=
  let s := { s with coh := { s.coh with broken := s.coh.broken.filter (fun u => decide (u ≠ unit)) } }
  let s := (s.coh.copies.filter (fun x => decide (x.line = unit))).foldl (fun s x => s.dropCopy x.die unit) s
  (s.setEntry { s.coh.entry unit with st := .i, owner := none, sharers := [] }).poisonLine unit

/-- The requests waiting at a unit. An error of its entry that was found while it was busy is dealt with first. -/
def State.takeUp (s : State) (line : Nat) : State :=
  let s := if line ∈ s.coh.broken ∧ !s.coh.busy line then s.breakEntry line else s
  s.nextRequest ((s.coh.entry line).waiting.length + 1) line

/-- A unit is free: its own requests are taken up, and those of its set that wait for an entry. -/
def State.unitFree (s : State) (line : Nat) : State :=
  let s := s.takeUp line
  ((s.coh.dir.filter (fun e => decide (e.line ≠ line) && !e.waiting.isEmpty && dirPeers e.line line)).map DirEnt.line).foldl State.takeUp s

/-- A request reaches the home slice: it waits while the line is busy (R342). -/
def State.arriveHome (s : State) (m : Msg) : State :=
  let e := s.coh.entry m.line
  (s.setEntry { e with waiting := e.waiting ++ [m] }).takeUp m.line

/-- A victim whose every holder has answered ends in I (R343). -/
def State.binvEnd (s : State) (line : Nat) : State :=
  let e := s.coh.entry line
  if e.busy = some 8 ∧ !s.coh.msgs.any (fun m => decide (m.kind = .binv) && decide (m.line = line)) then
    (s.setEntry { e with st := .i, owner := none, sharers := [], busy := none }).unitFree line
  else s

/-! Requests of the dies. -/

/-- Does an outstanding access of a die need a unit, to write it or only to read it, that the die does not hold so,
and that no request of its own is out for? -/
def State.wanting (s : State) (die unit : Nat) (write : Bool) : Option (Pend × Acc) :=
  if s.coh.miss.any (fun m => decide (m.die = die) && decide (m.line = unit)) || !(s.online die || s.leaving die) then none
  else
    s.pends.findSome? (fun p =>
      if !p.access || p.writes != write then none
      else (p.accs.find? (fun a =>
        match s.route p.who a p.rmw with
        | .die d pa => decide (d = die) && decide (cohUnit pa = unit) && !s.accWaits p.who a p.writes && !s.routeReady (.die d pa) a.grain p.pol p.writes
        | _ => false)).map (fun a => (p, a)))

def State.dieWants (s : State) (die unit : Nat) (write : Bool) : Bool := (s.wanting die unit write).isSome

/-- A die sends a request: it is recorded as missing and the request reaches the slice. -/
def State.request (s : State) (k : MsgKind) (die line : Nat) (excl : Bool) (pol : Nat := 0) : State :=
  let s := { s with coh := { s.coh with miss := s.coh.miss ++ [({ die := die, line := line, excl := excl, data := none, acksNeeded := none, acksGot := 0 } : Miss)] } }
  s.arriveHome { kind := k, die := die, line := line, inc := s.incOf die, from_ := die, pol := pol }

/-- Cache policy of the access that a die's request is for. -/
def wantPol (x : Option (Pend × Acc)) : Nat := match x with | some (p, _) => p.pol | none => 0

/-- The rest of a miss's fill unit (R338): the units that the die neither holds nor has asked for are requested, each
from its own home slice, for the core that missed, where the host has granted their halves. -/
def State.requestRest (s : State) (die unit : Nat) (x : Option (Pend × Acc)) : State :=
  match x with
  | some (p, { loc := .global pa, grain := grain, .. }) =>
    let rest := (fillUnits grain p.pol (s.fwd pa)).filter (fun u => decide (u ≠ unit) && (s.coh.copy? die u).isNone)
    let s := match p.who.l1 with
      | some core => s.addFills (rest.map (fun u => ⟨die, u, core, p.pol, fillSectors grain (s.fwd pa) &&& lineSectors u⟩))
      | none => s
    (rest.filter (fun u => !s.coh.miss.any (fun m => decide (m.die = die) && decide (m.line = u)) && (decide (u < hostBit) || s.halfOk u false))).foldl
      (fun s u => s.request .rds die u false p.pol) s
  | _ => s

/-- The policy of a fill of a unit that a die may ask for now: it waits for it, and neither holds it nor has asked. -/
def State.fillWants (s : State) (die unit : Nat) : Option Nat :=
  if s.coh.miss.any (fun m => decide (m.die = die) && decide (m.line = unit)) || !(s.online die || s.leaving die) then none
  else (s.coh.fills.find? (fun f => decide (f.die = die) && decide (f.unit = unit))).map Fill.pol

/-- RDS (R342): a load miss of a die, with its fill unit (R338), or a fill that no access waits for. -/
def execRds (die line : Nat) (s : State) : Host.Outcome State Fault Refusal :=
  let x := s.wanting die line false
  if (s.coh.copy? die line).isSome then .next s
  else if x.isSome then .next ((s.request .rds die line false (wantPol x)).requestRest die line x)
  else
    match s.fillWants die line with
    | some pol => .next (s.request .rds die line false pol)
    | none => .next s

/-- RDX (R342): a store miss of a die, with its fill unit (R338). -/
def execRdx (die line : Nat) (s : State) : Host.Outcome State Fault Refusal :=
  let x := s.wanting die line true
  if x.isSome ∧ (s.coh.copy? die line).isNone then .next ((s.request .rdx die line true (wantPol x)).requestRest die line x)
  else .next s

/-- UPG (R342): a store to a line that the die holds shared. -/
def execUpg (die line : Nat) (s : State) : Host.Outcome State Fault Refusal :=
  let x := s.wanting die line true
  if x.isSome ∧ (s.coh.copy? die line).isSome then .next (s.request .upg die line true (wantPol x)) else .next s

/-- A copy of a die that it may give up: its line is free, or is being back-invalidated (R343). -/
def State.freeCopy (s : State) (die line : Nat) : Option DieCopy :=
  if s.coh.busy line ∧ (s.coh.entry line).busy ≠ some 8 then none else s.coh.copy? die line

/-- A die gives up its copy; one that crosses a BINV is taken as the reply to it (R343). -/
def State.giveUpNow (s : State) (x : DieCopy) : State :=
  let s := s.giveUp x
  let s := match s.msg? .binv x.die x.line with | some m => s.unsend m | none => s
  s.binvEnd x.line

/-- WB (R342): a die evicts dirty data. -/
def execWb (die line : Nat) (s : State) : Host.Outcome State Fault Refusal :=
  match s.freeCopy die line with
  | some x => .next (if x.st = .m ∨ x.st = .o then s.giveUpNow x else s)
  | none => .next s

/-- EVC (R342): a die evicts a clean copy. -/
def execEvc (die line : Nat) (s : State) : Host.Outcome State Fault Refusal :=
  match s.freeCopy die line with
  | some x => .next (if x.st = .m ∨ x.st = .o then s else s.giveUpNow x)
  | none => .next s

/-- BINV (R343): a back-invalidation reaches a die, which returns its data, if it still holds the line. -/
def execBinv (die line : Nat) (s : State) : Host.Outcome State Fault Refusal :=
  s.receive .binv die line (fun s _ =>
    (match s.coh.copy? die line with
     | some x => s.giveUp x
     | none => s).binvEnd line)

/-! Forwards, data and acknowledgements. -/

/-- Are a die's data newer than those of L2? -/
def DieCopy.dirty (x : DieCopy) : Bool := x.st == .m || x.st == .o

/-- FWD_S (R342): the owner sends DATA to the requester and FACK to the slice; it keeps O if it held M or
O, and S if it held E. -/
def execFwdS (die line : Nat) (s : State) : Host.Outcome State Fault Refusal :=
  s.receive .fwdS die line (fun s m =>
    match s.coh.copy? die line with
    | none => s
    | some x =>
      let kept : DirSt := if x.st = .e then .s else .o
      ((s.putCopy { x with st := kept, writer := none }).send
        { kind := .data, die := m.req, line := line, grant := .s, words := x.words, poison := x.poison, dirty := x.dirty, inc := s.incOf die, from_ := die }).send
        { kind := .fack, die := die, line := line, grant := kept, req := m.req, inc := s.incOf die, from_ := die })

/-- FWD_X (R342): the owner sends DATA to the requester and drops its copy. -/
def execFwdX (die line : Nat) (s : State) : Host.Outcome State Fault Refusal :=
  s.receive .fwdX die line (fun s m =>
    match s.coh.copy? die line with
    | none => s
    | some x => (s.dropCopy die line).send
        { kind := .data, die := m.req, line := line, grant := .m, acks := m.acks, words := x.words, poison := x.poison, dirty := x.dirty, inc := s.incOf die, from_ := die })

/-- Change a die's request in progress. -/
def State.modMiss (s : State) (die line : Nat) (f : Miss → Miss) : State :=
  { s with coh := { s.coh with miss := s.coh.miss.map (fun m => if m.die = die ∧ m.line = line then f m else m) } }

/-- The fills of L1s that a unit which has come to a die brings end: each L1 holds its sectors by its policy (R276,
R338). -/
def State.endFills (s : State) (die unit : Nat) : State :=
  let mine := s.coh.fills.filter (fun f => decide (f.die = die) && decide (f.unit = unit))
  let s := { s with coh := { s.coh with fills := s.coh.fills.filter (fun f => decide (f ∉ mine)) } }
  mine.foldl (fun s f => s.l1Use f.core f.pol true unit f.sectors) s

/-- A request that has its data and every acknowledgement ends: the die holds the line, with the cores that held it
before an upgrade and those that it fills (R341), and sends DONE (R342). -/
def State.finishMiss (s : State) (die line : Nat) : State :=
  match s.coh.miss.find? (fun m => decide (m.die = die) && decide (m.line = line)) with
  | none => s
  | some m =>
    match m.data, m.acksNeeded with
    | some (grant, words), some n =>
      if n ≤ m.acksGot then
        let old := match s.coh.copy? die line with | some x => x.cores | none => []
        let cores := (old ++ (s.coh.fills.filter (fun f => decide (f.die = die) && decide (f.unit = line))).map Fill.core).eraseDups
        ((({ s with coh := { s.coh with miss := s.coh.miss.filter (fun x => !(decide (x.die = die) && decide (x.line = line))) } }).putCopy
          { die := die, line := line, st := grant, words := words, cores := cores, poison := m.poison }).endFills die line).send { kind := .done, die := die, line := line, inc := s.incOf die, from_ := die }
      else s
    | _, _ => s

/-- INV (R342): a sharer drops its copy and acknowledges to the requester. -/
def execInv (die line : Nat) (s : State) : Host.Outcome State Fault Refusal :=
  s.receive .inv die line (fun s m =>
    (s.dropCopy die line).send { kind := .invack, die := m.req, line := line, inc := s.incOf die, from_ := die })

/-- DATA (R342): the requester receives the line with its grant. -/
def execData (die line : Nat) (s : State) : Host.Outcome State Fault Refusal :=
  s.receive .data die line (fun s m =>
    (s.modMiss die line (fun x => { x with data := some (m.grant, m.words), acksNeeded := some m.acks, dirty := m.dirty, poison := m.poison })).finishMiss die line)

/-- INVACK (R342): the requester counts an acknowledgement. -/
def execInvack (die line : Nat) (s : State) : Host.Outcome State Fault Refusal :=
  s.receive .invack die line (fun s _ => (s.modMiss die line (fun x => { x with acksGot := x.acksGot + 1 })).finishMiss die line)

/-- FACK (R342): the slice learns what the owner has kept. -/
def execFack (line : Nat) (s : State) : Host.Outcome State Fault Refusal :=
  match s.coh.msgs.find? (fun m => decide (m.kind = .fack) && decide (m.line = line)) with
  | none => .next s
  | some m =>
    .next (let s' := s.unsend m
      if s.stale m then s'.countDead
      else
        let e := s'.coh.entry line
        if m.grant = .s then s'.setEntry { e with st := .s, owner := none, sharers := e.sharers ++ (if m.die ∈ e.sharers then [] else [m.die]) }
        else s'.setEntry { e with st := .o })

/-- May the requester's DONE end the busy time: the owner's FACK has come, and no access of the die that
the line was asked for is still to be performed (R342)? -/
def State.doneReady (s : State) (die line : Nat) : Bool :=
  !s.coh.msgs.any (fun m => decide (m.kind = .fack) && decide (m.line = line)) &&
  !s.pends.any (fun p => p.access && s.mayPerform p && p.accs.any (fun a =>
    match s.route p.who a p.rmw with
    | .die d pa => decide (d = die) && decide (cohUnit pa = line)
    | _ => false))

/-- Has a die an outstanding access that uses a unit? -/
def State.dieNeeds (s : State) (die unit : Nat) : Bool :=
  s.pends.any (fun p => p.access && p.accs.any (fun a =>
    match s.route p.who a p.rmw with
    | .die d pa => decide (d = die) && decide (cohUnit pa = unit)
    | _ => false))

/-- DONE (R342): the line is no longer busy, and the next request waiting there is taken up. A copy that no core holds
and no access waits for is given up. -/
def execDone (die line : Nat) (s : State) : Host.Outcome State Fault Refusal :=
  if s.doneReady die line then
    s.receive .done die line (fun s _ =>
      let s := s.setEntry { s.coh.entry line with busy := none }
      (if s.dieNeeds die line then s else s.dieLeave die line).unitFree line)
  else .next s

/-! A die that is gone (R352). -/

/-- An acknowledgement that a dead die owes counts as given. -/
def State.ackFor (s : State) (req line : Nat) : State := (s.modMiss req line (fun x => { x with acksGot := x.acksGot + 1 })).finishMiss req line

/-- A message that a dead die was to receive, was the requester of, or has sent (R352): what it carried is answered
by the slice, its acknowledgements count as given, dirty data that it carried away are poisoned, and a message
from it is dropped and counted. -/
def State.deadMsg (s : State) (die : Nat) (m : Msg) : State :=
  let s := s.unsend m
  if m.from_ = die then
    let s := s.countDead
    match m.kind with
    | .data => if m.die = die then s else (if m.dirty then s.poisonLine m.line else s).homeData m.die m.line m.grant m.acks
    | .invack => if m.die = die then s else s.ackFor m.die m.line
    | _ => s
  else
    match m.kind with
    | .fwdS => if m.die = die ∧ m.req ≠ die then s.homeData m.req m.line .s 0 else s
    | .fwdX => if m.die = die ∧ m.req ≠ die then s.homeData m.req m.line .m m.acks else s
    | .inv => if m.die = die ∧ m.req ≠ die then s.ackFor m.req m.line else s
    | .binv => s.binvEnd m.line
    | _ => s

/-- The directory entry of a line without a die: as the copies that are left give it, where the die's own request
was in progress; a request of another die goes on. -/
def State.rebuild (s : State) (die : Nat) (e : DirEnt) : DirEnt :=
  let e := { e with waiting := e.waiting.filter (fun m => decide (m.die ≠ die)) }
  if e.busy = some die then
    let held := s.coh.copies.filter (fun x => decide (x.line = e.line))
    match held.find? (fun x => x.st != .s) with
    | some x => { e with st := x.st, owner := some x.die, sharers := (held.map DieCopy.die).filter (fun d => decide (d ≠ x.die)), busy := none }
    | none => { e with st := if held.isEmpty then .i else .s, owner := none, sharers := held.map DieCopy.die, busy := none }
  else if (e.busy.isSome && decide (e.busy ≠ some 8)) && decide (e.owner = some die) then
    { e with st := .s, owner := none, sharers := e.sharers.filter (fun d => decide (d ≠ die)) }
  else e.without die

/-- The units whose newest data only a die had: its own dirty copies, and data that were on their way to it. -/
def State.dirtyOf (s : State) (die : Nat) : List Nat :=
  ((s.coh.copies.filter (fun x => decide (x.die = die) && x.dirty)).map DieCopy.line ++
   (s.coh.miss.filter (fun m => decide (m.die = die) && m.dirty)).map Miss.line ++
   (s.coh.msgs.filter (fun m => decide (m.die = die) && decide (m.kind = .data) && m.dirty)).map Msg.line).eraseDups

/-- A die's copies, requests and messages are gone, those of its requests that wait at a slice dropped and counted
(R352, R367): `lost` poisons what it held dirty; otherwise its
dirty lines are written back. -/
def State.dieGone (s : State) (die : Nat) (lost : Bool) : State :=
  let dirty := s.dirtyOf die
  let s := (s.coh.copies.filter (fun x => decide (x.die = die))).foldl (fun s x =>
    (if x.dirty && !lost then s.putHome x else s).dropCopy die x.line) s
  let s := { s with coh := { s.coh with miss := s.coh.miss.filter (fun m => decide (m.die ≠ die)), fills := s.coh.fills.filter (fun f => decide (f.die ≠ die)) } }
  let s := if lost then (dirty.filter (fun l => !s.coh.copies.any (fun x => decide (x.line = l) && x.dirty))).foldl State.poisonLine s else s
  let s := (s.coh.msgs.filter (fun m => decide (m.die = die) || decide (m.from_ = die) || decide (m.req = die && (m.kind == .fwdS || m.kind == .fwdX || m.kind == .inv)))).foldl
    (fun s m => s.deadMsg die m) s
  let dropped := s.coh.dir.flatMap (fun e => e.waiting.filter (fun m => decide (m.die = die)))
  let s := { s with coh := { s.coh with dir := s.coh.dir.map (s.rebuild die) } }
  let s := dropped.foldl (fun s _ => s.countDead) s
  (s.coh.dir.map DirEnt.line).foldl (fun s l => (s.setEntry (s.coh.entry l)).takeUp l) s

/-! Host halves (R344, R345). -/

/-- Words of a half from host memory. -/
def State.halfWords (s : State) (half : Nat) : Store Word :=
  (List.range 16).foldl (fun w i => Store.set 0 w i (s.mem.ram.readWord (64 * half + 4 * i))) []

/-- Put a half's words into host memory. -/
def State.halfBack (s : State) (half : Nat) (w : Store Word) : State :=
  { s with mem := { s.mem with ram := s.mem.ram.writeWords (64 * half) ((List.range 16).map (fun i => Store.get 0 w i)) } }

/-- The device's copy of a half. -/
def Coh.held (c : Coh) (half : Nat) : Option Half := c.halves.find? (fun h => decide (h.half = half) && h.st != .i)

/-- Replace it; a half in I is not kept. -/
def Coh.setHalf (c : Coh) (h : Half) : Coh :=
  { c with halves := (if h.st = .i then [] else [h]) ++ c.halves.filter (fun x => decide (x.half ≠ h.half)) }

/-- The data of a half as the host is given them. -/
def State.halfReply (s : State) (half : Nat) : State :=
  { s with peer := { s.peer with
      reply := (List.range 16).map (fun i => s.peek (64 * half + 4 * i))
      replyPoison := s.marked (64 * half) || s.marked (64 * half + 32) || decide (half ∈ s.mem.lost) } }

/-- A half's marks go with its data to the host, or new data take their place (R357). -/
def State.cleanHalf (s : State) (half : Nat) : State :=
  let s := s.clearPoison [2 * half, 2 * half + 1]
  { s with mem := { s.mem with lost := s.mem.lost.filter (fun h => decide (h ≠ half)) } }

/-- Is a half one of host memory, on a port that is up? -/
def State.hostHalf (s : State) (half : Nat) : Bool :=
  decide (hostBit ≤ 64 * half) && decide (64 * half + 64 ≤ hostBit + s.dev.hostBytes) && !s.portDown (64 * half)

/-- SELF words of a half that L1s have written reach the half, and the L1s keep them clean (R344). -/
def State.recallSelf (s : State) (half : Nat) : State :=
  (s.coh.self.filter (fun x => decide (x.line = lineOf (64 * half)))).foldl (fun s x =>
    let mine : BitVec 32 := if half % 2 = 0 then 0x0000FFFF else 0xFFFF0000
    let s := s.writeThroughLine { x with dirty := x.dirty &&& mine }
    { s with coh := { s.coh with self := s.coh.self.map (fun y => if y.core = x.core ∧ y.line = x.line then { y with dirty := x.dirty &&& ~~~mine, writers := if x.dirty &&& ~~~mine = 0 then [] else x.writers } else y) } }) s

/-- L1 copies of a half on SELF pages are invalid. -/
def Coh.dropHalf (c : Coh) (half : Nat) : Coh :=
  let mine : BitVec 32 := if half % 2 = 0 then 0x0000FFFF else 0xFFFF0000
  { c with self := c.self.map (fun x => if x.line = lineOf (64 * half) then { x with valid := x.valid &&& ~~~mine, dirty := x.dirty &&& ~~~mine } else x) }

/-- The owner of a half gives its data to the slice, and every die that holds the half keeps it shared (R344). -/
def State.demote (s : State) (unit : Nat) : State :=
  let mine := s.coh.copies.filter (fun x => decide (x.line = unit))
  if mine.isEmpty then s
  else
    let s := match mine.find? DieCopy.dirty with | some x => s.putHome x | none => s
    let s := { s with coh := { s.coh with copies := s.coh.copies.map (fun (x : DieCopy) => if x.line = unit then { x with st := .s, writer := none } else x) } }
    s.setEntry { s.coh.entry unit with st := .s, owner := none, sharers := mine.map DieCopy.die }

/-- A half's dirty data go to host memory; the device keeps it in a state. -/
def State.returnHalf (s : State) (half : Nat) (st : DirSt) : State :=
  match s.coh.held half with
  | some h =>
    let s := if h.st = .m then s.halfBack half h.words else s
    let s := if st = .i then s.l2Lose (lineOf (64 * half)) (unitSectors (64 * half)) else s
    { s with coh := s.coh.setHalf { h with st := st } }
  | none => s

/-- A message of the host about a half: one of an earlier incarnation of its port is dropped and counted (R352). -/
def State.fromHost (s : State) (h : HostHalf) (f : Nat → State) : Host.Outcome State Fault Refusal :=
  .next (match s.hostPort (64 * h.half % 2 ^ 51) with
    | some p => if (nth s.dev.ports p Port.down).inc = h.inc then f h.half else s.countDead
    | none => s.countDead)

/-- SNOOP_DATA (R344): the half's sectors are recalled from the L1 that owns them, the data are returned, and the
half is kept S. A snoop waits while the half is busy (R345). -/
def execSnoopData (h : HostHalf) (s : State) : Host.Outcome State Fault Refusal :=
  s.fromHost h (fun half =>
    if (s.coh.held half).isNone || s.coh.busy (64 * half) then s
    else (((s.recallSelf half).demote (64 * half)).halfReply half).returnHalf half .s)

/-- SNOOP_INVALIDATE (R344): the half is recalled from every L1 and invalidated there, dirty data are returned, and
it is I. -/
def execSnoopInvalidate (h : HostHalf) (s : State) : Host.Outcome State Fault Refusal :=
  s.fromHost h (fun half =>
    if !s.hostHalf half || s.coh.busy (64 * half) then s
    else
      let s := (s.recallSelf half).recall (64 * half)
      let s := { s with coh := s.coh.dropHalf half }
      ((s.halfReply half).returnHalf half .i).cleanHalf half)

/-- SNOOP_CURRENT (R344): the data are returned and no state changes. -/
def execSnoopCurrent (h : HostHalf) (s : State) : Host.Outcome State Fault Refusal :=
  s.fromHost h (fun half => if (s.coh.held half).isNone then s else s.halfReply half)

/-- Does some work need a half that the device does not hold so (R344)? Accesses, with their fill units, and the
requests of dies name theirs; the other agents of the part make theirs as they come to them. -/
def State.halfWanted (s : State) (half : Nat) (excl : Bool) : Bool :=
  s.pends.any (fun p =>
    (match p.kind with | .engine _ _ _ => true | _ => false) ||
    p.accs.any (fun a => match a.loc with
      | .global pa => (decide (s.fwd pa / 64 = half) || decide (64 * half ∈ fillHalves a.grain (s.fwd pa))) && (p.writes || !excl)
      | _ => false)) ||
  (s.coh.entry (64 * half)).waiting.any (fun m => m.kind != .rds || !excl) ||
  s.coh.asks.any (fun a => decide (64 * half ∈ a.halves) && !excl) || !s.groups.isEmpty || s.teams.any (fun t => decide (t.phase = .staging)) || s.mem.migr.any Migr.running || s.grids.any (fun g => g.done.isNone)

/-- A line that a PFG asked for comes nearer (R177). -/
def State.askDone (s : State) (a : Ask) : State :=
  let w : Who := { l1 := a.core, die := none, ctx := 0, vtag := 0, pol := a.pol }
  match a.core with
  | some c => (s.routeRead w a.grain (.self c a.pa)).1
  | none => s.l2Use a.pol a.pa none

/-- The PFGs that waited for a half, and for nothing more, end. -/
def State.askSettle (s : State) (half : Nat) : State :=
  let mine := s.coh.asks.filter (fun a => decide (64 * half ∈ a.halves) && a.halves.all (fun h => s.halfOk h false))
  mine.foldl State.askDone { s with coh := { s.coh with asks := s.coh.asks.filter (fun a => decide (a ∉ mine)) } }

/-- HOST_HALF_GRANT (R344): the host grants a half that the slice asked for, with its data. A half that was lost with
its port stands poisoned in the device until a snoop takes it (R346). A grant of an earlier incarnation of the port,
or over a port that is down, is dropped and counted (R352). -/
def execHostHalfGrant (h : HostHalf) (excl : Bool) (data : List Word) (s : State) : Host.Outcome State Fault Refusal :=
  s.fromHost h (fun half =>
    if decide (hostBit ≤ 64 * half) && s.portDown (64 * half) then s.countDead
    else if !s.hostHalf half || !s.halfWanted half excl || decide (half ∈ s.mem.lost) then s
    else
      match s.coh.held half with
      | some h => (if excl ∧ h.st = .s then { s with coh := s.coh.setHalf { h with st := .e } } else s).takeUp (64 * half)
      | none =>
        let w := (List.range 16).foldl (fun w i => Store.set 0 w i (nth data i 0)) ([] : Store Word)
        let s := (s.halfBack half w).cleanHalf half
        let s := { s with coh := s.coh.setHalf ⟨half, if excl then .e else .s, w⟩ }
        ((s.l2Use 0 (64 * half) none (unitSectors (64 * half))).askSettle half).takeUp (64 * half))

/-- A host agent's read or write of a word of device memory at its home slice, which recalls dirty L1 data first
(R347). -/
def State.hostAccess (s : State) (pa : Nat) (store : Option Word) : State :=
  if pa % 4 ≠ 0 ∨ 2 ^ 39 < pa + 4 ∨ s.lineHeld pa ∨ !s.dev.ready then s
  else
    let at_ := s.fwd pa
    match store with
    | some w => s.homeWrite at_ w
    | none =>
      let s := s.recall (lineOf at_)
      { s with peer := { s.peer with reply := [s.peek at_], replyPoison := s.poisoned at_ } }

/-- Is a message one of the incarnation of the host port that it has come over (R352)? -/
def State.hostFresh (s : State) (a : HostAccess) : Bool :=
  decide (a.port < 8) && (nth s.dev.ports a.port Port.down).up && decide ((nth s.dev.ports a.port Port.down).inc = a.inc)

/-- HOST_AGENT_ACCESS (R347): one of an earlier incarnation of its port, or over a port that is down, is dropped and counted
(R352). -/
def execHostAgentAccess (a : HostAccess) (store : Option Word) (s : State) : Host.Outcome State Fault Refusal :=
  .next (if s.hostFresh a then s.hostAccess a.pa store else s.countDead)

end Sys2Proof.Machine
end

