-- ==== Sys2Proof/Machine/Compare.lean ====
section
/-! DEFINITION. The meanings of compares, class 0x4 (R107 to R109): one lane function of LaneFloat.lean for each. -/

namespace Sys2Proof.Machine

/-- CEQ (R107). -/
def execCeq (d a b : Sel) (s : State) : Host.Outcome State Fault Refusal :=
  lanewise (.ceq d a b) s (fun _ => laneCeq d a b)

/-- CNE (R107). -/
def execCne (d a b : Sel) (s : State) : Host.Outcome State Fault Refusal :=
  lanewise (.cne d a b) s (fun _ => laneCne d a b)

/-- CLT (R107). -/
def execClt (d a b : Sel) (s : State) : Host.Outcome State Fault Refusal :=
  lanewise (.clt d a b) s (fun _ => laneClt d a b)

/-- CLE (R107). -/
def execCle (d a b : Sel) (s : State) : Host.Outcome State Fault Refusal :=
  lanewise (.cle d a b) s (fun _ => laneCle d a b)

/-- CUNO (R107). -/
def execCuno (d a b : Sel) (s : State) : Host.Outcome State Fault Refusal :=
  lanewise (.cuno d a b) s (fun _ => laneCuno d a b)

/-- CTAG (R109). -/
def execCtag (d a : Sel) (imm : BitVec 8) (s : State) : Host.Outcome State Fault Refusal :=
  lanewise (.ctag d a imm) s (fun _ => laneCtag d a imm)

/-- CEQI (R107). -/
def execCeqi (d a : Sel) (imm : BitVec 8) (s : State) : Host.Outcome State Fault Refusal :=
  lanewise (.ceqi d a imm) s (fun _ => laneCeqi d a imm)

/-- CNEI (R107). -/
def execCnei (d a : Sel) (imm : BitVec 8) (s : State) : Host.Outcome State Fault Refusal :=
  lanewise (.cnei d a imm) s (fun _ => laneCnei d a imm)

/-- CLTI (R107). -/
def execClti (d a : Sel) (imm : BitVec 8) (s : State) : Host.Outcome State Fault Refusal :=
  lanewise (.clti d a imm) s (fun _ => laneClti d a imm)

/-- CLEI (R107). -/
def execClei (d a : Sel) (imm : BitVec 8) (s : State) : Host.Outcome State Fault Refusal :=
  lanewise (.clei d a imm) s (fun _ => laneClei d a imm)

/-- CGTI (R107). -/
def execCgti (d a : Sel) (imm : BitVec 8) (s : State) : Host.Outcome State Fault Refusal :=
  lanewise (.cgti d a imm) s (fun _ => laneCgti d a imm)

/-- CGEI (R107). -/
def execCgei (d a : Sel) (imm : BitVec 8) (s : State) : Host.Outcome State Fault Refusal :=
  lanewise (.cgei d a imm) s (fun _ => laneCgei d a imm)

end Sys2Proof.Machine
end

