-- ==== Sys2Proof/Machine/Convert.lean ====
section
/-! DEFINITION. The meanings of conversions and formats, class 0x5 (R110 to R122): one lane function of LaneConv.lean for each. -/

namespace Sys2Proof.Machine

/-- CVT (R111). -/
def execCvt (d a : Sel) (imm : BitVec 8) (s : State) : Host.Outcome State Fault Refusal :=
  lanewise (.cvt d a imm) s (fun _ => laneCvt d a imm)

/-- TAGR (R113). -/
def execTagr (d a : Sel) (imm : BitVec 8) (s : State) : Host.Outcome State Fault Refusal :=
  lanewise (.tagr d a imm) s (fun _ => laneTagr d a imm)

/-- TAGQ (R113). -/
def execTagq (d a : Sel) (s : State) : Host.Outcome State Fault Refusal :=
  lanewise (.tagq d a) s (fun _ => laneTagq d a)

/-- PACK (R114). -/
def execPack (d a b : Sel) (s : State) : Host.Outcome State Fault Refusal :=
  lanewise (.pack d a b) s (fun _ => lanePack d a b)

/-- UNPKL (R115). -/
def execUnpkl (d a : Sel) (imm : BitVec 8) (s : State) : Host.Outcome State Fault Refusal :=
  lanewise (.unpkl d a imm) s (fun _ => laneUnpkl d a imm)

/-- UNPKH (R115). -/
def execUnpkh (d a : Sel) (imm : BitVec 8) (s : State) : Host.Outcome State Fault Refusal :=
  lanewise (.unpkh d a imm) s (fun _ => laneUnpkh d a imm)

/-- SCLC (R116). -/
def execSclc (d a b : Sel) (s : State) : Host.Outcome State Fault Refusal :=
  lanewise (.sclc d a b) s (fun _ => laneSclc (.sclc d a b) d a b)

/-- QNT (R117). -/
def execQnt (d a b : Sel) (s : State) : Host.Outcome State Fault Refusal :=
  lanewise (.qnt d a b) s (fun _ => laneQnt d a b)

/-- DQNT (R118). -/
def execDqnt (d a b : Sel) (s : State) : Host.Outcome State Fault Refusal :=
  lanewise (.dqnt d a b) s (fun _ => laneDqnt d a b)

/-- HADM (R119). -/
def execHadm (d a : Sel) (imm : BitVec 8) (s : State) : Host.Outcome State Fault Refusal :=
  lanewise (.hadm d a imm) s (fun ps => laneHadm d a imm ps)

/-- TRPK (R120). -/
def execTrpk (d a b : Sel) (s : State) : Host.Outcome State Fault Refusal :=
  lanewise (.trpk d a b) s (fun _ => laneTrpk d a b)

/-- TREX (R121). -/
def execTrex (d a : Sel) (imm : BitVec 8) (s : State) : Host.Outcome State Fault Refusal :=
  lanewise (.trex d a imm) s (fun _ => laneTrex d a imm)

/-- LUTX (R122). -/
def execLutx (d a b : Sel) (s : State) : Host.Outcome State Fault Refusal :=
  lanewise (.lutx d a b) s (fun _ => laneLutx d a b)

end Sys2Proof.Machine
end

