-- ==== Sys2Proof/Machine/CrossLane.lean ====
section
/-! DEFINITION. The meanings of cross-lane instructions, class 0x6 (R123 to R127): one lane function of LaneConv.lean for each. -/

namespace Sys2Proof.Machine

/-- SHFL (R124). -/
def execShfl (d a b : Sel) (s : State) : Host.Outcome State Fault Refusal :=
  lanewise (.shfl d a b) s (fun ps => laneShfl d a b ps)

/-- SHFLX (R125). -/
def execShflx (d a : Sel) (imm : BitVec 8) (s : State) : Host.Outcome State Fault Refusal :=
  lanewise (.shflx d a imm) s (fun ps => laneShflx d a imm ps)

/-- SHFLU (R125). -/
def execShflu (d a : Sel) (imm : BitVec 8) (s : State) : Host.Outcome State Fault Refusal :=
  lanewise (.shflu d a imm) s (fun ps => laneShflu d a imm ps)

/-- SHFLD (R125). -/
def execShfld (d a : Sel) (imm : BitVec 8) (s : State) : Host.Outcome State Fault Refusal :=
  lanewise (.shfld d a imm) s (fun ps => laneShfld d a imm ps)

/-- BCST (R125). -/
def execBcst (d a : Sel) (imm : BitVec 8) (s : State) : Host.Outcome State Fault Refusal :=
  lanewise (.bcst d a imm) s (fun ps => laneBcst d a imm ps)

/-- VALL (R124). -/
def execVall (d a : Sel) (s : State) : Host.Outcome State Fault Refusal :=
  lanewise (.vall d a) s (fun ps => laneVall d a ps)

/-- VANY (R124). -/
def execVany (d a : Sel) (s : State) : Host.Outcome State Fault Refusal :=
  lanewise (.vany d a) s (fun ps => laneVany d a ps)

/-- BALLOT (R127). -/
def execBallot (d a : Sel) (s : State) : Host.Outcome State Fault Refusal :=
  lanewise (.ballot d a) s (fun ps => laneBallot d a ps)

/-- RDADD (R126). -/
def execRdadd (d a : Sel) (s : State) : Host.Outcome State Fault Refusal :=
  lanewise (.rdadd d a) s (fun ps => laneRdadd d a ps)

/-- RDMAX (R124). -/
def execRdmax (d a : Sel) (s : State) : Host.Outcome State Fault Refusal :=
  lanewise (.rdmax d a) s (fun ps => laneRdmax d a ps)

/-- RDMIN (R124). -/
def execRdmin (d a : Sel) (s : State) : Host.Outcome State Fault Refusal :=
  lanewise (.rdmin d a) s (fun ps => laneRdmin d a ps)

/-- SCAN (R126). -/
def execScan (d a : Sel) (s : State) : Host.Outcome State Fault Refusal :=
  lanewise (.scan d a) s (fun ps => laneScan d a ps)

/-- CMPCT (R127). -/
def execCmpct (d a b : Sel) (s : State) : Host.Outcome State Fault Refusal :=
  lanewise (.cmpct d a b) s (fun ps => laneCmpct d a b ps)

/-- RANK (R127). -/
def execRank (d a : Sel) (s : State) : Host.Outcome State Fault Refusal :=
  lanewise (.rank d a) s (fun ps => laneRank d a ps)

/-- MATCH (R127). -/
def execMatchAny (d a : Sel) (s : State) : Host.Outcome State Fault Refusal :=
  lanewise (.matchAny d a) s (fun ps => laneMatchAny d a ps)

end Sys2Proof.Machine
end

