-- ==== Sys2Proof/Machine/Dies.lean ====
section
/-! DEFINITION. Compute dies leaving and returning (R243, R363 to R370), temperatures (R29, R379). -/

namespace Sys2Proof.Machine

/-- State of a die. -/
def State.dieSt (s : State) (die : Nat) : DieSt := nth s.dev.dies die .offline

/-- Set it. -/
def State.setDie (s : State) (die : Nat) (st : DieSt) : State :=
  { s with dev := { s.dev with dies := s.dev.dies.mapIdx (fun i x => if i = die then st else x) } }

/-- Code of a query (R243). -/
def DieSt.code : DieSt → Nat
  | .online => 0
  | .goingOffline => 1
  | .offline => 2
  | .comingOnline => 3

/-- Dies that are online. -/
def State.onlineDies (s : State) : List Nat := (List.range 8).filter s.online

/-- Steps 1 and 2 of R364 begin: the teams dispatched on the die are asked for. -/
def State.startOffline (s : State) (die : Nat) : State :=
  let s := s.setDie die .goingOffline
  ((s.teams.filter (fun t => decide (t.die = die) && decide (t.phase = .running))).map Team.key).foldl State.ask s

/-- The system word of DIEOP and its effect (R243). -/
def State.dieop (s : State) (a : Word) : State × Word :=
  let n := a.toNat % 8
  let op := a.toNat / 16 % 4
  if a.toNat / 64 ≠ 0 ∨ a.getLsbD 3 ∨ op = 3 then (s, sysWord 1 0xFF)
  else if op = 0 then (s, sysWord 0 (s.dieSt n).code)
  else if op = 1 then
    if s.dieSt n = .online ∧ (s.onlineDies.any (fun d => decide (d ≠ n))) then (s.startOffline n, sysWord 0) else (s, sysWord 0xB)
  else if s.dieSt n = .offline then (s.setDie n .comingOnline, sysWord 0) else (s, sysWord 0xB)

/-- DIEOP (R243). -/
def execDieop (d a : Sel) (s : State) : Host.Outcome State Fault Refusal :=
  issueChecked (.dieop d a) s (fun v => tagsOk v (v.slots (some a)) (addrTag (v.tag a))) noUniform
    (fun g ts s => eachLane g.key (fun g t s =>
      let (s, w) := s.dieop (View.val ⟨g, t⟩ a)
      (s.modThread g.key t.tid (fun t => (t.sysRes d w).advance), [])) (ts.map Thread.tid) s)

/-! Tile evacuation (R365). -/

/-- First byte of a vault in tile memory. -/
def vaultByte (die vault : Nat) : Nat := (die * 16 + vault) * 2 ^ 26

/-- Does a vault, by the addresses that name it, hold part of a live allocation? -/
def State.vaultLive (s : State) (die vault : Nat) : Bool := s.teams.any (fun t => t.inVault die vault 0 (2 ^ 24))

/-- Words of a vault, as addresses name it, that stand in one place. -/
structure VaultSpan where
  die : Nat
  vault : Nat
  lo : Nat
  hi : Nat
  deriving DecidableEq, Repr

/-- Does a team's allocation hold a word of a span? -/
def VaultSpan.used (v : VaultSpan) (t : Team) : Bool := t.inVault v.die v.vault v.lo v.hi

/-- What stands in a vault of a die: of each vault evacuated to it the blocks moved so far, of one that is leaving it those
that are not, or else its own words (R286, R365). -/
def State.vaultHolds (s : State) (die vault : Nat) : List VaultSpan :=
  let came := (s.mem.vaults.filter (fun v => decide (v.toDie = die) && decide (v.toVault = vault))).map (fun v => (⟨v.die, v.vault, 0, 32 * v.moved⟩ : VaultSpan))
  let left := (s.mem.vaults.filter (fun v => v.going && decide (v.fromDie = die) && decide (v.fromVault = vault))).map
    (fun v => (⟨v.die, v.vault, 32 * v.moved, 2 ^ 24⟩ : VaultSpan))
  let own := if came.isEmpty && !s.mem.vaults.any (fun v => decide (v.die = die) && decide (v.vault = vault)) then [(⟨die, vault, 0, 2 ^ 24⟩ : VaultSpan)] else []
  came ++ left ++ own

/-- Is a vault of a die free: does it hold no live vault, and is none on its way there or from there? -/
def State.vaultFree (s : State) (die vault : Nat) : Bool := (s.vaultHolds die vault).all (fun v => !s.vaultLive v.die v.vault)

/-- Where a vault of a leaving die goes: a free tile vault of another online die, else the lowest Polder
vault of one (R365). The flag says that a Polder vault is taken. -/
def State.vaultDest (s : State) (die : Nat) : Option (Nat × Nat × Bool) :=
  let others := s.onlineDies.filter (fun d => decide (d ≠ die))
  match others.findSome? (fun d => ((List.range (s.tileVaults d)).find? (s.vaultFree d)).map (fun v => (d, v, false))) with
  | some x => some x
  | none => others.findSome? (fun d => if 0 < nth s.dev.vaultSplit d 0 then some (d, s.tileVaults d, true) else none)

/-- Copy the bytes of a block. -/
def moveBlock (m : Memory) (src dst : Nat) : Memory :=
  (List.range 128).foldl (fun m i => (Memory.write m (dst + i) (m.read (src + i))).write (src + i) Memory.empty) m

/-- The evacuation of a vault of a die begins: every block of it waits (R286, R365). `none` when there is nowhere to go. -/
def State.evacuate (s : State) (die vault : Nat) (x : VaultSpan) : Option State :=
  match s.vaultDest die with
  | none => none
  | some (d, v, polder) =>
    some { s with
      mem := { s.mem with
        vaults := ⟨x.die, x.vault, die, vault, d, v, 0⟩ :: s.mem.vaults.filter (fun y => !(decide (y.die = x.die) && decide (y.vault = x.vault)))
        polder := if polder then s.mem.polder.filter (fun p => !(decide (p.die = d) && decide (p.vault = v))) else s.mem.polder }
      dev := { s.dev with vaultSplit := if polder then s.dev.vaultSplit.mapIdx (fun i x => if i = d then x - 1 else x) else s.dev.vaultSplit } }

/-- The next block of a vault is copied, and is moved (R286). -/
def State.moveNext (s : State) (v : VaultMove) : State :=
  { s with mem := { s.mem with
      tile := moveBlock s.mem.tile (vaultByte v.fromDie v.fromVault + 128 * v.moved) (vaultByte v.toDie v.toVault + 128 * v.moved)
      vaults := s.mem.vaults.map (fun y => if y = v then { y with moved := y.moved + 1 } else y) } }

/-! Teams that are abandoned or dropped (R366, R367). -/

/-- Has a team that has not retired a thread on a die, or part of its tile allocation there (R367)? -/
def State.onDie (s : State) (die : Nat) (t : Team) : Bool :=
  decide (t.phase ≠ .retired) &&
  ((decide (t.die = die) && (decide (t.phase = .running) || decide (t.phase = .staging))) ||
   (List.range 16).any (fun v => (s.vaultHolds die v).any (VaultSpan.used · t)))

/-- The words of a team's allocation that stand in a die's vaults. -/
def State.lostOn (s : State) (die : Nat) (t : Team) : List LostTile :=
  (List.range 16).flatMap (fun v => (s.vaultHolds die v).filterMap (fun x =>
    let lo := Nat.max t.tileBase ((x.die * 16 + x.vault) * 2 ^ 24 + x.lo)
    let hi := Nat.min (t.tileBase + t.tileWords) ((x.die * 16 + x.vault) * 2 ^ 24 + x.hi)
    if lo < hi then some ⟨t.key.ctx, die, lo, hi - lo⟩ else none))

/-- The record of a team that a failed die takes with it (R362 type 7). -/
def State.dieRecord (s : State) (die : Nat) (t : Team) : State :=
  let vtag := match s.teamRec t with | some r => r.vtag | none => 0
  s.faultLog t.key.ctx { type := 7, grid := t.key.grid, vtag := vtag, tmid := t.key.tmid, place := dieOf t.core, core := t.core % 80, extra := BitVec.ofNat 64 die }

/-- A team is abandoned: no save, locks pass on with ORPHAN, DETAIL 1, a record of type 7, and its grid
completes ABORTED with the team counted as not run. Its words on the die stay known as lost (R367). -/
def State.abandon (s : State) (die : Nat) (t : Team) : State :=
  let s := s.dieRecord die t
  let s := { s with mem := { s.mem with tileLost := s.lostOn die t ++ s.mem.tileLost } }
  ((s.stopTeam t.key 5 1).modGrid t.key.ctx t.key.grid (fun g => { g with notRun := g.notRun + 1, endCode := some 0x13 })).gridSettle t.key.ctx t.key.grid

/-- A team that has retired on a failed die: what it still had in flight is lost with the die, and a record says so
(R359, log entry 96). -/
def State.loseRetired (s : State) (die : Nat) (t : Team) : State :=
  if s.pends.any (fun p => decide (p.key.team = some t.key)) then
    State.teamFree { s.dieRecord die t with pends := s.pends.filter (fun p => decide (p.key.team ≠ some t.key)) } t.key
  else s

/-- The teams of a grid that have not retired are dropped; what its retired teams have in flight goes on (R366). -/
def State.dropTeams (s : State) (g : Grid) : State :=
  ((s.gridTeams g.ctx g.handle.toNat).foldl (fun s t => s.stopTeam t 5 1) s).modGrid g.ctx g.handle.toNat Grid.dropRest

/-- Grids that can never be placed any more are ended with ABORTED (R366); while no die is online teams wait
(R369). -/
def State.dropNoFit (s : State) : State :=
  if s.noDie then s
  else (s.grids.filter (fun g => g.done.isNone && s.hasWork g && s.noFit g.rcd)).foldl (fun s g =>
    (s.dropTeams g).modGrid g.ctx g.handle.toNat (fun g => { g with endCode := some 0x13 })) s

/-- A vault of a die that holds a live allocation: the vault and what stands there. -/
def State.vaultLeft (s : State) (die : Nat) : Option (Nat × VaultSpan) :=
  (List.range 16).findSome? (fun v => ((s.vaultHolds die v).find? (fun x => s.vaultLive x.die x.vault)).map (fun x => (v, x)))

/-- Step 3 of R364 goes on by one move: the next block of a vault that is being copied, or the beginning of the next vault,
the teams of one that finds no place abandoned. `none` when the die holds no live allocation any more. -/
def State.evacStep (s : State) (die : Nat) : Option State :=
  match s.mem.vaults.find? (fun v => v.going && decide (v.fromDie = die)) with
  | some v => some (s.moveNext v)
  | none =>
    match s.vaultLeft die with
    | none => none
    | some (v, x) =>
      match s.evacuate die v x with
      | some s => some s
      | none => some ((s.teams.filter x.used).foldl (State.abandon · die ·) s)

/-- Evacuations when a die has failed: what had not left it is lost, and what had been moved to it is; the other blocks stay
where they stand (R367). -/
def State.evacStop (s : State) (die : Nat) : State :=
  { s with mem := { s.mem with vaults := s.mem.vaults.filterMap (fun v =>
      if v.going ∧ v.fromDie = die then some { v with moved := vaultBlocks }
      else if v.going ∧ v.toDie = die then
        (if v.fromDie = v.die ∧ v.fromVault = v.vault then none else some { v with toDie := v.fromDie, toVault := v.fromVault, moved := vaultBlocks })
      else some v) } }

/-- An agent is declared dead: its incarnation rises (R352). -/
def State.raiseDie (s : State) (die : Nat) : State :=
  { s with dev := { s.dev with dieInc := s.dev.dieInc.mapIdx (fun i x => if i = die then x + 1 else x) } }

/-- What every die transition that ends in offline leaves: no translations, no code, no L1 tags, no Polder entries, no
mesh hop. -/
def State.dieOut (s : State) (die : Nat) : State :=
  { s with
    mem := { s.mem with
      tlb := s.mem.tlb.filter (fun t => decide (tlbDie t.unit ≠ die))
      walks := s.mem.walks.filter (fun w => decide (w.unit ≠ die))
      icache := s.mem.icache.filter (fun l => decide (dieOf l.core ≠ die))
      polder := s.mem.polder.filter (fun p => decide (p.die ≠ die)) }
    coh := { s.coh with l1 := s.coh.l1.filter (fun t => decide (dieOf t.unit ≠ die)) }
    dev := { s.dev with hops := s.dev.hops.mapIdx (fun i x => if i = die then [] else x) } }

/-- An event of a die transition, with the incarnation in force after it (R369). -/
def State.postDie (s : State) (type die : Nat) : State := s.post ⟨type, die, s.incOf die, Config.eventDetail type⟩

/-- NO_COMPUTE when no compute die is online (R369). -/
def State.noCompute (s : State) (die : Nat) : State := if s.onlineDies.isEmpty then s.postDie 5 die else s

/-- Is the die free of protocol traffic: no request of its own, no message to it or from it? -/
def State.dieQuiet (s : State) (die : Nat) : Bool :=
  !s.coh.miss.any (fun m => decide (m.die = die)) &&
  !s.coh.msgs.any (fun m => decide (m.die = die) || decide (m.from_ = die) || decide (m.req = die)) &&
  !s.coh.dir.any (fun d => d.busy.isSome && s.coh.copies.any (fun x => decide (x.die = die) && decide (x.line = d.line)))

/-- The end of a die's way offline: its caches are written back, and it is declared dead (R364 steps 4 to 6). -/
def State.offline (s : State) (die : Nat) : State :=
  let s := (List.range 80).foldl (fun s c => s.outwardAcquire (80 * die + c)) s
  let s := (s.dieGone die false).dieOut die
  let s := (s.raiseDie die).setDie die .offline
  (s.postDie 1 die).dropNoFit

/-- DIE_OFFLINE_DONE (R364 steps 3 to 6): once no team is on the die, its tile space is evacuated, a 128-byte block in each
step, and then it goes offline. -/
def execDieOfflineDone (die : Nat) (s : State) : Host.Outcome State Fault Refusal :=
  if s.dieSt die ≠ .goingOffline ∨ s.teams.any (fun t => decide (t.die = die) && t.resident) ∨ !s.dieQuiet die then .next s
  else
    match s.evacStep die with
    | some s => .next s
    | none => .next (s.offline die)

/-- Bytes of a die's vaults are gone. -/
def State.emptyVaults (s : State) (die : Nat) : State :=
  { s with mem := { s.mem with
      tile := s.mem.tile.filter (fun c => !(decide (vaultByte die 0 ≤ c.1) && decide (c.1 < vaultByte die 16)))
      tileLost := s.mem.tileLost.filter (fun l => decide (l.die ≠ die)) } }

/-- A die joins the mesh: its hop agrees on what both ends offer (R368, R373). -/
def State.joinHop (s : State) (hop : Nat) : State :=
  { s with dev := { s.dev with hops := s.dev.hops.mapIdx (fun i x => if i = hop then agreed hopOffer hopOffer else x) } }

/-- DIE_ONLINE_DONE (R368): the self-test ends. A grid that waited for a die and can never fit is ended then (R366). -/
def execDieOnlineDone (die : Nat) (ok : Bool) (s : State) : Host.Outcome State Fault Refusal :=
  if s.dieSt die ≠ .comingOnline then .next s
  else if ok then
    let s := ((s.emptyVaults die).joinHop die).setDie die .online
    .next (s.postDie 2 die).dropNoFit
  else .next (((s.setDie die .offline).postDie 3 die).noCompute die)

/-- The SELF lines that the L1s of a die's cores hold. -/
def State.selfOf (s : State) (die : Nat) : List SelfLine := s.coh.self.filter (fun x => decide (x.core / 80 = die) && decide (x.core < 640))

/-- The sectors of the words that SELF lines hold dirty. -/
def dirtySectors (l : List SelfLine) : List Nat :=
  (l.flatMap (fun x => ((List.range 32).filter (fun i => x.dirty.getLsbD i)).map (fun i => x.line / 32 + i / 8))).eraseDups

/-- An engine command in flight notes what a die that fails held as the newest data (R367). -/
def State.noteLost (s : State) (die : Nat) : State :=
  let lost := dirtySectors (s.selfOf die) ++ (s.dirtyOf die).flatMap (fun u => runSectors u (unitWords u))
  { s with pends := s.pends.map (fun p => match p.kind with | .engine _ _ _ => { p with lost := p.lost ++ lost } | _ => p) }

/-- SELF words that a dead die's cores had written are lost: their sectors are poisoned. -/
def State.selfLost (s : State) (die : Nat) : State :=
  let mine := s.selfOf die
  let s := s.setPoison (dirtySectors mine)
  { s with coh := { s.coh with self := s.coh.self.filter (fun x => !decide (x ∈ mine)) } }

/-- A die fails (R367, R352). -/
def State.failDie (s : State) (die : Nat) : State :=
  let s := (s.raiseDie die).setDie die .offline
  let gone := s.teams.filter (s.onDie die)
  let ended := s.teams.filter (fun t => decide (t.phase = .retired) && decide (t.die = die))
  let s := (((s.noteLost die).selfLost die).dieGone die true).dieOut die
  let s := ended.foldl (State.loseRetired · die ·) s
  let s := (gone.foldl (State.abandon · die ·) s).evacStop die
  ((s.post ⟨4, die, s.incOf die, BitVec.ofNat 32 gone.length⟩).noCompute die).dropNoFit

/-- DIE_FAILURE (R367). -/
def execDieFailure (die : Nat) (s : State) : Host.Outcome State Fault Refusal :=
  if die < 8 ∧ s.dieSt die ≠ .offline then .next (s.failDie die) else .next s

/-! Temperatures. -/

/-- HEATMAP_REFRESH (R29): the eight zone bytes of a die. -/
def execHeatmapRefresh (die : Nat) (zones : BitVec 64) (s : State) : Host.Outcome State Fault Refusal :=
  .next { s with dev := { s.dev with heatmap := s.dev.heatmap.mapIdx (fun i x => if i = die then zones else x) } }

/-- THERMAL_THROTTLE (R379): the clock steps down, which changes only time. -/
def execThermalThrottle (s : State) : Host.Outcome State Fault Refusal := .next { s with dev := { s.dev with throttled := true } }

/-- A device-fatal error stops the part (R370, R379). -/
def State.fatalStop (s : State) (unit : BitVec 8) : State := { s with dev := { s.dev with fatal := true, failUnit := unit } }

/-- CRITICAL_TEMPERATURE (R379). -/
def execCriticalTemperature (s : State) : Host.Outcome State Fault Refusal := .next (s.fatalStop 0xFE)

end Sys2Proof.Machine
end

