-- ==== Sys2Proof/Machine/Peers.lean ====
section
/-! DEFINITION. The part among its peers and its links: accesses and notices that come from peers (R299 to
R302, R348), refusals and silence (R349, R352), links going down, training and breaking the protocol (R346,
R351, R373). -/

namespace Sys2Proof.Machine

/-! Accesses of peers. -/

/-- May a peer's access to a device word be served now: the part is ready, the peer is in the domain map,
the word is one of the device, and its line is free? -/
def State.remoteOk (s : State) (src pa : Nat) : Bool :=
  s.dev.ready && s.peerKnown src && decide (pa % 4 = 0) && decide (pa + 4 ≤ 2 ^ 39) && !s.lineHeld pa

/-- Is a tag open here for a source context (R299)? -/
def State.tagOpen (s : State) (src ctx : Nat) (v : Tag16) : Bool := decide ((⟨src, ctx, v⟩ : OpenTag) ∈ s.peer.opened)

/-- The features of the link that a peer's request has come over: the first port that reaches it. -/
def State.linkOf (s : State) (src : Nat) : List Feature := match s.peerPorts src false with | p :: _ => p.feats | [] => []

/-- What a peer is answered with: a word and its poison mark (R357). -/
def State.answerPeer (s : State) (w : Word) (poison : Bool) : State := { s with peer := { s.peer with reply := [w], replyPoison := poison } }

/-- A peer's load, resolved along the path it carries (R296, R299). -/
def State.remoteLoad (s : State) (src ctx : Nat) (path : List Tag16) (addr : Nat) : State :=
  if !s.remoteOk src addr then s
  else
    let pa := s.fwd addr
    let s := s.recall (lineOf pa)
    s.answerPeer (s.viewRead (some src) ctx path pa) (s.viewPoison (some src) ctx path pa)

/-- REMOTE_LOAD (R296, R299, R352). -/
def execRemoteLoad (src : Sender) (ctx : Nat) (path : List Tag16) (addr : Nat) (s : State) : Host.Outcome State Fault Refusal :=
  .next (s.fromPeer src (s.remoteLoad src.agent ctx path addr))

/-- A write of a peer's version that is not open is dropped with a report (R302 step 7). -/
def State.reportDrop (s : State) (src ctx : Nat) : State := { s with peer := { s.peer with reports := s.peer.reports ++ [(src, ctx)] } }

/-- A peer's store (R299, R302): performed at the home slice for version 0, put in a line copy of the spill
pool when its tag is open, waiting while the pool is full, and dropped when its tag is not open. -/
def State.remoteStore (s : State) (src ctx : Nat) (path : List Tag16) (addr : Nat) (x : Word) : State :=
  if !s.remoteOk src addr then s
  else
    let pa := s.fwd addr
    match path with
    | [] => s.homeWrite pa x
    | v :: _ =>
      if !s.tagOpen src ctx v then s.reportDrop src ctx
      else
        match s.reserve (some src) ctx v (lineOf pa) with
        | none => s
        | some s => s.copyWrite (some src) ctx v pa x

/-- REMOTE_STORE (R299, R302, R352). -/
def execRemoteStore (src : Sender) (ctx : Nat) (path : List Tag16) (addr : Nat) (x : Word) (s : State) : Host.Outcome State Fault Refusal :=
  .next (s.fromPeer src (s.remoteStore src.agent ctx path addr x))

/-- A peer's atomic (R247, R296, R348) takes place at the home slice, in the view of its
version. Poisoned data leave memory unchanged (R357). The operand of a reduction has come over a link (R57). -/
def State.remoteAtomic (s : State) (src ctx : Nat) (path : List Tag16) (addr : Nat) (op : AOp) (tag : Tag) (x : Word) : State :=
  if !s.remoteOk src addr || !aopTag op tag then s
  else
    let pa := s.fwd addr
    let s := s.recall (lineOf pa)
    let m := s.viewRead (some src) ctx path pa
    let x := if reduces op tag then overLink (s.linkOf src) x else x
    if s.viewPoison (some src) ctx path pa then s.answerPeer m true
    else
      match path with
      | [] => (s.homeWrite pa (aopApply op tag m x)).answerPeer m false
      | v :: _ =>
        if !s.tagOpen src ctx v then s.reportDrop src ctx
        else
          match s.reserve (some src) ctx v (lineOf pa) with
          | none => s
          | some s => (s.copyWrite (some src) ctx v pa (aopApply op tag m x)).answerPeer m false

/-- REMOTE_ATOMIC (R247, R296, R348, R352). -/
def execRemoteAtomic (src : Sender) (ctx : Nat) (path : List Tag16) (addr : Nat) (op : AOp) (tag : Tag) (x : Word) (s : State) :
    Host.Outcome State Fault Refusal :=
  .next (s.fromPeer src (s.remoteAtomic src.agent ctx path addr op tag x))

/-! Notices (R299, R300, R302). -/

/-- A tag is closed here. -/
def State.closeTag (s : State) (src ctx : Nat) (v : Tag16) : State :=
  { s with peer := { s.peer with opened := s.peer.opened.filter (fun o => decide (o ≠ ⟨src, ctx, v⟩)) } }

/-- A notice is acknowledged. -/
def State.ackPeer (s : State) (src ctx : Nat) (v : Tag16) : State := { s with peer := { s.peer with acks := s.peer.acks ++ [(src, ctx, v)] } }

/-- OPEN_NOTICE (R299): the table maps the tag's number to its generation, and the notice is
acknowledged. -/
def execOpenNotice (src : Sender) (ctx : Nat) (v : Tag16) (s : State) : Host.Outcome State Fault Refusal :=
  let n := src.agent
  let others := s.peer.opened.filter (fun o => !(decide (o.src = n) && decide (o.ctx = ctx) && o.tag.extractLsb' 0 8 == v.extractLsb' 0 8))
  .next (s.fromPeer src (State.ackPeer { s with peer := { s.peer with opened := ⟨n, ctx, v⟩ :: others } } n ctx v))

/-- OPEN_NOTICE_ACK (R299): the version may send its stores. An acknowledgement that nothing awaits answers a notice
from before the port trained again: it is dropped and counted too (R352). -/
def execOpenNoticeAck (peer : Sender) (ctx : Nat) (v : Tag16) (s : State) : Host.Outcome State Fault Refusal :=
  let x := (peer.agent, ctx, v)
  if x ∈ s.peer.openSent then
    .next <| s.fromPeer peer { s with peer := { s.peer with openSent := s.peer.openSent.filter (fun y => decide (y ≠ x)), openAcked := x :: s.peer.openAcked } }
  else .next s.countDead

/-- COMMIT_NOTICE (R300): a peer's version is committed: its copies here become committed words, its tag is
closed, and the notice is acknowledged. -/
def execCommitNotice (src : Sender) (ctx : Nat) (v : Tag16) (s : State) : Host.Outcome State Fault Refusal :=
  .next (s.fromPeer src (((s.mergeCopies (some src.agent) ctx v).closeTag src.agent ctx v).ackPeer src.agent ctx v))

/-- An RSLV whose commit every peer has acknowledged writes its d, and its thread goes on (R300 step 4). -/
def State.rslvDone (s : State) (ctx : Nat) (v : Tag16) : State :=
  if s.commitAwaits ctx v then s
  else
    let mine := fun (p : Pend) => match p.kind with
      | .engine (.rslv _ _ _) vals _ => decide (p.ctx = ctx) && decide ((nth vals 0 0).setWidth 16 = v)
      | _ => false
    (s.pends.filter mine).foldl (fun s p =>
      match p.kind with
      | .engine _ vals _ =>
        (State.deliver { s with pends := s.pends.filter (fun q => decide (q.id ≠ p.id)) } p [(nth vals 1 0).setWidth 32]).modThread p.key p.tid
          (fun t => if t.block = some .rslv then { t.advance with block := none } else t)
      | _ => s) s

/-- One acknowledgement of a commit is in, or counts as given; the last one ends the commit (R261, R300). -/
def State.commitAck (s : State) (x : Nat × Nat × Tag16) : State :=
  let s := { s with peer := { s.peer with commitSent := s.peer.commitSent.filter (fun y => decide (y ≠ x)) } }
  let s := s.modVers x.2.1 (fun w => decide (w = x.2.2)) (fun w => { w with awaiting := w.awaiting.filter (fun n => decide (n ≠ x.1)) })
  (if s.commitAwaits x.2.1 x.2.2 || !s.commitMerging x.2.1 x.2.2 then s else s.commitEnd x.2.1 x.2.2).rslvDone x.2.1 x.2.2

/-- COMMIT_NOTICE_ACK (R300). -/
def execCommitNoticeAck (peer : Sender) (ctx : Nat) (v : Tag16) (s : State) : Host.Outcome State Fault Refusal :=
  if (peer.agent, ctx, v) ∈ s.peer.commitSent then .next (s.fromPeer peer (s.commitAck (peer.agent, ctx, v))) else .next s.countDead

/-- SQUASH_NOTICE (R302): a peer's version is squashed: its tag is closed and its copies here are dead. -/
def execSquashNotice (src : Sender) (ctx : Nat) (v : Tag16) (s : State) : Host.Outcome State Fault Refusal :=
  .next (s.fromPeer src ((s.closeTag src.agent ctx v).dropCopies (fun c => decide (c.src = some src.agent) && decide (c.ctx = ctx) && c.tag == v)))

/-- The first store of a squashed version of a context that is on its way to a peer. -/
def State.lateStore? (s : State) (r : DropReport) : Option (Nat × Nat × Tag16) :=
  s.peer.lateStores.find? (fun x => decide (x.1 = r.peer.agent) && decide (x.2.1 = r.ctx))

/-- DROP_REPORT (R302 step 7): a store of a squashed version that was on its way to the peer was dropped there: VERS.DROPS
of the issuing context rises, saturating. -/
def execDropReport (r : DropReport) (s : State) : Host.Outcome State Fault Refusal :=
  match s.lateStore? r with
  | none => .next (s.fromPeer r.peer s)
  | some x =>
    .next (s.fromPeer r.peer (State.modCtx { s with peer := { s.peer with lateStores := s.peer.lateStores.erase x } } r.ctx
      (fun c => { c with drops := if c.drops = 0xFFFF then c.drops else c.drops + 1 })))

/-! Refusal and silence (R349). -/

/-- The peer whose memory an address of a group maps to, if one does. -/
def State.peerAt (s : State) (g : Group) (va : Nat) : Option Nat :=
  match (s.translate g.tlbUnit g.ctx .nothing va).2 with
  | .ok _ pa => if isPeer pa then some (peerOf pa) else none
  | _ => none

/-- The peers that a run of bytes touches. -/
def State.peersOfRun (s : State) (g : Group) (va bytes : Nat) : List Nat :=
  (s.peerAt g va).toList ++ (if va / 4096 = (va + bytes - 1) / 4096 then [] else (s.peerAt g (va + bytes - 1)).toList)

/-- The peers that the block of a KV command touches: its table entry, and, once that can be read, the rows and the
header. -/
def State.kvPeers (s : State) (p : Pend) (h : Layout) (i : Nat) : List Nat :=
  s.peersOfRun p.group ((h.base + 4 * i) % 2 ^ 64) 4 ++
    (match s.kvBlock p.group p h i with
     | .ok _ blk => s.peersOfRun p.group (h.rows blk) 4096 ++ s.peersOfRun p.group (h.hdr blk) 64
     | _ => [])

/-- The peers whose memory an engine command touches, by the addresses it names (R349); one that has begun touches none
(R168). -/
def State.enginePeers (s : State) (p : Pend) : List Nat :=
  if p.prog.isSome then []
  else
  match p.kind with
  | .engine (.cpy _ _ _) vals _ =>
    let d := (nth vals 0 0).toNat
    let n := 4 * 2 ^ (d % 4)
    (if d / 4 % 4 = 2 then s.peersOfRun p.group (nth vals 1 0).toNat n else []) ++ (if d / 16 % 4 = 2 then s.peersOfRun p.group (nth vals 2 0).toNat n else [])
  | .engine (.bcpy _ _ _) vals h | .engine (.kvapp _ _ _) vals h => s.kvPeers p h (nth vals 0 0).toNat
  | .engine (.tcpy _ _ _) vals h =>
    (List.range h.trows).flatMap (fun j => s.peersOfRun p.group (h.base + ((nth vals 1 0).toNat + j) * h.stride) h.rowbytes)
  | _ => []

/-- Is an operation one that goes to a peer? -/
def State.toPeer (s : State) (n : Nat) (p : Pend) : Bool := decide (p.peer = some n) || decide (n ∈ s.enginePeers p)

/-- An outstanding operation that goes to a peer fails (R349). -/
def State.peerFail (s : State) (n : Nat) (p : Pend) : State :=
  match p.kind with
  | .engine _ _ _ => s.engDone p (stat 0x28)
  | _ => (State.failPeer { s with pends := s.pends.filter (fun q => decide (q.id ≠ p.id)) } p n).retireFences.reap

/-- PEER_REFUSE (R349): a peer refuses an access. -/
def execPeerRefuse (id : Nat) (s : State) : Host.Outcome State Fault Refusal :=
  match s.pends.find? (fun p => decide (p.id = id)) with
  | none => .next (s.lateAnswer id)
  | some p =>
    match p.peer.orElse (fun _ => (s.enginePeers p).head?) with
    | some n => .next (s.peerFail n p)
    | none => .next s

/-- Every commit notice to a peer counts as acknowledged. -/
def State.ackAll (s : State) (n : Nat) : State := (s.peer.commitSent.filter (fun x => decide (x.1 = n))).foldl State.commitAck s

/-- A peer is declared dead (R349, R352): its incarnation rises, operations that go to it fail, and it
holds no open tag of this part. Commits go on as if it had acknowledged. A port that lists several peers shows the
incarnation of the first (R378, log entry 129). -/
def State.peerDead (s : State) (n : Nat) : State :=
  let gone := s.pends.filter (s.toPeer n)
  let s := gone.foldl (fun s p => s.peerFail n p) s
  let s := { s with
    dev := { s.dev with ports := s.dev.ports.map (fun (p : Port) => if p.peers.head? = some n then { p with inc := p.inc + 1 } else p) }
    peer := { s.peer with
      inc := Store.set 0 s.peer.inc n (Store.get 0 s.peer.inc n + 1)
      late := s.peer.late ++ gone.map Pend.id
      openSent := s.peer.openSent.filter (fun x => decide (x.1 ≠ n))
      openAcked := s.peer.openAcked.filter (fun x => decide (x.1 ≠ n))
      lateStores := s.peer.lateStores.filter (fun x => decide (x.1 ≠ n)) } }
  State.ackAll s n

/-- PEER_TIMEOUT (R349): a peer that has not answered an access in time is declared dead. -/
def execPeerTimeout (peer : Nat) (s : State) : Host.Outcome State Fault Refusal :=
  if s.pends.any (s.toPeer peer) then .next (s.peerDead peer) else .next s

/-! Links. -/

/-- Port `n`. -/
def State.port (s : State) (n : Nat) : Port := nth s.dev.ports n Port.down

/-- Set a port. -/
def State.setPort (s : State) (n : Nat) (p : Port) : State :=
  { s with dev := { s.dev with ports := s.dev.ports.mapIdx (fun i x => if i = n then p else x) } }

/-- Is a word one that a host port carries (R280)? -/
def State.onPort (s : State) (port pa : Nat) : Bool := decide (hostBit ≤ pa) && decide (s.hostPort (pa % 2 ^ 51) = some port)

/-- The halves of a port whose newest data only the device has: halves, die copies and data on their way that are
dirty, and SELF words that an L1 has written. -/
def State.dirtyHalves (s : State) (port : Nat) : List Nat :=
  let mine := fun (half : Nat) => s.onPort port (64 * half)
  let self := (s.coh.self.filter (fun x => s.onPort port x.line)).flatMap (fun x =>
    (if x.dirty &&& 0x0000FFFF = 0 then [] else [x.line / 64]) ++ (if x.dirty &&& 0xFFFF0000 = 0 then [] else [x.line / 64 + 1]))
  (((s.coh.halves.filter (fun (h : Half) => mine h.half && h.st == .m)).map Half.half ++
    (s.coh.copies.filter (fun (x : DieCopy) => s.onPort port x.line && x.dirty)).map (fun (x : DieCopy) => x.line / 64) ++
    (s.coh.miss.filter (fun (m : Miss) => s.onPort port m.line && m.dirty)).map (fun (m : Miss) => m.line / 64) ++
    (s.coh.msgs.filter (fun (m : Msg) => s.onPort port m.line && m.dirty)).map (fun (m : Msg) => m.line / 64)) ++ self).eraseDups

/-- What the part holds of a port that is down: dirty halves cannot be written back and are lost; nothing of the port
is held any more, and its requests in flight end (R346, R352). -/
def State.portHalves (s : State) (port : Nat) : State :=
  let dirty := s.dirtyHalves port
  let mine := fun (pa : Nat) => s.onPort port pa
  { s with
    mem := { s.mem with lost := dirty ++ s.mem.lost.filter (fun h => !decide (h ∈ dirty)) }
    coh := { s.coh with
      halves := s.coh.halves.filter (fun h => !mine (64 * h.half))
      copies := s.coh.copies.filter (fun x => !mine x.line)
      fills := s.coh.fills.filter (fun f => !mine f.unit)
      asks := s.coh.asks.filter (fun a => !mine a.pa)
      miss := s.coh.miss.filter (fun m => !mine m.line)
      msgs := s.coh.msgs.filter (fun m => !mine m.line)
      dir := s.coh.dir.filter (fun d => !mine d.line)
      self := s.coh.self.filter (fun x => !mine x.line) } }

/-- A port goes down (R346, R352, R373, R378). A host port's incarnation rises. -/
def State.portOff (s : State) (n : Nat) : State :=
  let p := s.port n
  let inc := if n < 8 then p.inc + 1 else p.inc
  let s := s.setPort n { Port.down with inc := inc }
  let s := if n < 8 then s.portHalves n else s
  s.post ⟨9, n, inc, Config.eventDetail 9⟩

/-- A port goes down with the peers that are declared dead for it. -/
def State.portFails (s : State) (port : Nat) (dead : List Nat) : State := (dead.foldl State.peerDead s).portOff port

/-- LINK_DOWN (R346, R349): peers that no other port reaches are declared dead. -/
def execLinkDown (port : Nat) (s : State) : Host.Outcome State Fault Refusal :=
  if (s.port port).up then
    .next (s.portFails port ((s.port port).peers.filter (fun n => decide ((s.peerPorts n false).length ≤ 1))))
  else .next s

/-- A port is up with what its training agreed (R373), and shows the incarnation of the first peer that it lists (DESIGN
CHOICE, log entry 129). The open tags of peers that it reaches are gone
(R299). -/
def State.portOn (s : State) (port : Nat) (lanes : BitVec 6) (rate : BitVec 8) (offer : List Feature) (peers : List Nat) : State :=
  let peers := if port < 8 then [] else peers
  let inc := match peers.head? with | some n => Store.get 0 s.peer.inc n | none => (s.port port).inc
  let s := s.setPort port { up := true, lanes := lanes, rate := rate, feats := agreed (portOffer port) offer, inc := inc, peers := peers }
  { s with peer := { s.peer with
      openSent := s.peer.openSent.filter (fun x => !decide (x.1 ∈ peers))
      openAcked := s.peer.openAcked.filter (fun x => !decide (x.1 ∈ peers))
      opened := s.peer.opened.filter (fun o => !decide (o.src ∈ peers)) } }

/-- Lanes of a port: CXL x16, UALink x4 (R380). -/
def portWidth (port : Nat) : Nat := if port < 8 then 16 else 4

/-- LINK_TRAIN (R371, R373, R378): a port that is down trains, from step 4 of the boot on, with no more lanes than it has
(R380). -/
def execLinkTrain (port : Nat) (lanes : BitVec 6) (rate : BitVec 8) (offer : List Feature) (peers : List Nat) (s : State) :
    Host.Outcome State Fault Refusal :=
  if port < 24 ∧ lanes.toNat ≤ portWidth port ∧ !(s.port port).up ∧ (s.dev.boot = 4 ∨ s.dev.boot = 5) then
    let s := s.portOn port lanes rate offer peers
    .next (s.post ⟨10, port, (s.port port).inc, (featMask (s.port port).feats).setWidth 32⟩)
  else .next s

/-- Is a transfer no breach of the protocol: a compressed block that R58 accepts? -/
def blockSound (block : Option (List Byte)) : Bool :=
  match block with
  | some b => (expandBlock b).isSome
  | none => false

/-- LINK_PROTOCOL_ERROR (R58, R351): a transfer breaks the protocol on a link: 0 to 23 are the ports, 24 to 31 the
mesh hops of the compute dies, 32 the hop between the base dies. A block that is sound is no breach. -/
def execLinkProtocolError (e : LinkError) (s : State) : Host.Outcome State Fault Refusal :=
  let link := e.link
  if blockSound e.block then .next s
  else if link < 24 then .next (if (s.port link).up then s.portFails link (s.port link).peers else s)
  else if link < 32 then .next (if s.dieSt (link - 24) ≠ .offline then s.failDie (link - 24) else s)
  else if link = 32 then .next (s.fatalStop Config.hopUnit)
  else .next s

end Sys2Proof.Machine
end

