-- ==== Sys2Proof/Machine/Errors.lean ====
section
/-! DEFINITION. Errors that a check finds (R355 to R358): what each structure does with one that it cannot correct,
and the count of those that it corrects (R375). -/

namespace Sys2Proof.Machine

/-- A corrected error is counted, saturating (R358, R375). -/
def State.softError (s : State) : State :=
  { s with dev := { s.dev with softErrors := if s.dev.softErrors = 0xFFFFFFFF then 0xFFFFFFFF else s.dev.softErrors + 1 } }

/-- A register, or its tag, fails its parity: a register that the thread has. -/
def State.badRegister (s : State) (k : GKey) (tid sel : Nat) : State :=
  match s.group? k with
  | none => s
  | some g =>
    if sel ≤ 0xF8 ∧ allocated g.nregs sel then
      s.modThread k tid (fun t => if t.exited || decide (sel ∈ t.parity) then t else { t with parity := sel :: t.parity })
    else s

/-- 8 bytes of a team's shared memory are poisoned. -/
def State.badShared (s : State) (t : TKey) (unit : Nat) : State :=
  match s.team? t with
  | none => s
  | some x =>
    let bytes := match s.teamRec x with | some r => r.shared | none => 0
    if x.resident ∧ 8 * unit % 2 ^ 19 < bytes ∧ (unit < 2 ^ 16 ∨ (x.pair ∧ unit < 2 ^ 17)) ∧ unit ∉ x.poison then
      s.modTeam t (fun x => { x with poison := unit :: x.poison })
    else s

/-- An accumulator element becomes the canonical NaN. -/
def State.badAccumulator (s : State) (core index : Nat) : State :=
  let a := s.arr core
  s.setArr { a with acc := Store.set 0 a.acc index nan32 }

/-- A plane with one of its 256 columns poisoned: the column has no digits (R179, R194). -/
def Plane.poisonCol (p : Plane) (col : Nat) : Plane :=
  Plane.recount { p with
    poison := true, cols := Store.set Plane.zeroCol p.cols col colPoison
    vals := p.vals.filter (fun v => decide (v.1 % 256 ≠ col)) }

/-- A column of a plane is poisoned. -/
def State.badColumn (s : State) (core : Nat) (shadow : Bool) (col : Nat) : State :=
  let a := s.arr core
  s.setArr (if shadow then { a with shadow := a.shadow.poisonCol col } else { a with active := a.active.poisonCol col })

/-- A word of the score program is lost: R358 states nothing of what it then holds, so it is a free value (log
entry 100). -/
def State.badScore (s : State) (core index : Nat) : State :=
  let a := s.arr core
  let put := fun (l : List Word) (i : Nat) => l.mapIdx (fun j x => if j = i then Config.freeWord s.free else x)
  let sc := if index < 16 then { a.score with ops := put a.score.ops index } else { a.score with k := put a.score.k (index - 16) }
  { s.setArr { a with score := sc } with free := s.free + 1 }

/-- A sector of an L1: a clean one is fetched again, a dirty one is poisoned. A die's cores share one copy of its data
(log entry 92). -/
def State.badL1 (s : State) (core pa : Nat) : State :=
  let mine : BitVec 32 := 0xFF#32 <<< (8 * (pa % 128 / 32))
  let s := { s with coh := { s.coh with self := s.coh.self.map (fun (x : SelfLine) =>
    if x.core = core ∧ x.line = lineOf pa then
      (if x.dirty &&& mine = 0 then { x with valid := x.valid &&& ~~~mine, poison := x.poison &&& ~~~(1#4 <<< (pa % 128 / 32)) }
       else { x with poison := x.poison ||| (1#4 <<< (pa % 128 / 32)) })
    else x) } }
  { s with coh := { s.coh with copies := s.coh.copies.map (fun (x : DieCopy) =>
    if x.die = dieOf core ∧ x.line = cohUnit pa ∧ core ∈ x.cores ∧ x.dirty then { x with poison := x.poison ||| (1#4 <<< ((pa - x.line) / 32)) } else x) } }

/-- Sectors of L2 or of memory are poisoned there; the copies that L1s hold of them are not. -/
def State.badHome (s : State) (sectors : List Nat) : State := s.setPoison sectors

/-- A directory entry, or an entry of a die filter, is lost: its line is poisoned in L2 and every copy is invalid, once no
transaction on the line is in progress (log entry 124). -/
def State.badEntry (s : State) (unit : Nat) : State :=
  let s := { s with coh := { s.coh with broken := unit :: s.coh.broken.filter (fun u => decide (u ≠ unit)) } }
  if s.coh.busy unit then s else s.takeUp unit

/-- What an error does (R358), by its structure, its unit, its entry and its address. An error in a structure that
does not hold what it names does nothing. -/
def State.errorAt (s : State) (e : ErrorSite) (unit entry addr : Nat) : State :=
  match e with
  | .thread k =>
    if entry = 4 ∨ entry = 6 then
      s.modThread k unit (fun t => if t.exited then t else { t with reported := t.reported ++ [⟨.ecc, entry, BitVec.ofNat 64 addr, .reported⟩] })
    else s
  | .corrected => s.softError
  | .register k => s.badRegister k unit entry
  | .shared t => s.badShared t entry
  | .accumulator => if unit < 640 ∧ entry < 131072 then s.badAccumulator unit entry else s
  | .planeColumn shadow => if unit < 640 ∧ entry < 256 then s.badColumn unit shadow entry else s
  | .score => if unit < 640 ∧ entry < 20 then s.badScore unit entry else s
  | .instrCache => { s with mem := { s.mem with icache := s.mem.icache.filter (fun l => !(decide (l.core = unit) && decide (l.block = addr / 64))) } }
  | .l1 => s.badL1 unit addr
  | .l2 => if s.l2Holds addr then s.badHome [addr / 32] else s
  | .copy v => s.copyMark none unit v addr true
  | .polder => { s with mem := { s.mem with polder := s.mem.polder.filter (fun p => !(decide (p.die = unit) && decide (p.block = addr))) } }
  | .directory => if (s.coh.entry addr).placed then s.badEntry addr else s
  | .filter => if (s.coh.copy? unit addr).isSome then s.badEntry addr else s
  | .vault => if entry < 2 ^ 31 ∧ entry ∉ s.mem.tilePoison then { s with mem := { s.mem with tilePoison := entry :: s.mem.tilePoison } } else s
  | .memory => if addr < 2 ^ 39 then s.badHome [addr / 64 * 2, addr / 64 * 2 + 1] else s
  | .tlb => (match s.tlbFind unit entry addr with
    | some t => { s with mem := { s.mem with tlb := s.mem.tlb.filter (fun x => decide (x ≠ t)) } }
    | none => s)
  | .walk => { s with mem := { s.mem with walks := s.mem.walks.filter (fun w =>
      !(decide (w.unit = unit) && decide (w.ctx = entry) && decide (w.vpart = addr / 2 ^ (12 + 11 * w.lvl)))) } }

/-- REPORTED_ERROR (R355, R356, R358): a check finds an error. -/
def execReportedError (e : ErrorSite) (unit entry : Nat) (addr : BitVec 64) (s : State) : Host.Outcome State Fault Refusal :=
  .next (s.errorAt e unit entry addr.toNat)

end Sys2Proof.Machine
end

