-- ==== Sys2Proof/Machine/Float.lean ====
section
/-! DEFINITION. The meanings of floating-point functions, class 0x3 (R102 to R106): one lane function of LaneFloat.lean for each. -/

namespace Sys2Proof.Machine

/-- DIVF (R102). -/
def execDivf (d a b : Sel) (s : State) : Host.Outcome State Fault Refusal :=
  lanewise (.divf d a b) s (fun _ => laneDivf d a b)

/-- RCP (R103). -/
def execRcp (d a : Sel) (s : State) : Host.Outcome State Fault Refusal :=
  lanewise (.rcp d a) s (fun _ => laneRcp d a)

/-- RSQ (R103). -/
def execRsq (d a : Sel) (s : State) : Host.Outcome State Fault Refusal :=
  lanewise (.rsq d a) s (fun _ => laneRsq d a)

/-- SQRT (R102). -/
def execSqrt (d a : Sel) (s : State) : Host.Outcome State Fault Refusal :=
  lanewise (.sqrt d a) s (fun _ => laneSqrt d a)

/-- EXP2 (R103). -/
def execExp2 (d a : Sel) (s : State) : Host.Outcome State Fault Refusal :=
  lanewise (.exp2 d a) s (fun _ => laneExp2 d a)

/-- LOG2 (R103). -/
def execLog2 (d a : Sel) (s : State) : Host.Outcome State Fault Refusal :=
  lanewise (.log2 d a) s (fun _ => laneLog2 d a)

/-- SIN (R103). -/
def execSin (d a : Sel) (s : State) : Host.Outcome State Fault Refusal :=
  lanewise (.sin d a) s (fun _ => laneSin d a)

/-- COS (R103). -/
def execCos (d a : Sel) (s : State) : Host.Outcome State Fault Refusal :=
  lanewise (.cos d a) s (fun _ => laneCos d a)

/-- TANH (R103). -/
def execTanh (d a : Sel) (s : State) : Host.Outcome State Fault Refusal :=
  lanewise (.tanh d a) s (fun _ => laneTanh d a)

/-- RINT (R102). -/
def execRint (d a : Sel) (s : State) : Host.Outcome State Fault Refusal :=
  lanewise (.rint d a) s (fun _ => laneRint d a)

/-- SCALB (R105). -/
def execScalb (d a b : Sel) (s : State) : Host.Outcome State Fault Refusal :=
  lanewise (.scalb d a b) s (fun _ => laneScalb d a b)

/-- FCLS (R106). -/
def execFcls (d a : Sel) (s : State) : Host.Outcome State Fault Refusal :=
  lanewise (.fcls d a) s (fun _ => laneFcls d a)

end Sys2Proof.Machine
end

