-- ==== Sys2Proof/Machine/Integer.lean ====
section
/-! DEFINITION. The meanings of integer arithmetic and shifts, class 0x1 (R95 to R97): one lane function of LaneInt.lean for each. -/

namespace Sys2Proof.Machine

/-- MULHI (R95). -/
def execMulhi (d a b : Sel) (s : State) : Host.Outcome State Fault Refusal :=
  lanewise (.mulhi d a b) s (fun _ => laneMulhi d a b)

/-- MULHN (R95). -/
def execMulhn (d a b : Sel) (s : State) : Host.Outcome State Fault Refusal :=
  lanewise (.mulhn d a b) s (fun _ => laneMulhn d a b)

/-- DIV (R96). -/
def execDiv (d a b : Sel) (s : State) : Host.Outcome State Fault Refusal :=
  lanewise (.div d a b) s (fun _ => laneDiv d a b)

/-- REM (R96). -/
def execRem (d a b : Sel) (s : State) : Host.Outcome State Fault Refusal :=
  lanewise (.rem d a b) s (fun _ => laneRem d a b)

/-- DIVN (R96). -/
def execDivn (d a b : Sel) (s : State) : Host.Outcome State Fault Refusal :=
  lanewise (.divn d a b) s (fun _ => laneDivn d a b)

/-- REMN (R96). -/
def execRemn (d a b : Sel) (s : State) : Host.Outcome State Fault Refusal :=
  lanewise (.remn d a b) s (fun _ => laneRemn d a b)

/-- SHL (R97). -/
def execShl (d a b : Sel) (s : State) : Host.Outcome State Fault Refusal :=
  lanewise (.shl d a b) s (fun _ => laneShl d a b)

/-- SHR (R97). -/
def execShr (d a b : Sel) (s : State) : Host.Outcome State Fault Refusal :=
  lanewise (.shr d a b) s (fun _ => laneShr d a b)

/-- SRA (R97). -/
def execSra (d a b : Sel) (s : State) : Host.Outcome State Fault Refusal :=
  lanewise (.sra d a b) s (fun _ => laneSra d a b)

/-- ROL (R97). -/
def execRol (d a b : Sel) (s : State) : Host.Outcome State Fault Refusal :=
  lanewise (.rol d a b) s (fun _ => laneRol d a b)

/-- SHLI (R97). -/
def execShli (d a : Sel) (imm : BitVec 8) (s : State) : Host.Outcome State Fault Refusal :=
  lanewise (.shli d a imm) s (fun _ => laneShli d a imm)

/-- SHRI (R97). -/
def execShri (d a : Sel) (imm : BitVec 8) (s : State) : Host.Outcome State Fault Refusal :=
  lanewise (.shri d a imm) s (fun _ => laneShri d a imm)

/-- SRAI (R97). -/
def execSrai (d a : Sel) (imm : BitVec 8) (s : State) : Host.Outcome State Fault Refusal :=
  lanewise (.srai d a imm) s (fun _ => laneSrai d a imm)

/-- CLZ (R95). -/
def execClz (d a : Sel) (s : State) : Host.Outcome State Fault Refusal :=
  lanewise (.clz d a) s (fun _ => laneClz d a)

/-- POPC (R95). -/
def execPopc (d a : Sel) (s : State) : Host.Outcome State Fault Refusal :=
  lanewise (.popc d a) s (fun _ => lanePopc d a)

/-- BREV (R95). -/
def execBrev (d a : Sel) (s : State) : Host.Outcome State Fault Refusal :=
  lanewise (.brev d a) s (fun _ => laneBrev d a)

end Sys2Proof.Machine
end

