-- ==== Sys2Proof/Machine/Logic.lean ====
section
/-! DEFINITION. The meanings of logic, bit fields, constants and moves, class 0x2 (R98 to R101): one lane function of LaneInt.lean for each. -/

namespace Sys2Proof.Machine

/-- AND (R98). -/
def execAnd (d a b : Sel) (s : State) : Host.Outcome State Fault Refusal :=
  lanewise (.and d a b) s (fun _ => laneAnd d a b)

/-- OR (R98). -/
def execOr (d a b : Sel) (s : State) : Host.Outcome State Fault Refusal :=
  lanewise (.or d a b) s (fun _ => laneOr d a b)

/-- XOR (R98). -/
def execXor (d a b : Sel) (s : State) : Host.Outcome State Fault Refusal :=
  lanewise (.xor d a b) s (fun _ => laneXor d a b)

/-- ANDN (R98). -/
def execAndn (d a b : Sel) (s : State) : Host.Outcome State Fault Refusal :=
  lanewise (.andn d a b) s (fun _ => laneAndn d a b)

/-- ORN (R98). -/
def execOrn (d a b : Sel) (s : State) : Host.Outcome State Fault Refusal :=
  lanewise (.orn d a b) s (fun _ => laneOrn d a b)

/-- NOT (R98). -/
def execNot (d a : Sel) (s : State) : Host.Outcome State Fault Refusal :=
  lanewise (.not d a) s (fun _ => laneNot d a)

/-- ANDI (R98). -/
def execAndi (d a : Sel) (imm : BitVec 8) (s : State) : Host.Outcome State Fault Refusal :=
  lanewise (.andi d a imm) s (fun _ => laneAndi d a imm)

/-- ORI (R98). -/
def execOri (d a : Sel) (imm : BitVec 8) (s : State) : Host.Outcome State Fault Refusal :=
  lanewise (.ori d a imm) s (fun _ => laneOri d a imm)

/-- XORI (R98). -/
def execXori (d a : Sel) (imm : BitVec 8) (s : State) : Host.Outcome State Fault Refusal :=
  lanewise (.xori d a imm) s (fun _ => laneXori d a imm)

/-- SEL (R99). -/
def execSel (d a b : Sel) (s : State) : Host.Outcome State Fault Refusal :=
  lanewise (.sel d a b) s (fun _ => laneSel d a b)

/-- BFX (R99). -/
def execBfx (d a b : Sel) (s : State) : Host.Outcome State Fault Refusal :=
  lanewise (.bfx d a b) s (fun _ => laneBfx d a b)

/-- BFI (R99). -/
def execBfi (d a b : Sel) (s : State) : Host.Outcome State Fault Refusal :=
  lanewise (.bfi d a b) s (fun _ => laneBfi d a b)

/-- PRMB (R100). -/
def execPrmb (d a b : Sel) (s : State) : Host.Outcome State Fault Refusal :=
  lanewise (.prmb d a b) s (fun _ => lanePrmb d a b)

/-- LUI (R98). -/
def execLui (d : Sel) (imm : BitVec 16) (s : State) : Host.Outcome State Fault Refusal :=
  lanewise (.lui d imm) s (fun _ => laneLui d imm)

/-- LLI (R98). -/
def execLli (d : Sel) (imm : BitVec 16) (s : State) : Host.Outcome State Fault Refusal :=
  lanewise (.lli d imm) s (fun _ => laneLli d imm)

/-- MOV (R98). -/
def execMov (d a : Sel) (s : State) : Host.Outcome State Fault Refusal :=
  lanewise (.mov d a) s (fun _ => laneMov d a)

end Sys2Proof.Machine
end

