-- ==== Sys2Proof/Machine/MemInstr.lean ====
section
/-! DEFINITION. The meanings of the loads, stores and atomics (R137 to R148) and of PFG (R177). -/

namespace Sys2Proof.Machine

/-- LDS (R140). -/
def execLds (d a : Sel) (st t : BitVec 4) (s : State) : Host.Outcome State Fault Refusal :=
  loadOp (.lds d a st t) .shared 1 false d a st t s

/-- LDS2 (R140). -/
def execLds2 (d a : Sel) (st t : BitVec 4) (s : State) : Host.Outcome State Fault Refusal :=
  loadOp (.lds2 d a st t) .shared 2 false d a st t s

/-- LDS4 (R140). -/
def execLds4 (d a : Sel) (st t : BitVec 4) (s : State) : Host.Outcome State Fault Refusal :=
  loadOp (.lds4 d a st t) .shared 4 false d a st t s

/-- LDT (R140). -/
def execLdt (d a : Sel) (st t : BitVec 4) (s : State) : Host.Outcome State Fault Refusal :=
  loadOp (.ldt d a st t) .tile 1 false d a st t s

/-- LDT2 (R140). -/
def execLdt2 (d a : Sel) (st t : BitVec 4) (s : State) : Host.Outcome State Fault Refusal :=
  loadOp (.ldt2 d a st t) .tile 2 false d a st t s

/-- LDT4 (R140). -/
def execLdt4 (d a : Sel) (st t : BitVec 4) (s : State) : Host.Outcome State Fault Refusal :=
  loadOp (.ldt4 d a st t) .tile 4 false d a st t s

/-- LDG (R140). -/
def execLdg (d a : Sel) (st t : BitVec 4) (s : State) : Host.Outcome State Fault Refusal :=
  loadOp (.ldg d a st t) .global 1 false d a st t s

/-- LDG2 (R140). -/
def execLdg2 (d a : Sel) (st t : BitVec 4) (s : State) : Host.Outcome State Fault Refusal :=
  loadOp (.ldg2 d a st t) .global 2 false d a st t s

/-- LDG4 (R140). -/
def execLdg4 (d a : Sel) (st t : BitVec 4) (s : State) : Host.Outcome State Fault Refusal :=
  loadOp (.ldg4 d a st t) .global 4 false d a st t s

/-- LDGA (R140). -/
def execLdga (d a : Sel) (st t : BitVec 4) (s : State) : Host.Outcome State Fault Refusal :=
  loadOp (.ldga d a st t) .global 1 true d a st t s

/-- LDTA (R140). -/
def execLdta (d a : Sel) (st t : BitVec 4) (s : State) : Host.Outcome State Fault Refusal :=
  loadOp (.ldta d a st t) .tile 1 true d a st t s

/-- STS (R141). -/
def execSts (d a : Sel) (st : BitVec 4) (pol : BitVec 2) (s : State) : Host.Outcome State Fault Refusal :=
  storeOp (.sts d a st pol) .shared 1 false false d a st pol s

/-- STS2 (R141). -/
def execSts2 (d a : Sel) (st : BitVec 4) (pol : BitVec 2) (s : State) : Host.Outcome State Fault Refusal :=
  storeOp (.sts2 d a st pol) .shared 2 false false d a st pol s

/-- STS4 (R141). -/
def execSts4 (d a : Sel) (st : BitVec 4) (pol : BitVec 2) (s : State) : Host.Outcome State Fault Refusal :=
  storeOp (.sts4 d a st pol) .shared 4 false false d a st pol s

/-- STSF (R141, R144). -/
def execStsf (d a : Sel) (st : BitVec 4) (pol : BitVec 2) (s : State) : Host.Outcome State Fault Refusal :=
  storeOp (.stsf d a st pol) .shared 1 false true d a st pol s

/-- STT (R141). -/
def execStt (d a : Sel) (st : BitVec 4) (pol : BitVec 2) (s : State) : Host.Outcome State Fault Refusal :=
  storeOp (.stt d a st pol) .tile 1 false false d a st pol s

/-- STT2 (R141). -/
def execStt2 (d a : Sel) (st : BitVec 4) (pol : BitVec 2) (s : State) : Host.Outcome State Fault Refusal :=
  storeOp (.stt2 d a st pol) .tile 2 false false d a st pol s

/-- STT4 (R141). -/
def execStt4 (d a : Sel) (st : BitVec 4) (pol : BitVec 2) (s : State) : Host.Outcome State Fault Refusal :=
  storeOp (.stt4 d a st pol) .tile 4 false false d a st pol s

/-- STG (R141). -/
def execStg (d a : Sel) (st : BitVec 4) (pol : BitVec 2) (s : State) : Host.Outcome State Fault Refusal :=
  storeOp (.stg d a st pol) .global 1 false false d a st pol s

/-- STG2 (R141). -/
def execStg2 (d a : Sel) (st : BitVec 4) (pol : BitVec 2) (s : State) : Host.Outcome State Fault Refusal :=
  storeOp (.stg2 d a st pol) .global 2 false false d a st pol s

/-- STG4 (R141). -/
def execStg4 (d a : Sel) (st : BitVec 4) (pol : BitVec 2) (s : State) : Host.Outcome State Fault Refusal :=
  storeOp (.stg4 d a st pol) .global 4 false false d a st pol s

/-- STGR (R141). -/
def execStgr (d a : Sel) (st : BitVec 4) (pol : BitVec 2) (s : State) : Host.Outcome State Fault Refusal :=
  storeOp (.stgr d a st pol) .global 1 true false d a st pol s

/-- STTR (R141). -/
def execSttr (d a : Sel) (st : BitVec 4) (pol : BitVec 2) (s : State) : Host.Outcome State Fault Refusal :=
  storeOp (.sttr d a st pol) .tile 1 true false d a st pol s

/-- ATG (R145 to R147). -/
def execAtg (d a : Sel) (st : BitVec 4) (op : AOp) (s : State) : Host.Outcome State Fault Refusal :=
  atomicOp (.atg d a st op) .global false d a st op s

/-- ATGR (R145 to R147). -/
def execAtgr (d a : Sel) (st : BitVec 4) (op : AOp) (s : State) : Host.Outcome State Fault Refusal :=
  atomicOp (.atgr d a st op) .global true d a st op s

/-- ATS (R145 to R147). -/
def execAts (d a : Sel) (st : BitVec 4) (op : AOp) (s : State) : Host.Outcome State Fault Refusal :=
  atomicOp (.ats d a st op) .shared false d a st op s

/-- ATSR (R145 to R147). -/
def execAtsr (d a : Sel) (st : BitVec 4) (op : AOp) (s : State) : Host.Outcome State Fault Refusal :=
  atomicOp (.atsr d a st op) .shared true d a st op s

/-- CASG (R148). -/
def execCasg (d a : Sel) (st : BitVec 4) (s : State) : Host.Outcome State Fault Refusal :=
  casOp (.casg d a st) .global d a st s

/-- CASS (R148). -/
def execCass (d a : Sel) (st : BitVec 4) (s : State) : Host.Outcome State Fault Refusal :=
  casOp (.cass d a st) .shared d a st s

/-- A word of the parameter space: zero in a queue thread (R137, R221, R308). -/
def State.param (s : State) (g : Group) (addr : Nat) : Word :=
  match g.key.team with
  | none => 0
  | some t => (match s.grid? t.ctx t.grid with | some x => x.params.readWord addr | none => 0)

/-- One lane of LDP (R137, R140). -/
def laneLdp (s : State) (d a : Sel) (t : BitVec 4) (v : View) : Except Trap LaneOut :=
  let addr := v.address .param a
  if !addrTag (v.tag a) then .error (Machine.tagTrap 15 (some (v.tag a)) none none)
  else if addr % 4 ≠ 0 then .error (memTrap .align 1 addr)
  else if 4096 ≤ addr then .error (memTrap .prot 1 addr)
  else .ok (LaneOut.res d (s.param v.g addr) (tagOf t))

/-- LDP (R140). -/
def execLdp (d a : Sel) (st t : BitVec 4) (s : State) : Host.Outcome State Fault Refusal :=
  lanewise (.ldp d a st t) s (fun _ => laneLdp s d a t)

/-- The access an LDSE or LDSC would make, for the order it must keep. -/
def bankPend (s : State) (g : Group) (t : Thread) (st : BitVec 4) (ws : List Acc) : Pend :=
  { id := s.next, key := g.key, tid := t.tid, pc := t.seqPc, kind := .load ws, stream := st.toNat, batch := s.next }

/-- Has a thread an STSF outstanding on a granule? The full bit is a location, whose accesses by one thread keep
program order (R247, R255). -/
def State.setsFull (s : State) (k : GKey) (tid granule : Nat) : Bool :=
  s.pends.any (fun q => decide (q.key = k) && decide (q.tid = tid) &&
    (match q.kind with | .store _ (some gr) => decide (gr = granule) | _ => false))

/-- One lane of LDSE or LDSC (R144): it waits for earlier accesses that must be performed first, then
for the full bit, in the order in which requests reach the bank. -/
def bankLane (clear : Bool) (d a : Sel) (st t : BitVec 4) (g : Group) (th : Thread) (s : State) : State × List Due :=
  let v : View := ⟨g, th⟩
  let addr := v.address .shared a
  match s.checkMem g { sp := .shared } addr, g.key.team with
  | (s, .error none), _ => (s, [])
  | (s, .error (some e)), _ => laneTrap g th e s
  | (s, .ok _), none => (s, [])
  | (s, .ok ws), some tk =>
    let key := sharedKey g.upper addr
    if !s.inOrder (bankPend s g th st ws) || s.setsFull g.key th.tid (key / 16) then (s, [])
    else
      let w : BankWait := ⟨key / 16, key, g.key, th.tid, d, tagOf t, clear⟩
      if s.isFull tk (key / 16) then (s.bankGive tk w, [])
      else
        ((s.modTeam tk (fun x => { x with bankQ := x.bankQ ++ [w] })).modThread g.key th.tid
          (fun th => { th with block := some .bank, regionOpen := th.regionOpen && !clear }), [])

/-- LDSE (R144). -/
def execLdse (d a : Sel) (st t : BitVec 4) (s : State) : Host.Outcome State Fault Refusal :=
  issueChecked (.ldse d a st t) s (memTags .shared a none) noUniform
    (fun g ts s => eachLane g.key (bankLane false d a st t) (ts.map Thread.tid) s)

/-- LDSC (R144). -/
def execLdsc (d a : Sel) (st t : BitVec 4) (s : State) : Host.Outcome State Fault Refusal :=
  issueChecked (.ldsc d a st t) s (memTags .shared a none) noUniform
    (fun g ts s => eachLane g.key (bankLane true d a st t) (ts.map Thread.tid) s)

/-- A PFG of a host line whose halves the device lacks asks the host for them first (R177, R344). -/
def State.ask64 (s : State) (w : Who) (core : Option Nat) (grain pa : Nat) : State :=
  let x : Ask := ⟨pa, if core.isSome then fillHalves grain pa else [pa / 64 * 64], core, w.pol, grain⟩
  if x ∈ s.coh.asks then s else { s with coh := { s.coh with asks := s.coh.asks ++ [x] } }

/-- A line brought nearer by a policy (R177, R276): into the L1 where the policy and the page's class let it hold the
line, else into L2. A peer's line and a line that waits are left where they are (log entry 99). -/
def State.prefetch (s : State) (w : Who) (a : Acc) : State :=
  if s.accWaits w a false || s.accPortDown a then s
  else
    match s.readRoute w a with
    | .self core pa =>
      if (s.coh.selfLine core (lineOf pa)).valid.getLsbD (pa % 128 / 4) then s.l1Use core w.pol false pa 0
      else if s.routeReady (.self core pa) a.grain w.pol false then (s.routeRead w a.grain (.self core pa)).1
      else s.ask64 w (if w.pol = 3 then none else some core) a.grain pa
    | .die d pa =>
      if w.pol = 3 then (if pa < hostBit ∨ s.halfOk pa false then s.l2Use 3 pa none else s.ask64 w none a.grain pa)
      else match w.l1 with
        | some core => if s.coh.l1Holds core pa then s.l1Use core w.pol false pa 0 else s.dieFill core w.pol a.grain d pa
        | none => s
    | .view pa => s.copyUse w.pol (s.fwd pa) (s.viewHolder w.ctx (s.viewPath w.ctx w.vtag) (s.fwd pa))
    | .home pa => s.l2Use w.pol pa none
    | .host pa => if s.halfOk pa false then s.l2Use w.pol pa none else s.ask64 w none a.grain pa
    | .shared _ _ | .tile _ | .peer _ => s

/-- One lane of PFG: an address that is misaligned, invalid or unmapped is dropped silently (R177, R283). -/
def pfgLane (pol : Nat) (a : Sel) (g : Group) (t : Thread) (s : State) : State × List Due :=
  let addr := (⟨g, t⟩ : View).address .global a
  if addr % 4 = 0 ∧ addr < 2 ^ 56 then
    match s.translate g.tlbUnit g.ctx .nothing addr with
    | (s, .ok pte pa) => (s.prefetch { g.who with pol := pol } (accOf pte pa), [])
    | (s, _) => (s, [])
  else (s, [])

/-- PFG (R177): no architectural effect, and no wait; its tag rules apply. -/
def execPfg (a : Sel) (st : BitVec 4) (pol : BitVec 2) (s : State) : Host.Outcome State Fault Refusal :=
  issueChecked (.pfg a st pol) s (memTags .global a none) noUniform
    (fun g ts s => ((eachLane g.key (pfgLane pol.toNat a) (ts.map Thread.tid) s).1.modThreads g.key (ts.map Thread.tid) Thread.advance, []))

end Sys2Proof.Machine
end

