-- ==== Sys2Proof/Machine/Platform.lean ====
section
/-! DEFINITION. The part and its host: boot and reset (R371), the mailbox (R371, R372, R378), contexts
(R333 to R336, R376), queue threads (R377), the host register window (R374 to R378), the event ring
(R378) and the interrupt table (R233). -/

namespace Sys2Proof.Machine

/-! Boot. -/

/-- A device reset (R9, R371): every field at its reset value. Memory that outlives it, the image in flash,
and the model's own agenda and counters stay. -/
def State.deviceReset (s : State) : State :=
  { State.reset with agenda := s.agenda, turn := s.turn, free := s.free, next := s.next, mem := { ram := s.mem.ram }, dev := { image := s.dev.image } }

/-- The host ports that trained at boot, from a mask: an interleave of 1, 2, 4 or 8 (R280). -/
def bootPorts (mask : Nat) : List Nat :=
  let l := (List.range 8).filter (fun i => mask.testBit i)
  if 8 ≤ l.length then l else if 4 ≤ l.length then l.take 4 else if 2 ≤ l.length then l.take 2 else l

/-- Does the image in flash pass the checks of boot step 1: its signature, and its security version against the
fused minimum (R371)? -/
def Device.imageGood (d : Device) : Bool :=
  let image := d.image.getD Config.flashImage
  Config.imageSigned image && decide (Config.minVersion.toNat ≤ (Config.imageVersion image).toNat)

/-- A boot step fails, with the failing unit where the step has one (R371). -/
def State.bootFail (s : State) (unit : BitVec 8) : State := { s with dev := { s.dev with boot := 0xF, failUnit := unit } }

/-- The next boot step is in progress. -/
def State.bootNext (s : State) : State := { s with dev := { s.dev with boot := s.dev.boot + 1 } }

/-- Step 3: the compute dies that passed their self-test are online, each failing one posts ONLINE_FAILED, and NO_COMPUTE
follows when none is left (R369, R371). -/
def State.bootDies (s : State) (dies : BitVec 8) : State :=
  let s := { s with dev := { s.dev with dies := (List.range 8).map (fun i => if dies.getLsbD i then DieSt.online else DieSt.offline) } }
  let failed := (List.range 8).filter (fun i => !dies.getLsbD i)
  let s := failed.foldl (fun s d => s.postDie 3 d) s
  match failed.getLast? with
  | some d => s.noCompute d
  | none => s

/-- The vault split of step 4: five bits for each die, at most 16 vaults (R271). -/
def bootSplit (arg : BitVec 64) : List Nat := (splitBits 5 8 arg.toNat).map (Nat.min 16)

/-- Step 4: the vault split, the host ports trained at a rate, each with its 16 lanes (DESIGN CHOICE, log entry 12), the
interleave, and READY (R271, R280, R371). -/
def State.bootReady (s : State) (arg : BitVec 64) (host number : Nat) : State :=
  let ports := bootPorts (arg.toNat / 2 ^ 40 % 256)
  let rate := arg.extractLsb' 48 8
  let s := { s with dev := { s.dev with
    ready := true, number := number, hostBytes := host, hostPorts := ports, vaultSplit := bootSplit arg
    ports := s.dev.ports.mapIdx (fun i (p : Port) => if i ∈ ports then { p with up := true, lanes := 16, rate := rate } else p) } }
  ports.foldl (fun s p => s.post ⟨10, p, (s.port p).inc, 0⟩) s

/-- BOOT (R371): the boot step in progress ends; a part that is running, or whose boot has failed, is reset first and
stands in step 1. `ok` says that the step succeeds; step 1 needs a good image as well. Step 3 takes the compute dies that
passed from arg[7:0]; step 4 the vault split from arg[39:0], the host ports from arg[47:40] and their rate from
arg[55:48]; a step that fails, the failing unit from arg[63:56]. Peer ports come up by LINK_TRAIN. -/
def execBoot (ok : Bool) (arg : BitVec 64) (host number : Nat) (s : State) : Host.Outcome State Fault Refusal :=
  let unit := arg.extractLsb' 56 8
  if s.dev.fatal then .next s.deviceReset
  else if s.dev.boot = 1 then
    if ok && s.dev.imageGood then .next ({ s with dev := { s.dev with image := some (s.dev.image.getD Config.flashImage) } } : State).bootNext
    else .next (s.bootFail s.dev.failUnit)
  else if s.dev.boot = 2 then
    .next (if ok then ((List.range 9).foldl State.joinHop s).bootNext else s.bootFail unit)
  else if s.dev.boot = 3 then .next (if ok then (s.bootDies (arg.extractLsb' 0 8)).bootNext else s.bootFail unit)
  else if s.dev.boot = 4 then .next (if ok then (s.bootReady arg host number).bootNext else s.bootFail unit)
  else .next s.deviceReset

/-! The mailbox. -/

/-- MAILBOX_RECOVERY (R371): after a failed boot a new image is loaded, and the part boots again. -/
def execMailboxRecovery (image : Nat) (s : State) : Host.Outcome State Fault Refusal :=
  if s.dev.boot = 0xF then .next { s with dev := { s.dev with image := some image, boot := 1, failUnit := 0 } } else .next s

/-- The mailbox's answer; after a failed boot only recovery is accepted (R371). -/
def State.mailbox (s : State) (bytes : List Byte) : State :=
  if s.dev.boot = 0xF then s else { s with dev := { s.dev with reply := bytes } }

/-- MAILBOX_IDENTITY (R372): the public key of 1,793 bytes, then the certificate chain. -/
def execMailboxIdentity (s : State) : Host.Outcome State Fault Refusal := .next (s.mailbox (Config.identityKey.toList ++ Config.certChain))

/-- VAULTSPLIT (R375). -/
def Device.splitWord (d : Device) : DWord := BitVec.ofNat 64 (joinBits 5 d.vaultSplit)

/-- DEVSTAT.ONLINE (R375). -/
def Device.onlineMask (d : Device) : BitVec 8 := BitVec.ofNat 8 (joinBits 1 (d.dies.map (fun x => if x = .online then 1 else 0)))

/-- Bytes 0 to 191 of the attestation report (R372). -/
def Device.report (d : Device) (nonce : BitVec 256) : List Byte :=
  [0x47, 0x41, 0x54, 0x31] ++ bytesLe 4 1 ++ bytesLe 16 Config.serial.toNat ++
  bytesLe 64 (Config.imageDigest (d.image.getD Config.flashImage)).toNat ++
  bytesLe 64 (Config.configDigest d.splitWord d.onlineMask (d.ports.map (fun p => featMask p.feats))).toNat ++
  bytesLe 32 nonce.toNat ++ bytesLe 4 (Config.imageVersion (d.image.getD Config.flashImage)).toNat ++ bytesLe 4 0

/-- MAILBOX_ATTESTATION (R372): the report with its signature. -/
def execMailboxAttestation (nonce : BitVec 256) (s : State) : Host.Outcome State Fault Refusal :=
  .next (s.mailbox (s.dev.report nonce ++ (Config.sign (s.dev.report nonce)).toList))

/-- MAILBOX_DOMAIN_MAP (R378). -/
def execMailboxDomainMap (s : State) : Host.Outcome State Fault Refusal :=
  .next (s.mailbox (Config.domainMap ((s.dev.ports.drop 8).map Port.peers)))

/-! Contexts. -/

/-- Is a context command still running (R376)? -/
def State.cmdRunning (s : State) : Bool :=
  s.ctxs.any (fun c => match c.status with | .switchingOut _ | .tearing _ => true | _ => false)

/-- The sixteen words of a command block. -/
def State.blockWords (s : State) (block : Nat) : List Word := (List.range 16).map (fun i => s.peek (block + 4 * i))

/-- May a command block be taken up: the part is ready, no command runs, and the address is good (R376)? -/
def State.blockOk (s : State) (block op : Nat) : Bool :=
  s.dev.ready && !s.cmdRunning && decide (block % 64 = 0) && decide (block + 64 ≤ 2 ^ 39) && decide (recByte (s.blockWords block) 0 = op)

/-- A create's fields (R376). -/
def createBad (w : List Word) : Bool :=
  decide (recByte w 1 ≠ 0) || decide (recDword w 56 ≠ 0) ||
  decide (recDword w 48 % 4096 ≠ 0) || decide (2 ^ 56 ≤ recDword w 48) ||
  decide (recDword w 8 % 16384 ≠ 0) || decide (2 ^ 39 ≤ recDword w 8) ||
  decide (recDword w 16 % 128 ≠ 0) || decide (recDword w 24 = 0) || decide (recDword w 24 % 128 ≠ 0) ||
  decide (recDword w 32 % 64 ≠ 0) || !((List.range 11).any (fun k => decide (recWord w 40 = 2 ^ (6 + k)))) ||
  decide (2048 < recHalf w 44 + recHalf w 46)

/-- The new context of a block. -/
def ctxOf (w : List Word) (id : Nat) : Ctx :=
  { id := id, ptRoot := recDword w 8, saveBase := recDword w 16, saveBytes := recDword w 24, faultBase := recDword w 32
    faultLen := recWord w 40, vecFirst := recHalf w 44, vecCount := recHalf w 46, codeBase := BitVec.ofNat 64 (recDword w 48) }

/-- The lowest identifier that no context has. -/
def State.freeId (s : State) : Option Nat :=
  ((List.range (s.ctxs.length + 1)).find? (fun i => (s.ctx? i).isNone)).filter (fun i => decide (i < 65536))

/-- CTX_CREATE (R376). -/
def execCtxCreate (block : Nat) (s : State) : Host.Outcome State Fault Refusal :=
  if !s.blockOk block 1 then .next s
  else
    let w := s.blockWords block
    if createBad w then .next (s.ctxDone block (recHalf w 2) 1)
    else
      match s.freeId with
      | none => .next (s.ctxDone block (recHalf w 2) 2)
      | some id =>
        let s := { s with ctxs := s.ctxs ++ [ctxOf w id] }
        let s := s.homeWrite block (BitVec.ofNat 32 (recHalf w 0 + 2 ^ 16 * id))
        .next (s.ctxDone block id 0)

/-- The context that a block names, its identifier and where it stands; status 1 when there is none. -/
def State.blockCtx (s : State) (block op : Nat) (f : Nat → Ctx → State) : Host.Outcome State Fault Refusal :=
  if !s.blockOk block op then .next s
  else
    let id := recHalf (s.blockWords block) 2
    match s.ctx? id with
    | none => .next (s.ctxDone block id 1)
    | some c => .next (f id c)

/-- The codes that a context's grids end with at a teardown, kept while a record waits (R287): SQUASHED for those of a
version, else ABORTED (R336). -/
def State.markEnds (s : State) (id : Nat) : State :=
  { s with grids := s.grids.map (fun (g : Grid) => if g.ctx = id ∧ g.done.isNone then { g with endCode := some (if g.rcd.vtag = 0 then 0x13 else 0x10) } else g) }

/-- CTX_TEARDOWN (R336 steps 1 to 6): the context's work is stopped, squashed and released, and its grids
end with ABORTED. -/
def execCtxTeardown (block : Nat) (s : State) : Host.Outcome State Fault Refusal :=
  s.blockCtx block 2 (fun id _ =>
    let slots := s.ctxSlots id
    let s := s.stopCtx id
    let s := if s.recordsWait id (fun _ => true) then s.markEnds id else s.endCtxGrids id 0x13 true
    let s := slots.foldl (fun s i => s.setQt i .idle) s
    s.modCtx id (fun c => { c with status := .tearing block }))

/-- The moves of a context's pages end with it: a thread of another context that waits for one gets BADCTX (R241, R286,
log entry 101). -/
def State.dropMigrs (s : State) (id : Nat) : State :=
  let mine := s.mem.migr.filter (fun m => decide (m.ctx = id))
  let s := mine.foldl (fun s m => s.migrAnswer m (sysWord 0xA)) s
  { s with mem := { s.mem with migr := s.mem.migr.filter (fun m => decide (m.ctx ≠ id)) } }

/-- Everything that names a context is gone (R336 steps 5 and 7). -/
def State.forgetCtx (s : State) (id : Nat) : State :=
  let s := (s.dropMigrs id).dropCopies (fun c => c.src.isNone && decide (c.ctx = id))
  { s with
    ctxs := s.ctxs.filter (fun c => decide (c.id ≠ id))
    grids := s.grids.filter (fun g => decide (g.ctx ≠ id))
    dist := { s.dist with entered := s.dist.entered.filter (fun e => decide (e.1 ≠ id)) }
    mem := { s.mem with
      tlb := s.mem.tlb.filter (fun t => decide (t.ctx ≠ id))
      walks := s.mem.walks.filter (fun w => decide (w.ctx ≠ id))
      icache := s.mem.icache.filter (fun l => decide (l.ctx ≠ id))
      tileLost := s.mem.tileLost.filter (fun l => decide (l.ctx ≠ id)) } }

/-- CTX_TEARDOWN_DONE (R336 steps 7 and 8), once no completion record waits. -/
def execCtxTeardownDone (ctx : Nat) (s : State) : Host.Outcome State Fault Refusal :=
  match (s.ctx? ctx).map Ctx.status with
  | some (.tearing block) =>
    if s.recordsWait ctx (fun _ => true) then .next s
    else .next (((s.endCtxGrids ctx 0x13 true).forgetCtx ctx).ctxDone block ctx 0)
  | _ => .next s

/-- A queue thread's record is written and it leaves its core (R333 step 2); its dirty SELF words go home first (R334). The
failure of the write marks the context LOST (R335). -/
def State.saveSlot (s : State) (ctx slot : Nat) : Saved Unit :=
  match s.group? (.queue slot) with
  | none => .ok s ()
  | some g =>
    let s := ((s.outwardRelease g.l1).withdraw g.key [0]).modThread g.key 0 Thread.parkFull
    match s.group? g.key with
    | none => .ok s ()
    | some g =>
      let words := g.threads.flatMap (fun t => (t.record g.nregs .full t.seqPc).map (fun w => (w, !t.parity.isEmpty)))
      match s.saveRecord g.tlbUnit ctx words with
      | .wait s => .wait s
      | .fail s va code => if s.recordsWait ctx (fun _ => true) then .wait s else .fail (s.loseCtx ctx { g.faultRec 4 with flags := 4, value := BitVec.ofNat 64 va, extra := BitVec.ofNat 64 code }) va code
      | .ok s off =>
        .ok (State.setQt (State.modCtx { s with
          groups := s.groups.filter (fun x => decide (x.key ≠ g.key))
          grids := s.grids.map (fun x => { x with waiters := x.waiters.filter (fun y => decide (y.1 ≠ slot)) }) } ctx
          (fun c => { c with savedQ := c.savedQ ++ [({ g with threads := g.threads.map Thread.saveFull }, off)] })) slot .held) ()

/-- Save queue threads in slot order. -/
def State.saveSlots (s : State) (ctx : Nat) : List Nat → Saved Unit
  | [] => .ok s ()
  | i :: r =>
    match s.saveSlot ctx i with
    | .ok s _ => State.saveSlots s ctx r
    | x => x

/-- Are the instructions that a context's queue threads have issued complete? -/
def State.slotsQuiet (s : State) (ctx : Nat) : Bool :=
  s.pends.all (fun p => match p.key with | .queue i => !decide (i ∈ s.ctxSlots ctx) | .kernel _ _ _ _ => true)

/-- Is every team of a context saved? -/
def State.teamsSaved (s : State) (ctx : Nat) : Bool :=
  s.teams.all (fun t => decide (t.key.ctx ≠ ctx) || (match t.phase with | .saved _ => true | _ => false))

/-- The running teams of a context are asked for (R333 step 3). -/
def State.askCtx (s : State) (ctx : Nat) : State :=
  ((s.teams.filter (fun t => decide (t.key.ctx = ctx) && decide (t.phase = .running))).map Team.key).foldl State.ask s

/-- A switch-out goes on, one step of R333 at a time: the records of the queue threads once their instructions are
complete, then the teams, then its end. -/
def State.switchOutNext (s : State) (ctx block : Nat) : State :=
  if s.queueRuns ctx then
    if !s.slotsQuiet ctx then s
    else
      match s.saveSlots ctx (s.ctxSlots ctx) with
      | .wait s => s
      | .fail s _ _ => s
      | .ok s _ => s.askCtx ctx
  else if s.teamsSaved ctx then (s.modCtx ctx (fun c => { c with status := .out })).ctxDone block ctx 0
  else s

/-- CTX_SWITCH_OUT (R333 step 1): nothing of the context is dispatched, and its queue threads issue no more. With no queue
thread to record its running teams are asked for at once. -/
def execCtxSwitchOut (block : Nat) (s : State) : Host.Outcome State Fault Refusal :=
  s.blockCtx block 3 (fun id c =>
    match c.status with
    | .active =>
      let s := s.modCtx id (fun c => { c with status := .switchingOut block })
      if s.queueRuns id then s else s.askCtx id
    | .lost => s.ctxDone block id 4
    | _ => s.ctxDone block id 3)

/-- CTX_SWITCH_OUT_DONE (R333 steps 2 to 4): the switch-out goes on. -/
def execCtxSwitchOutDone (ctx : Nat) (s : State) : Host.Outcome State Fault Refusal :=
  match (s.ctx? ctx).map Ctx.status with
  | some (.switchingOut block) => .next (s.switchOutNext ctx block)
  | _ => .next s

/-- A saved queue thread runs again from its record (R30, R333). -/
def State.restoreSlot (s : State) (ctx : Nat) (x : Group × Nat) : State :=
  let s := s.outwardAcquire x.1.l1
  let base := match s.ctx? ctx with | some c => c.saveBase + x.2 | none => 2 ^ 56
  let threads := x.1.threads.map (fun t => (t.fromRecord x.1.nregs .full (s.savedWord x.1.tlbUnit ctx base)).restoreFull)
  let s := s.dropRecord ctx x.2
  let s := { s with groups := s.groups ++ [{ x.1 with threads := threads }] }
  match x.1.key with
  | .queue i => s.setQt i .running
  | .kernel _ _ _ _ => s

/-- CTX_SWITCH_IN (R333, R376). -/
def execCtxSwitchIn (block : Nat) (s : State) : Host.Outcome State Fault Refusal :=
  s.blockCtx block 4 (fun id c =>
    match c.status with
    | .out =>
      let s := c.savedQ.foldl (fun s x => s.restoreSlot id x) s
      (s.modCtx id (fun c => { c with status := .active, savedQ := [] })).ctxDone block id 0
    | .lost => s.ctxDone block id 4
    | _ => s.ctxDone block id 3)

/-! Queue threads (R377). -/

/-- The fields of a QTCTL value, with a state. -/
def qtOf (x : DWord) (st : QtState) : QtCtl := ⟨st, x.getLsbD 58, x.extractLsb' 48 8, x.extractLsb' 32 16, x.extractLsb' 0 32⟩

/-- QTCTL of a slot. -/
def State.qt (s : State) (slot : Nat) : QtCtl := nth s.dev.qtctl slot QtCtl.zero

/-- Put it. -/
def State.putQt (s : State) (slot : Nat) (q : QtCtl) : State :=
  { s with dev := { s.dev with qtctl := s.dev.qtctl.mapIdx (fun i x => if i = slot then q else x) } }

/-- Is a start accepted (R377): the state, the context, and the fields under R10 and R16? Operations of the slot's last
thread end first, so that none of them fails in the new one (R359, log entry 119). -/
def State.startOk (s : State) (slot : Nat) (q : QtCtl) : Bool :=
  s.dev.ready && decide (slot < 64) && !s.pends.any (fun p => decide (p.key = .queue slot)) && (decide ((s.qt slot).st = .idle) || decide ((s.qt slot).st = .trapped)) &&
  s.ctxActive q.ctx.toNat && decide (q.nregs.toNat % 8 = 0) && decide (8 ≤ q.nregs.toNat) && decide (q.nregs.toNat ≤ 240) &&
  decide (q.entry.toNat % 4 = 0)

/-- A new queue thread (R308). -/
def queueGroup (slot : Nat) (q : QtCtl) : Group :=
  { key := .queue slot, width := 1, nregs := q.nregs.toNat, threads := [newThread 0 0 q.entry], core := slot / 8, active := true, priv := q.priv
    qctx := q.ctx.toNat }

/-- QT_START (R377). -/
def execQtStart (slot : Nat) (x : BitVec 64) (s : State) : Host.Outcome State Fault Refusal :=
  let q := qtOf x .running
  if s.startOk slot q then
    .next { s.putQt slot q with groups := s.groups.filter (fun g => decide (g.key ≠ .queue slot)) ++ [queueGroup slot q] }
  else .next s

/-- QT_STOP (R377): a running or held queue thread ends without a record. -/
def execQtStop (slot : Nat) (s : State) : Host.Outcome State Fault Refusal :=
  match (s.qt slot).st with
  | .running => .next (s.queueEnd slot .idle 5 1)
  | .held =>
    let s := { s with ctxs := s.ctxs.map (fun (c : Ctx) =>
      let offs := (c.savedQ.filter (fun (x : Group × Nat) => decide (x.1.key = GKey.queue slot))).map Prod.snd
      { c with saves := c.saves.filter (fun r => !decide (r.1 ∈ offs)) }) }
    let s := s.queueEnd slot .idle 5 1
    .next { s with ctxs := s.ctxs.map (fun (c : Ctx) => { c with savedQ := c.savedQ.filter (fun (x : Group × Nat) => decide (x.1.key ≠ GKey.queue slot)) }) }
  | _ => .next s

/-- QTCTL_SET_FIELDS (R377): a write with CMD 0 in state 0, 2 or 4. -/
def execQtctlSetFields (slot : Nat) (x : BitVec 64) (s : State) : Host.Outcome State Fault Refusal :=
  match (s.qt slot).st with
  | .idle | .trapped | .lost => .next (if s.dev.ready then s.putQt slot (qtOf x (s.qt slot).st) else s)
  | _ => .next s

/-! The register window. -/

/-- ERRCNT_CLEAR (R375). -/
def execErrcntClear (s : State) : Host.Outcome State Fault Refusal :=
  .next { s with dev := { s.dev with softErrors := 0, deadMsgs := 0, dropped := 0 } }

/-- A write of CTXCMD (R376): ignored while a command runs and for a bad address; an OP that names no
command is a bad field. -/
def State.writeCtxcmd (s : State) (x : DWord) : Host.Outcome State Fault Refusal :=
  let block := x.toNat
  if !s.dev.ready || s.cmdRunning || decide (block % 64 ≠ 0) || decide (2 ^ 39 < block + 64) then .next s
  else
    let s := { s with dev := { s.dev with ctxCmd := x } }
    match recByte (s.blockWords block) 0 with
    | 1 => execCtxCreate block s
    | 2 => execCtxTeardown block s
    | 3 => execCtxSwitchOut block s
    | 4 => execCtxSwitchIn block s
    | _ => .next (s.ctxDone block (recHalf (s.blockWords block) 2) 1)

/-- A write of QTCTL, by its CMD (R377). -/
def State.writeQtctl (s : State) (slot : Nat) (x : DWord) : Host.Outcome State Fault Refusal :=
  if !s.dev.ready then .next s
  else
    match (x.extractLsb' 59 2).toNat with
    | 0 => execQtctlSetFields slot x s
    | 1 => execQtStart slot x s
    | 2 => execQtStop slot s
    | _ => .next s

/-- A write of QCFG (R311, R377). -/
def State.writeQcfg (s : State) (q : Nat) (x : DWord) : State :=
  if !s.dev.ready then s
  else
    { s with dist := { s.dist with
        prio := s.dist.prio.mapIdx (fun i y => if i = q then x.extractLsb' 3 3 else y)
        cls := s.dist.cls.mapIdx (fun i y => if i = q then x.extractLsb' 0 3 else y) } }

/-- HOST_REGISTER_WRITE (R374): an access of 8 bytes to a register of the window, by the field accesses of
R375 to R378. Any other access writes nothing. -/
def execHostRegisterWrite (offset bytes : Nat) (x : BitVec 64) (s : State) : Host.Outcome State Fault Refusal :=
  if bytes ≠ 8 ∨ offset % 8 ≠ 0 then .next s
  else if offset = 0 then .next (if x.getLsbD 2 then { s with dev := { s.dev with evOvf := false } } else s)
  else if offset = 0x10 then execErrcntClear s
  else if offset = 0x100 then s.writeCtxcmd x
  else if offset = 0x200 then .next (if s.dev.ready then { s with dev := { s.dev with evqBase := x } } else s)
  else if offset = 0x208 then .next (if s.dev.ready then { s with dev := { s.dev with evqHead := x.extractLsb' 0 16 } } else s)
  else if 0x1000 ≤ offset ∧ offset < 0x1200 then s.writeQtctl ((offset - 0x1000) / 8) x
  else if 0x2000 ≤ offset ∧ offset < 0x2200 then .next (s.writeQcfg ((offset - 0x2000) / 8) x)
  else .next s

/-- DEVSTAT (R375). -/
def Device.stat (d : Device) : DWord :=
  BitVec.ofNat 64 (d.failUnit.toNat * 2 ^ 32 + d.onlineMask.toNat * 2 ^ 24 + d.boot.toNat * 2 ^ 4 +
    (if d.evOvf then 4 else 0) + (if d.fatal then 2 else 0) + (if d.ready then 1 else 0))

/-- STATE codes (R377). -/
def QtState.code : QtState → Nat
  | .idle => 0 | .running => 1 | .trapped => 2 | .held => 3 | .lost => 4

/-- QTCTL as it reads (R377). -/
def QtCtl.word (q : QtCtl) : DWord :=
  BitVec.ofNat 64 (q.st.code * 2 ^ 61 + (if q.priv then 2 ^ 58 else 0) + q.nregs.toNat * 2 ^ 48 + q.ctx.toNat * 2 ^ 32 + q.entry.toNat)

/-- PORTSTAT (R378). -/
def Port.word (p : Port) : DWord :=
  BitVec.ofNat 64 ((if p.up then 2 ^ 63 else 0) + p.lanes.toNat * 2 ^ 56 + p.rate.toNat * 2 ^ 48 + p.inc.toNat * 2 ^ 16 + (featMask p.feats).toNat)

/-- What a read of the window returns (R374 to R378); it changes nothing. -/
def State.hostRead (s : State) (offset bytes : Nat) : DWord :=
  if bytes ≠ 8 ∨ offset % 8 ≠ 0 then 0
  else if offset = 0 then s.dev.stat
  else if offset = 8 then s.dev.splitWord
  else if offset = 0x10 then BitVec.ofNat 64 (s.dev.softErrors.toNat + s.dev.deadMsgs.toNat * 2 ^ 32 + s.dev.dropped.toNat * 2 ^ 48)
  else if offset = 0x100 then s.dev.ctxCmd
  else if offset = 0x200 then s.dev.evqBase
  else if offset = 0x208 then BitVec.ofNat 64 (s.dev.evqHead.toNat + s.dev.evqTail.toNat * 2 ^ 32)
  else if 0x1000 ≤ offset ∧ offset < 0x1200 then (s.qt ((offset - 0x1000) / 8)).word
  else if 0x2000 ≤ offset ∧ offset < 0x2200 then
    let q := (offset - 0x2000) / 8
    BitVec.ofNat 64 ((nth s.dist.prio q 0).toNat * 8 + (nth s.dist.cls q 0).toNat)
  else if 0x3000 ≤ offset ∧ offset < 0x30C0 then (s.port ((offset - 0x3000) / 8)).word
  else 0

/-! The event ring (R378). -/

/-- Host address of the slot at the tail. -/
def Device.ringSlot (d : Device) : Nat := d.evqBase.toNat / 16 * 16 + 16 * (d.evqTail.toNat % d.ringLen)

/-- Has the ring room, in host memory that a port reaches? -/
def State.ringRoom (s : State) : Bool :=
  decide ((s.dev.evqTail.toNat + 1) % s.dev.ringLen ≠ s.dev.evqHead.toNat % s.dev.ringLen) &&
  decide (s.dev.ringSlot + 16 ≤ s.dev.hostBytes) && !s.portDown (hostBit + s.dev.ringSlot)

/-- The four words of an event. -/
def Event.words (e : Event) (count : DWord) : List Word :=
  [BitVec.ofNat 32 (e.type % 256 + 2 ^ 8 * (e.unit % 256) + 2 ^ 16 * e.inc.toNat), e.detail] ++ halves64 count

/-- EVENT_POST (R378): the oldest held event is written to the ring, and then the tail advances. -/
def execEventPost (s : State) : Host.Outcome State Fault Refusal :=
  match s.dev.heldEvents with
  | (e, n) :: r =>
    if s.ringRoom then
      let s := s.pokes (hostBit + s.dev.ringSlot) (e.words n)
      .next { s with dev := { s.dev with heldEvents := r, evqTail := BitVec.ofNat 16 ((s.dev.evqTail.toNat + 1) % s.dev.ringLen) } }
    else .next s
  | [] => .next s

/-- MSIX_VECTOR_UNMASK (R233, R376): the host writes a vector's entry of the table in BAR2, which follows PCI Express. One
that leaves the vector unmasked unmasks it, and a message that was pending is sent. -/
def execMsixVectorUnmask (w : MsixWrite) (s : State) : Host.Outcome State Fault Refusal :=
  if 2048 ≤ w.vec then .next s
  else
    let d := s.dev
    let send := !w.entry.masked && decide (w.vec ∈ d.msixPending)
    .next { s with dev := { d with
      msix := Store.set MsixEntry.reset d.msix w.vec w.entry
      msixPending := if send then d.msixPending.filter (fun x => decide (x ≠ w.vec)) else d.msixPending
      msixSent := if send then d.msixSent ++ [(w.vec, w.entry.addr, w.entry.data)] else d.msixSent } }

/-- The four words of a vector's entry as the host reads them in BAR2; reading changes nothing (R376). -/
def State.msixRead (s : State) (vec : Nat) : List Word :=
  let e := Store.get MsixEntry.reset s.dev.msix vec
  halves64 e.addr ++ [e.data, if e.masked then 1 else 0]

end Sys2Proof.Machine
end

