-- ==== Sys2Proof/Machine/Dispatch.lean ====
section
/-! DEFINITION. The one dispatch from an instruction or event to its meaning. -/

namespace Sys2Proof.Machine

/-- What one instruction of the issue group, or one event of another agent, does. -/
def exec (i : Instr) (s : State) : Host.Outcome State Fault Refusal :=
  match i with
  | .add d a b => Sys2Proof.Machine.execAdd d a b s
  | .sub d a b => Sys2Proof.Machine.execSub d a b s
  | .mul d a b => Sys2Proof.Machine.execMul d a b s
  | .fma d a b => Sys2Proof.Machine.execFma d a b s
  | .min d a b => Sys2Proof.Machine.execMin d a b s
  | .max d a b => Sys2Proof.Machine.execMax d a b s
  | .abs d a => Sys2Proof.Machine.execAbs d a s
  | .neg d a => Sys2Proof.Machine.execNeg d a s
  | .sadd d a b => Sys2Proof.Machine.execSadd d a b s
  | .ssub d a b => Sys2Proof.Machine.execSsub d a b s
  | .cpsgn d a b => Sys2Proof.Machine.execCpsgn d a b s
  | .addi d a imm => Sys2Proof.Machine.execAddi d a imm s
  | .muli d a imm => Sys2Proof.Machine.execMuli d a imm s
  | .mini d a imm => Sys2Proof.Machine.execMini d a imm s
  | .maxi d a imm => Sys2Proof.Machine.execMaxi d a imm s
  | .mulhi d a b => Sys2Proof.Machine.execMulhi d a b s
  | .mulhn d a b => Sys2Proof.Machine.execMulhn d a b s
  | .div d a b => Sys2Proof.Machine.execDiv d a b s
  | .rem d a b => Sys2Proof.Machine.execRem d a b s
  | .divn d a b => Sys2Proof.Machine.execDivn d a b s
  | .remn d a b => Sys2Proof.Machine.execRemn d a b s
  | .shl d a b => Sys2Proof.Machine.execShl d a b s
  | .shr d a b => Sys2Proof.Machine.execShr d a b s
  | .sra d a b => Sys2Proof.Machine.execSra d a b s
  | .rol d a b => Sys2Proof.Machine.execRol d a b s
  | .shli d a imm => Sys2Proof.Machine.execShli d a imm s
  | .shri d a imm => Sys2Proof.Machine.execShri d a imm s
  | .srai d a imm => Sys2Proof.Machine.execSrai d a imm s
  | .clz d a => Sys2Proof.Machine.execClz d a s
  | .popc d a => Sys2Proof.Machine.execPopc d a s
  | .brev d a => Sys2Proof.Machine.execBrev d a s
  | .and d a b => Sys2Proof.Machine.execAnd d a b s
  | .or d a b => Sys2Proof.Machine.execOr d a b s
  | .xor d a b => Sys2Proof.Machine.execXor d a b s
  | .andn d a b => Sys2Proof.Machine.execAndn d a b s
  | .orn d a b => Sys2Proof.Machine.execOrn d a b s
  | .not d a => Sys2Proof.Machine.execNot d a s
  | .andi d a imm => Sys2Proof.Machine.execAndi d a imm s
  | .ori d a imm => Sys2Proof.Machine.execOri d a imm s
  | .xori d a imm => Sys2Proof.Machine.execXori d a imm s
  | .sel d a b => Sys2Proof.Machine.execSel d a b s
  | .bfx d a b => Sys2Proof.Machine.execBfx d a b s
  | .bfi d a b => Sys2Proof.Machine.execBfi d a b s
  | .prmb d a b => Sys2Proof.Machine.execPrmb d a b s
  | .lui d imm => Sys2Proof.Machine.execLui d imm s
  | .lli d imm => Sys2Proof.Machine.execLli d imm s
  | .mov d a => Sys2Proof.Machine.execMov d a s
  | .divf d a b => Sys2Proof.Machine.execDivf d a b s
  | .rcp d a => Sys2Proof.Machine.execRcp d a s
  | .rsq d a => Sys2Proof.Machine.execRsq d a s
  | .sqrt d a => Sys2Proof.Machine.execSqrt d a s
  | .exp2 d a => Sys2Proof.Machine.execExp2 d a s
  | .log2 d a => Sys2Proof.Machine.execLog2 d a s
  | .sin d a => Sys2Proof.Machine.execSin d a s
  | .cos d a => Sys2Proof.Machine.execCos d a s
  | .tanh d a => Sys2Proof.Machine.execTanh d a s
  | .rint d a => Sys2Proof.Machine.execRint d a s
  | .scalb d a b => Sys2Proof.Machine.execScalb d a b s
  | .fcls d a => Sys2Proof.Machine.execFcls d a s
  | .ceq d a b => Sys2Proof.Machine.execCeq d a b s
  | .cne d a b => Sys2Proof.Machine.execCne d a b s
  | .clt d a b => Sys2Proof.Machine.execClt d a b s
  | .cle d a b => Sys2Proof.Machine.execCle d a b s
  | .cuno d a b => Sys2Proof.Machine.execCuno d a b s
  | .ctag d a imm => Sys2Proof.Machine.execCtag d a imm s
  | .ceqi d a imm => Sys2Proof.Machine.execCeqi d a imm s
  | .cnei d a imm => Sys2Proof.Machine.execCnei d a imm s
  | .clti d a imm => Sys2Proof.Machine.execClti d a imm s
  | .clei d a imm => Sys2Proof.Machine.execClei d a imm s
  | .cgti d a imm => Sys2Proof.Machine.execCgti d a imm s
  | .cgei d a imm => Sys2Proof.Machine.execCgei d a imm s
  | .cvt d a imm => Sys2Proof.Machine.execCvt d a imm s
  | .tagr d a imm => Sys2Proof.Machine.execTagr d a imm s
  | .tagq d a => Sys2Proof.Machine.execTagq d a s
  | .pack d a b => Sys2Proof.Machine.execPack d a b s
  | .unpkl d a imm => Sys2Proof.Machine.execUnpkl d a imm s
  | .unpkh d a imm => Sys2Proof.Machine.execUnpkh d a imm s
  | .sclc d a b => Sys2Proof.Machine.execSclc d a b s
  | .qnt d a b => Sys2Proof.Machine.execQnt d a b s
  | .dqnt d a b => Sys2Proof.Machine.execDqnt d a b s
  | .hadm d a imm => Sys2Proof.Machine.execHadm d a imm s
  | .trpk d a b => Sys2Proof.Machine.execTrpk d a b s
  | .trex d a imm => Sys2Proof.Machine.execTrex d a imm s
  | .lutx d a b => Sys2Proof.Machine.execLutx d a b s
  | .shfl d a b => Sys2Proof.Machine.execShfl d a b s
  | .shflx d a imm => Sys2Proof.Machine.execShflx d a imm s
  | .shflu d a imm => Sys2Proof.Machine.execShflu d a imm s
  | .shfld d a imm => Sys2Proof.Machine.execShfld d a imm s
  | .bcst d a imm => Sys2Proof.Machine.execBcst d a imm s
  | .vall d a => Sys2Proof.Machine.execVall d a s
  | .vany d a => Sys2Proof.Machine.execVany d a s
  | .ballot d a => Sys2Proof.Machine.execBallot d a s
  | .rdadd d a => Sys2Proof.Machine.execRdadd d a s
  | .rdmax d a => Sys2Proof.Machine.execRdmax d a s
  | .rdmin d a => Sys2Proof.Machine.execRdmin d a s
  | .scan d a => Sys2Proof.Machine.execScan d a s
  | .cmpct d a b => Sys2Proof.Machine.execCmpct d a b s
  | .rank d a => Sys2Proof.Machine.execRank d a s
  | .matchAny d a => Sys2Proof.Machine.execMatchAny d a s
  | .br off => Sys2Proof.Machine.execBr off s
  | .bnz a off => Sys2Proof.Machine.execBnz a off s
  | .bz a off => Sys2Proof.Machine.execBz a off s
  | .brx a => Sys2Proof.Machine.execBrx a s
  | .call a off => Sys2Proof.Machine.execCall a off s
  | .callx d a => Sys2Proof.Machine.execCallx d a s
  | .ret a => Sys2Proof.Machine.execRet a s
  | .exit => Sys2Proof.Machine.execExit s
  | .yield => Sys2Proof.Machine.execYield s
  | .nop => Sys2Proof.Machine.execNop s
  | .idem imm => Sys2Proof.Machine.execIdem imm s
  | .pause => Sys2Proof.Machine.execPause s
  | .lds d a st t => Sys2Proof.Machine.execLds d a st t s
  | .lds2 d a st t => Sys2Proof.Machine.execLds2 d a st t s
  | .lds4 d a st t => Sys2Proof.Machine.execLds4 d a st t s
  | .ldse d a st t => Sys2Proof.Machine.execLdse d a st t s
  | .ldsc d a st t => Sys2Proof.Machine.execLdsc d a st t s
  | .ldt d a st t => Sys2Proof.Machine.execLdt d a st t s
  | .ldt2 d a st t => Sys2Proof.Machine.execLdt2 d a st t s
  | .ldt4 d a st t => Sys2Proof.Machine.execLdt4 d a st t s
  | .ldg d a st t => Sys2Proof.Machine.execLdg d a st t s
  | .ldg2 d a st t => Sys2Proof.Machine.execLdg2 d a st t s
  | .ldg4 d a st t => Sys2Proof.Machine.execLdg4 d a st t s
  | .ldga d a st t => Sys2Proof.Machine.execLdga d a st t s
  | .ldp d a st t => Sys2Proof.Machine.execLdp d a st t s
  | .ldta d a st t => Sys2Proof.Machine.execLdta d a st t s
  | .sts d a st pol => Sys2Proof.Machine.execSts d a st pol s
  | .sts2 d a st pol => Sys2Proof.Machine.execSts2 d a st pol s
  | .sts4 d a st pol => Sys2Proof.Machine.execSts4 d a st pol s
  | .stsf d a st pol => Sys2Proof.Machine.execStsf d a st pol s
  | .stt d a st pol => Sys2Proof.Machine.execStt d a st pol s
  | .stt2 d a st pol => Sys2Proof.Machine.execStt2 d a st pol s
  | .stt4 d a st pol => Sys2Proof.Machine.execStt4 d a st pol s
  | .stg d a st pol => Sys2Proof.Machine.execStg d a st pol s
  | .stg2 d a st pol => Sys2Proof.Machine.execStg2 d a st pol s
  | .stg4 d a st pol => Sys2Proof.Machine.execStg4 d a st pol s
  | .stgr d a st pol => Sys2Proof.Machine.execStgr d a st pol s
  | .sttr d a st pol => Sys2Proof.Machine.execSttr d a st pol s
  | .atg d a st op => Sys2Proof.Machine.execAtg d a st op s
  | .atgr d a st op => Sys2Proof.Machine.execAtgr d a st op s
  | .casg d a st => Sys2Proof.Machine.execCasg d a st s
  | .ats d a st op => Sys2Proof.Machine.execAts d a st op s
  | .atsr d a st op => Sys2Proof.Machine.execAtsr d a st op s
  | .cass d a st => Sys2Proof.Machine.execCass d a st s
  | .llock d a st => Sys2Proof.Machine.execLlock d a st s
  | .ltry d a st => Sys2Proof.Machine.execLtry d a st s
  | .lunlk d a st => Sys2Proof.Machine.execLunlk d a st s
  | .lstat d a st => Sys2Proof.Machine.execLstat d a st s
  | .fence sc => Sys2Proof.Machine.execFence sc s
  | .fncx sc mask => Sys2Proof.Machine.execFncx sc mask s
  | .barv d imm => Sys2Proof.Machine.execBarv d imm s
  | .barvReg d a => Sys2Proof.Machine.execBarvReg d a s
  | .barw d imm => Sys2Proof.Machine.execBarw d imm s
  | .barwReg d a => Sys2Proof.Machine.execBarwReg d a s
  | .bars d imm => Sys2Proof.Machine.execBars d imm s
  | .barsReg d a => Sys2Proof.Machine.execBarsReg d a s
  | .barq d imm => Sys2Proof.Machine.execBarq d imm s
  | .barqReg d a => Sys2Proof.Machine.execBarqReg d a s
  | .cpy d a b => Sys2Proof.Machine.execCpy d a b s
  | .bcpy d a b => Sys2Proof.Machine.execBcpy d a b s
  | .tcpy d a b => Sys2Proof.Machine.execTcpy d a b s
  | .kvapp d a b => Sys2Proof.Machine.execKvapp d a b s
  | .pfg a st pol => Sys2Proof.Machine.execPfg a st pol s
  | .sinv a b => Sys2Proof.Machine.execSinv a b s
  | .sflsh a b => Sys2Proof.Machine.execSflsh a b s
  | .selt d a b => Sys2Proof.Machine.execSelt d a b s
  | .dld d a b => Sys2Proof.Machine.execDld d a b s
  | .dldl d a b => Sys2Proof.Machine.execDldl d a b s
  | .dswap => Sys2Proof.Machine.execDswap s
  | .dstr d a b => Sys2Proof.Machine.execDstr d a b s
  | .dstrn d a b => Sys2Proof.Machine.execDstrn d a b s
  | .dzro imm => Sys2Proof.Machine.execDzro imm s
  | .ddrn d a b => Sys2Proof.Machine.execDdrn d a b s
  | .ddrq d a b => Sys2Proof.Machine.execDdrq d a b s
  | .dgang d a => Sys2Proof.Machine.execDgang d a s
  | .dwait d => Sys2Proof.Machine.execDwait d s
  | .dpass d a => Sys2Proof.Machine.execDpass d a s
  | .spgm d a => Sys2Proof.Machine.execSpgm d a s
  | .dscr d a b => Sys2Proof.Machine.execDscr d a b s
  | .smrg d a b => Sys2Proof.Machine.execSmrg d a b s
  | .lnch d a => Sys2Proof.Machine.execLnch d a s
  | .lnchs d a b => Sys2Proof.Machine.execLnchs d a b s
  | .rslv d a b => Sys2Proof.Machine.execRslv d a b s
  | .vsq d a => Sys2Proof.Machine.execVsq d a s
  | .vqry d a => Sys2Proof.Machine.execVqry d a s
  | .waitg d a => Sys2Proof.Machine.execWaitg d a s
  | .loc d => Sys2Proof.Machine.execLoc d s
  | .hosti d a => Sys2Proof.Machine.execHosti d a s
  | .srd d imm => Sys2Proof.Machine.execSrd d imm s
  | .swr d imm => Sys2Proof.Machine.execSwr d imm s
  | .trap imm => Sys2Proof.Machine.execTrap imm s
  | .eret => Sys2Proof.Machine.execEret s
  | .tlwr d a b => Sys2Proof.Machine.execTlwr d a b s
  | .kvfrk d a b => Sys2Proof.Machine.execKvfrk d a b s
  | .migr d a b => Sys2Proof.Machine.execMigr d a b s
  | .ptinv a b => Sys2Proof.Machine.execPtinv a b s
  | .dieop d a => Sys2Proof.Machine.execDieop d a s
  | .himm p => Sys2Proof.Machine.execHimm p s
  | .hsrc src => Sys2Proof.Machine.execHsrc src s
  | .hrnd m => Sys2Proof.Machine.execHrnd m s
  | .hord f u sc => Sys2Proof.Machine.execHord f u sc s
  | .hpol pol => Sys2Proof.Machine.execHpol pol s
  | .hsch c => Sys2Proof.Machine.execHsch c s
  | .hoff off => Sys2Proof.Machine.execHoff off s
  | .issueSelect core quad => Sys2Proof.Machine.execIssueSelect core quad s
  | .groupSwap core quad => Sys2Proof.Machine.execGroupSwap core quad s
  | .queueThreadIssue qcore => Sys2Proof.Machine.execQueueThreadIssue qcore s
  | .arrayOpStart core pipe => Sys2Proof.Machine.execArrayOpStart core pipe s
  | .arrayOpComplete core pipe => Sys2Proof.Machine.execArrayOpComplete core pipe s
  | .engineCommandComplete id => Sys2Proof.Machine.execEngineCommandComplete id s
  | .loadComplete id => Sys2Proof.Machine.execLoadComplete id s
  | .pauseEnd k tid => Sys2Proof.Machine.execPauseEnd k tid s
  | .translationWalk tlb ctx va => Sys2Proof.Machine.execTranslationWalk tlb ctx va s
  | .lockTimeout line k => Sys2Proof.Machine.execLockTimeout line k s
  | .deadlockBroken k => Sys2Proof.Machine.execDeadlockBroken k s
  | .dispatchStep choice => Sys2Proof.Machine.execDispatchStep choice s
  | .stagingComplete t => Sys2Proof.Machine.execStagingComplete t s
  | .preemptStarvation queue => Sys2Proof.Machine.execPreemptStarvation queue s
  | .deferralLimit t => Sys2Proof.Machine.execDeferralLimit t s
  | .trapSaveTimeout t => Sys2Proof.Machine.execTrapSaveTimeout t s
  | .teamSave t => Sys2Proof.Machine.execTeamSave t s
  | .teamMigrate t die => Sys2Proof.Machine.execTeamMigrate t die s
  | .gridComplete ctx grid => Sys2Proof.Machine.execGridComplete ctx grid s
  | .spillwayReclaim base => Sys2Proof.Machine.execSpillwayReclaim base s
  | .migrationLineMove ctx va => Sys2Proof.Machine.execMigrationLineMove ctx va s
  | .rds die line => Sys2Proof.Machine.execRds die line s
  | .rdx die line => Sys2Proof.Machine.execRdx die line s
  | .upg die line => Sys2Proof.Machine.execUpg die line s
  | .wb die line => Sys2Proof.Machine.execWb die line s
  | .evc die line => Sys2Proof.Machine.execEvc die line s
  | .fwdS die line => Sys2Proof.Machine.execFwdS die line s
  | .fwdX die line => Sys2Proof.Machine.execFwdX die line s
  | .inv die line => Sys2Proof.Machine.execInv die line s
  | .data die line => Sys2Proof.Machine.execData die line s
  | .invack die line => Sys2Proof.Machine.execInvack die line s
  | .fack line => Sys2Proof.Machine.execFack line s
  | .done die line => Sys2Proof.Machine.execDone die line s
  | .binv die line => Sys2Proof.Machine.execBinv die line s
  | .snoopData half => Sys2Proof.Machine.execSnoopData half s
  | .snoopInvalidate half => Sys2Proof.Machine.execSnoopInvalidate half s
  | .snoopCurrent half => Sys2Proof.Machine.execSnoopCurrent half s
  | .hostHalfGrant half excl data => Sys2Proof.Machine.execHostHalfGrant half excl data s
  | .hostAgentAccess a store => Sys2Proof.Machine.execHostAgentAccess a store s
  | .remoteLoad src ctx path addr => Sys2Proof.Machine.execRemoteLoad src ctx path addr s
  | .remoteStore src ctx path addr x => Sys2Proof.Machine.execRemoteStore src ctx path addr x s
  | .remoteAtomic src ctx path addr op tag x => Sys2Proof.Machine.execRemoteAtomic src ctx path addr op tag x s
  | .openNotice src ctx v => Sys2Proof.Machine.execOpenNotice src ctx v s
  | .openNoticeAck peer ctx v => Sys2Proof.Machine.execOpenNoticeAck peer ctx v s
  | .commitNotice src ctx v => Sys2Proof.Machine.execCommitNotice src ctx v s
  | .commitNoticeAck peer ctx v => Sys2Proof.Machine.execCommitNoticeAck peer ctx v s
  | .squashNotice src ctx v => Sys2Proof.Machine.execSquashNotice src ctx v s
  | .dropReport ctx => Sys2Proof.Machine.execDropReport ctx s
  | .peerRefuse id => Sys2Proof.Machine.execPeerRefuse id s
  | .peerTimeout peer => Sys2Proof.Machine.execPeerTimeout peer s
  | .linkDown port => Sys2Proof.Machine.execLinkDown port s
  | .linkTrain port lanes rate offer peers => Sys2Proof.Machine.execLinkTrain port lanes rate offer peers s
  | .linkProtocolError e => Sys2Proof.Machine.execLinkProtocolError e s
  | .dieOfflineDone die => Sys2Proof.Machine.execDieOfflineDone die s
  | .dieOnlineDone die ok => Sys2Proof.Machine.execDieOnlineDone die ok s
  | .dieFailure die => Sys2Proof.Machine.execDieFailure die s
  | .reportedError e unit entry addr => Sys2Proof.Machine.execReportedError e unit entry addr s
  | .heatmapRefresh die zones => Sys2Proof.Machine.execHeatmapRefresh die zones s
  | .thermalThrottle => Sys2Proof.Machine.execThermalThrottle s
  | .criticalTemperature => Sys2Proof.Machine.execCriticalTemperature s
  | .boot ok arg host number => Sys2Proof.Machine.execBoot ok arg host number s
  | .mailboxRecovery image => Sys2Proof.Machine.execMailboxRecovery image s
  | .mailboxIdentity => Sys2Proof.Machine.execMailboxIdentity s
  | .mailboxAttestation nonce => Sys2Proof.Machine.execMailboxAttestation nonce s
  | .mailboxDomainMap => Sys2Proof.Machine.execMailboxDomainMap s
  | .ctxCreate block => Sys2Proof.Machine.execCtxCreate block s
  | .ctxTeardown block => Sys2Proof.Machine.execCtxTeardown block s
  | .ctxTeardownDone ctx => Sys2Proof.Machine.execCtxTeardownDone ctx s
  | .ctxSwitchOut block => Sys2Proof.Machine.execCtxSwitchOut block s
  | .ctxSwitchOutDone ctx => Sys2Proof.Machine.execCtxSwitchOutDone ctx s
  | .ctxSwitchIn block => Sys2Proof.Machine.execCtxSwitchIn block s
  | .qtStart slot x => Sys2Proof.Machine.execQtStart slot x s
  | .qtStop slot => Sys2Proof.Machine.execQtStop slot s
  | .qtctlSetFields slot x => Sys2Proof.Machine.execQtctlSetFields slot x s
  | .errcntClear => Sys2Proof.Machine.execErrcntClear s
  | .hostRegisterWrite offset bytes x => Sys2Proof.Machine.execHostRegisterWrite offset bytes x s
  | .eventPost => Sys2Proof.Machine.execEventPost s
  | .storePerformed id => Sys2Proof.Machine.execStorePerformed id s
  | .msixVectorUnmask vec => Sys2Proof.Machine.execMsixVectorUnmask vec s

end Sys2Proof.Machine
end

