-- ==== Sys2Proof/Machine/Front.lean ====
section
/-! DEFINITION. What stands between two instructions of an issue group: traps that are due, the fetch
and the decoding (R71, R74, R76, R355), and the placing of an instruction for a test of one step. -/

namespace Sys2Proof.Machine

/-- The threads of the chosen issue group that still exist and have not ended, with their group. -/
def State.curThreads (s : State) : Option (Group × Thread × List Thread) :=
  match s.cur.bind (fun c => (s.group? c.key).map (fun g => (g, (c.threads g).filter (fun t => !t.exited)))) with
  | some (g, t :: ts) => some (g, t, ts)
  | _ => none

/-- The chosen issue group without the threads that take a trap. -/
def State.curWithout (s : State) (tids : List Nat) : State :=
  { s with cur := s.cur.map (fun c => { c with tids := c.tids.filter (fun t => decide (t ∉ tids)) }) }

/-- Take one trap in each thread that has one due, first taking it off the thread's lists; each trap carries its own
PC. The other threads of the issue group go on (R135). -/
def State.takeEach (s : State) (l : List (GKey × Nat × Trap × Word)) (drop : Thread → Thread) : State :=
  l.foldl (fun s x =>
    let s := s.modThread x.1 x.2.1 drop
    let (s, ds) := s.takeTrap x.1 x.2.1 x.2.2.1 x.2.2.2
    State.settle (s, ds)) (s.curWithout (l.map (fun x => x.2.1)))

/-- The traps due at the boundary before an instruction. -/
def State.takeBoundary (s : State) : State :=
  match s.curThreads with
  | none => s
  | some (g, t, ts) => s.takeEach ((t :: ts).filterMap (fun t => t.boundaryTrap.map (fun tr => (g.key, t.tid, tr, t.seqPc)))) Thread.dropBoundary

/-- The attributed traps due before an instruction. -/
def State.takeAttr (s : State) (i : Option Instr) : State :=
  match s.curThreads with
  | none => s
  | some (g, t, ts) =>
    s.takeEach ((t :: ts).filterMap (fun t => (t.attrDue i).map (fun a => (g.key, t.tid, a.trap, a.pc))))
      (fun t => { t with attr := match t.attrDue i with | some a => t.attr.filter (fun z => decide (z ≠ a)) | none => t.attr })

/-- The parity traps of an instruction. -/
def State.takeParity (s : State) (i : Option Instr) : State :=
  match s.curThreads with
  | none => s
  | some (g, t, ts) => s.takeEach ((t :: ts).filterMap (fun t => (parityDue g t i).map (fun tr => (g.key, t.tid, tr, t.seqPc)))) id

/-- What an issue group does next: an instruction to run, or a state in which nothing is left to run. -/
inductive Front where
  | run (i : Instr) (s : State)
  | done (s : State)

/-- Traps due at the boundary, the fetch, the decoding and the attributed traps, in this order: the threads that
take none run the instruction. -/
def State.front (s : State) : Front :=
  let s := s.takeBoundary
  match s.curThreads with
  | none => .done { s with cur := none }
  | some (g, t, ts) =>
    match s.fetch g t.pc with
    | (s, .error none) => .done { s with cur := none }
    | (s, .error (some e)) => .done (State.settle ({ s with cur := none }, dues g.key (t :: ts) e))
    | (s, .ok w) =>
      let d := decode w
      let i := match d with | .ok i => some i | .error _ => none
      let s := (s.takeAttr i).takeParity i
      match s.curThreads with
      | none => .done { s with cur := none }
      | some (g, t, ts) =>
        match d with
        | .ok i => .run i (s.modThreads g.key ((t :: ts).map Thread.tid) (fun t => t.attrKeep (some i)))
        | .error e => .done (State.settle ({ s with cur := none }, dues g.key (t :: ts) (decodeTrap g w e)))

/-- The event that ends an outstanding operation. -/
def Pend.event (p : Pend) : Instr :=
  match p.kind with
  | .engine _ _ _ => .engineCommandComplete p.id
  | _ => if p.returns then .loadComplete p.id else .storePerformed p.id

/-- The commands that ENGINE_COMMAND_COMPLETE ends (R166); RSLV and MIGR wait for other steps. -/
def isCommand (i : Instr) : Bool :=
  isCopy i || (match i with | .selt _ _ _ => true | _ => false)

/-- Can an outstanding operation make progress now? -/
def State.pendMoves (s : State) (p : Pend) : Bool :=
  match p.kind with
  | .engine i _ _ => isCommand i && s.inOrder p
  | .fence _ => false
  | _ =>
    match s.needsOpen p with
    | some x => !decide (x ∈ s.peer.openSent)
    | none => (s.mates p).all s.mayPerform

/-- The request that a die makes for an access that it cannot serve (R342). -/
def State.dieRequest (s : State) (p : Pend) (a : Acc) : Option Instr :=
  match s.route p.who a p.rmw with
  | .die d pa =>
    if p.access && s.dieWants d (cohUnit pa) p.writes then
      some (if !p.writes then .rds d (cohUnit pa) else if (s.coh.copy? d (cohUnit pa)).isSome then .upg d (cohUnit pa) else .rdx d (cohUnit pa))
    else none
  | _ => none

/-- The arrival of a message of the coherence protocol (R342). -/
def State.arrival (s : State) (m : Msg) : Option Instr :=
  match m.kind with
  | .fwdS => some (.fwdS m.die m.line)
  | .fwdX => some (.fwdX m.die m.line)
  | .inv => some (.inv m.die m.line)
  | .data => some (.data m.die m.line)
  | .invack => some (.invack m.die m.line)
  | .fack => some (.fack m.line)
  | .done => if s.doneReady m.die m.line then some (.done m.die m.line) else none
  | .binv => some (.binv m.die m.line)
  | .rds | .rdx | .upg | .wb | .evc => none

/-- The move of a group: an issue of its core, the end of its threads' pauses, or its way into the active
set. -/
def State.groupMoves (s : State) (g : Group) : List Instr :=
  (if s.groupReady g then
    (if g.key.isQueue then [.queueThreadIssue g.core] else if g.active then [.issueSelect g.core g.quad] else [.groupSwap g.core g.quad])
   else []) ++
  (g.threads.filter Thread.paused).map (fun t => .pauseEnd g.key t.tid)

/-- The move of a team: the end of its staging, or its save. -/
def State.teamMoves (s : State) (t : Team) : List Instr :=
  match t.phase with
  | .staging => [.stagingComplete t.key]
  | .running => if t.req.isSome && s.allParked t.key && !s.teamBusy t.key then [.teamSave t.key] else []
  | .saved _ | .retired => []

/-- May a grid complete (R222)? -/
def State.gridEnds (s : State) (g : Grid) : Bool :=
  g.done.isNone && decide (g.nextTmid = g.rcd.teams) &&
    !s.teams.any (fun t => decide (t.key.ctx = g.ctx) && decide (t.key.grid = g.handle.toNat)) && !s.recordWaits g.ctx g.rcd.compl

/-- The array operation of a core that starts or completes next. -/
def Arr.moves (a : Arr) : List Instr :=
  a.ops.filterMap (fun o =>
    if o.stat.isSome then some (.arrayOpComplete a.core (arrPipe o.instr))
    else if o.mayStart (a.ops.takeWhile (fun p => decide (p.id ≠ o.id))) then some (.arrayOpStart a.core (arrPipe o.instr)) else none)

/-- The moves that the part's own agents can make now. -/
def State.moves (s : State) : List Instr :=
  s.coh.msgs.filterMap s.arrival ++
  (s.pends.filter s.pendMoves).map Pend.event ++
  s.pends.flatMap (fun p => p.accs.filterMap (s.dieRequest p)) ++
  s.arrs.flatMap Arr.moves ++
  s.groups.flatMap s.groupMoves ++
  s.teams.flatMap s.teamMoves ++
  (s.grids.filter s.gridEnds).map (fun g => .gridComplete g.ctx g.handle.toNat) ++
  (if s.nextHead.isSome then [.dispatchStep 0] else []) ++
  (s.mem.migr.filter Migr.running).map (fun m => .migrationLineMove m.ctx m.va) ++
  (if !s.dev.heldEvents.isEmpty && s.ringRoom then [.eventPost] else [])

/-- Who moves next when the agenda names nobody (DESIGN CHOICE, log entry 3): the moves that are possible
are taken in turn. -/
def State.defaultEvent (s : State) : Option Instr :=
  let l := s.moves
  l[s.turn % l.length]?

/-- The next event: the head of the agenda, or the default. -/
def State.nextEvent (s : State) : Option (Instr × State) :=
  match s.agenda with
  | e :: r => some (e, { s with agenda := r })
  | [] => s.defaultEvent.map (fun e => (e, { s with turn := s.turn + 1 }))

/-- Is the part stopped by a device-fatal error (R370, R379)? Only a device reset ends that. -/
def State.stopped (s : State) : Bool := s.dev.fatal

/-- Does an event begin with a device reset (R371)? -/
def isBoot (i : Instr) : Bool :=
  match i with
  | .boot _ _ _ _ => true
  | _ => false

/-! Placing an instruction for one step. -/

/-- The context of the placed instruction: page table root at 64 KiB, code at 1 MiB. -/
def placeCtx : Ctx :=
  { id := 0, ptRoot := 0x10000, saveBase := 0x200000, saveBytes := 0x100000, faultBase := 0x300000, faultLen := 64,
    vecFirst := 0, vecCount := 0, codeBase := 0x100000 }

/-- The page table and the words of the placed instruction: a level-3 entry, a 16 GiB leaf that is
readable, writable and executable at frame 0, and the words at the code address. -/
def placeMem (m : Memory) (words : List Word) : Memory :=
  (((m.writeWords 0x10000 [0x14001, 0]).writeWords 0x14000 [0xF9F, 0x01200000])).writeWords 0x100000 words

/-- A privileged queue thread at the code address. -/
def placeGroup : Group :=
  { key := .queue 0, width := 1, nregs := 232, threads := [{ tid := 0, lane := 0, pc := 0 }], priv := true, active := true }

/-- The state with the words placed where `step` runs them next (log entry 4). -/
def State.place (s : State) (words : List Word) : State :=
  { s with
    cur := some ⟨.queue 0, [0]⟩
    ctxs := placeCtx :: s.ctxs.filter (fun c => decide (c.id ≠ 0))
    groups := placeGroup :: s.groups.filter (fun g => decide (g.key ≠ .queue 0))
    mem := { s.mem with ram := placeMem s.mem.ram words, tlb := [], walks := [], icache := [], migr := [], poison := [] }
    coh := {}
    dev := { s.dev with fatal := false } }

end Sys2Proof.Machine
end

