-- ==== Sys2Proof/Machine/Step.lean ====
section
/-! DEFINITION. One step of the machine: the chosen issue group runs its instruction, or the next event
of the agenda takes place. -/

namespace Sys2Proof.Machine

/-- One step. A part that a device-fatal error has stopped does nothing until a device reset, which the
boot event begins (R370, R371, R379). With an issue group chosen, its
due traps are taken, or its instruction is fetched, decoded and run. With none, the next event of the
agenda, or of the default order, takes place (log entry 3). -/
def step (s : State) : Host.Outcome State Fault Refusal :=
  if s.stopped then
    match s.agenda with
    | e :: r => if isBoot e then exec e { s with agenda := r } else .next s
    | [] => .next s
  else
    match s.cur with
    | some _ =>
      match s.front with
      | .done s => .next s
      | .run i s => exec i s
    | none =>
      match s.nextEvent with
      | some (e, s) => exec e s
      | none => .next s

/-- The words of an instruction of `nbits` bits, and zero words after them up to the longest sequence. -/
def tableWords (nbits w : Nat) : List Word := [BitVec.ofNat 32 (w % 2 ^ nbits)]

/-- The state with an instruction placed where `step` runs it next (log entry 4). -/
def State.withFetchWord (s : State) (nbits w : Nat) : State := s.place (tableWords nbits w)

end Sys2Proof.Machine
end

