-- ==== Sys2Proof/Safety.lean ====
section
/-! DEFINITION. What a safe step and a safe run are, in the terms the statements use. -/

namespace Sys2Proof

/-- A step that neither faults nor is refused. -/
def StepOk (s : Machine.State) : Prop := ∃ t, Machine.step s = .next t

/-- A run of `n` steps that neither faults nor is refused. -/
def RunOk (n : Nat) (s : Machine.State) : Prop := ∃ t, core.run n s = .next t

/-- The canonical form of every byte memory of a state: global memory, tile memory, and the shared
memory of every team. -/
def MemOk (s : Machine.State) : Prop :=
  Machine.Memory.wf s.mem.ram = true ∧ Machine.Memory.wf s.mem.tile = true ∧
    ∀ t ∈ s.teams, Machine.Memory.wf t.shared = true

namespace Machine

/-- The issue group `ts` of group `g` has been chosen to run `i`, and the encoding checks of R71 pass for
the instruction with the hints that wait for it, which are the same in every participant (R135). -/
structure Chosen (i : Instr) (s : State) (g : Group) (ts : List Thread) : Prop where
  ready : ∃ c, s.cur = some c ∧ s.group? c.key = some g ∧ c.threads g = ts
  checks : ∃ t r, ts = t :: r ∧ encCheck g t.hints i = none ∧ ∀ u ∈ r, u.hints.payload = t.hints.payload

/-- The views of the participants. -/
def viewsOf (g : Group) (ts : List Thread) : List View := ts.map (View.mk g)

/-- Only threads of group `g` differ between two states, and only those of `ts`; no issue group is
chosen in the second. -/
structure OnlyThreads (g : Group) (ts : List Thread) (s s' : State) : Prop where
  rest : s' = { s with cur := none, groups := s'.groups }
  others : ∀ k, k ≠ g.key → s'.group? k = s.group? k
  group : ∃ l, s'.group? g.key = some { g with threads := l }
  threads : ∀ tid, tid ∉ ts.map Thread.tid → s'.thread? g.key tid = s.thread? g.key tid

end Machine

end Sys2Proof
end

