-- ==== Sys2Proof/Safety/Lanes.lean ====
section
/-! DEFINITION. Terms of the statements about lanes: what a result changes in a thread (R14, R65), and
what each instruction of classes 0x0 to 0x6 gives on the operands its rule accepts. -/

namespace Sys2Proof.Machine

/-- A thread after a result `r` for `d` with flags `fl`: the register and `lat` are written, 0xF8 writes
`lat` only, 0xF9 nothing; every other register keeps value and tag; FLAGS collects the flags; the PC is
at the next word; the hints are used up; everything else is unchanged but the traps held against the
overwritten registers, their parity marks and the owner of `lat` (R13, R14, R29, R65, R196). -/
structure Wrote (t t' : Thread) (d : Sel) (r : Reg) (fl : Fl) : Prop where
  dest : d.toNat < 0xF8 → t'.reg d.toNat = r
  lat : d.toNat ≤ 0xF8 → t'.reg 0xF8 = r
  others : ∀ n, n ≠ d.toNat → n ≠ 0xF8 → t'.reg n = t.reg n
  discarded : 0xF8 < d.toNat → ∀ n, t'.reg n = t.reg n
  flags : t'.flags = t.flags ||| fl.setWidth 64
  pc : t'.pc = t.pc + 4
  hints : t'.hints = {}
  rest : t' = { t with regs := t'.regs, flags := t'.flags, pc := t'.pc, hints := {}, attr := t'.attr, latOwner := t'.latOwner, parity := t'.parity }

/-- The instruction runs, and gives every participant its result and flags and changes nothing else. -/
def Gives (i : Instr) (s : State) (g : Group) (ts : List Thread) (d : Sel) (r : View → Reg) (fl : View → Fl) : Prop :=
  ∃ s', exec i s = .next s' ∧ OnlyThreads g ts s s' ∧
    ∀ t ∈ ts, g.thread? t.tid = some t → ∃ t', s'.thread? g.key t.tid = some t' ∧ Wrote t t' d (r ⟨g, t⟩) (fl ⟨g, t⟩)

/-- The value sources all carry one tag, `zero` taking that of the others, or INT when all are `zero`
(R15, R19). -/
def Carries (v : View) (srcs : List Sel) (T : Tag) : Prop :=
  (∀ x ∈ srcs, x ≠ 0xF9 → v.tag x = T) ∧ ((∀ x ∈ srcs, x = 0xF9) → T = .int)

/-- An instruction with value sources: destination, sources, tags accepted, tag of the result, and the
result with its flags. -/
structure ValueRow where
  d : Sel
  srcs : View → List Sel
  accept : Tag → Bool
  tag : Tag → Tag := id
  out : Tag → View → Word × Fl

/-- A row of two sources. -/
def row2 (d a b : Sel) (accept : Tag → Bool) (out : Tag → View → Word × Fl) : ValueRow := { d := d, srcs := fun _ => [a, b], accept := accept, out := out }
/-- A row of one source. -/
def row1 (d a : Sel) (accept : Tag → Bool) (out : Tag → View → Word × Fl) : ValueRow := { d := d, srcs := fun _ => [a], accept := accept, out := out }

/-- An operation on words for INT and NAT, and on the elements of a float tag otherwise (R87 to R89). -/
def wordOrFloat (T : Tag) (v : View) (iop : Word) (fop : Fmt → List Nat → Nat × Fl) (srcs : List Word) : Word × Fl :=
  if fltTag T then floatWise T (fmtOf T) v.t.flush (fop (fmtOf T)) srcs else (iop, 0)

/-- Class 0x0 (R89 to R94). -/
def arithRow : Instr → Option ValueRow
  | .add d a b => some (row2 d a b genTag (fun T v => wordOrFloat T v (v.val a + v.val b) (fun f l => fAdd f v.t.mode (f.decode (nth l 0 0)) (f.decode (nth l 1 0))) [v.val a, v.val b]))
  | .sub d a b => some (row2 d a b genTag (fun T v => wordOrFloat T v (v.val a - v.val b) (fun f l => fAdd f v.t.mode (f.decode (nth l 0 0)) (f.decode (nth l 1 0)).negate) [v.val a, v.val b]))
  | .mul d a b => some (row2 d a b genTag (fun T v => wordOrFloat T v (v.val a * v.val b) (fun f l => fMul f v.t.mode (f.decode (nth l 0 0)) (f.decode (nth l 1 0))) [v.val a, v.val b]))
  | .min d a b => some (row2 d a b genTag (fun T v => wordOrFloat T v (if intLt T (v.val b) (v.val a) then v.val b else v.val a) (fun f l => fMinMax f false (nth l 0 0) (nth l 1 0)) [v.val a, v.val b]))
  | .max d a b => some (row2 d a b genTag (fun T v => wordOrFloat T v (if intLt T (v.val a) (v.val b) then v.val b else v.val a) (fun f l => fMinMax f true (nth l 0 0) (nth l 1 0)) [v.val a, v.val b]))
  | .addi d a imm => some (row1 d a immTag (fun T v => wordOrFloat T v (v.val a + v.imm8 imm) (fun f l => fAdd f v.t.mode (f.decode (nth l 0 0)) (f.decode (nth l 1 0))) [v.val a, v.imm8 imm]))
  | .muli d a imm => some (row1 d a immTag (fun T v => wordOrFloat T v (v.val a * v.imm8 imm) (fun f l => fMul f v.t.mode (f.decode (nth l 0 0)) (f.decode (nth l 1 0))) [v.val a, v.imm8 imm]))
  | .mini d a imm => some (row1 d a immTag (fun T v => wordOrFloat T v (if intLt T (v.imm8 imm) (v.val a) then v.imm8 imm else v.val a) (fun f l => fMinMax f false (nth l 0 0) (nth l 1 0)) [v.val a, v.imm8 imm]))
  | .maxi d a imm => some (row1 d a immTag (fun T v => wordOrFloat T v (if intLt T (v.val a) (v.imm8 imm) then v.imm8 imm else v.val a) (fun f l => fMinMax f true (nth l 0 0) (nth l 1 0)) [v.val a, v.imm8 imm]))
  | .fma d a b => some {
      d := d, srcs := fun v => [a, b, v.t.hints.src.getD d], accept := genTag
      out := fun T v => wordOrFloat T v (v.val a * v.val b + v.val (v.t.hints.src.getD d)) (fun f l => fFma f v.t.mode (f.decode (nth l 0 0)) (f.decode (nth l 1 0)) (f.decode (nth l 2 0)))
        [v.val a, v.val b, v.val (v.t.hints.src.getD d)] }
  | .abs d a => some (row1 d a genTag (fun T v =>
      (if fltTag T then v.val a &&& ~~~ signBits T else if T = .int ∧ (v.val a).msb then -v.val a else v.val a, 0)))
  | .neg d a => some (row1 d a genTag (fun T v => (if fltTag T then v.val a ^^^ signBits T else -v.val a, 0)))
  | .cpsgn d a b => some (row2 d a b fltTag (fun T v => ((v.val a &&& ~~~ signBits T) ||| (v.val b &&& signBits T), 0)))
  | .sadd d a b => some (row2 d a b satTag (fun T v => satWise T (· + ·) (v.val a) (v.val b)))
  | .ssub d a b => some (row2 d a b satTag (fun T v => satWise T (· - ·) (v.val a) (v.val b)))
  | _ => none

/-- Class 0x1 (R95 to R97). -/
def integerRow : Instr → Option ValueRow
  | .mulhi d a b => some (row2 d a b (· == .int) (fun _ v => (BitVec.ofInt 32 ((v.val a).toInt * (v.val b).toInt / 2 ^ 32), 0)))
  | .mulhn d a b => some (row2 d a b (· == .nat) (fun _ v => (BitVec.ofNat 32 ((v.val a).toNat * (v.val b).toNat / 2 ^ 32), 0)))
  | .div d a b => some (row2 d a b (· == .int) (fun _ v =>
      (if v.val b = 0 then 0xFFFFFFFF else BitVec.ofInt 32 ((v.val a).toInt.tdiv (v.val b).toInt), 0)))
  | .rem d a b => some (row2 d a b (· == .int) (fun _ v =>
      (if v.val b = 0 then 0xFFFFFFFF else BitVec.ofInt 32 ((v.val a).toInt.tmod (v.val b).toInt), 0)))
  | .divn d a b => some (row2 d a b (· == .nat) (fun _ v => (if v.val b = 0 then 0xFFFFFFFF else v.val a / v.val b, 0)))
  | .remn d a b => some (row2 d a b (· == .nat) (fun _ v => (if v.val b = 0 then 0xFFFFFFFF else v.val a % v.val b, 0)))
  | .shl d a b => some (row2 d a b shiftTag (fun _ v => (v.val a <<< (v.val b).toNat, 0)))
  | .shr d a b => some (row2 d a b shiftTag (fun _ v => (v.val a >>> (v.val b).toNat, 0)))
  | .sra d a b => some (row2 d a b shiftTag (fun _ v => ((v.val a).sshiftRight (min (v.val b).toNat 31), 0)))
  | .rol d a b => some (row2 d a b shiftTag (fun _ v => ((v.val a).rotateLeft ((v.val b).toNat % 32), 0)))
  | .shli d a imm => some (row1 d a shiftTag (fun _ v => (v.val a <<< imm.toNat, 0)))
  | .shri d a imm => some (row1 d a shiftTag (fun _ v => (v.val a >>> imm.toNat, 0)))
  | .srai d a imm => some (row1 d a shiftTag (fun _ v => ((v.val a).sshiftRight (min imm.toNat 31), 0)))
  | .clz d a => some (row1 d a shiftTag (fun _ v => (BitVec.ofNat 32 ((wordBits (v.val a)).reverse.takeWhile (!·)).length, 0)))
  | .popc d a => some (row1 d a shiftTag (fun _ v => (BitVec.ofNat 32 ((wordBits (v.val a)).filter id).length, 0)))
  | .brev d a => some (row1 d a shiftTag (fun _ v => ((v.val a).reverse, 0)))
  | _ => none

/-- A class 0x3 function of one FLT source: the operand and the result pass FLUSH (R52, R102). -/
def fltRow (d a : Sel) (op : View → Nat → Nat × Fl) : ValueRow :=
  row1 d a (· == .flt) (fun _ v =>
    let r := flushOut v.t.flush (op v (flushIn v.t.flush (v.val a).toNat))
    (BitVec.ofNat 32 r.1, r.2))

/-- A class 0x3 function of two FLT sources. -/
def fltRow2 (d a b : Sel) (op : View → FVal → FVal → Nat × Fl) : ValueRow :=
  row2 d a b (· == .flt) (fun _ v =>
    let r := flushOut v.t.flush (op v (v.fval a) (v.fval b))
    (BitVec.ofNat 32 r.1, r.2))

/-- Class 0x3 (R102 to R106). -/
def floatRow : Instr → Option ValueRow
  | .divf d a b => some (fltRow2 d a b (fun v x y => fDiv v.t.mode x y))
  | .scalb d a b => some (fltRow2 d a b (fun v x y => fScalb v.t.mode x y))
  | .rcp d a => some (fltRow d a (fun _ => approxRcp))
  | .rsq d a => some (fltRow d a (fun _ => approxRsq))
  | .exp2 d a => some (fltRow d a (fun _ => approxExp2))
  | .log2 d a => some (fltRow d a (fun _ => approxLog2))
  | .sin d a => some (fltRow d a (fun _ => approxSinCos false))
  | .cos d a => some (fltRow d a (fun _ => approxSinCos true))
  | .tanh d a => some (fltRow d a (fun _ => approxTanh))
  | .sqrt d a => some (fltRow d a (fun v x => fSqrt v.t.mode (f32.decode x)))
  | .rint d a => some (fltRow d a (fun v x => fRint v.t.mode (f32.decode x)))
  | .fcls d a => some { row1 d a (· == .flt) (fun _ v => (BitVec.ofNat 32 (2 ^ fclsBit (flushIn v.t.flush (v.val a).toNat)), 0)) with tag := fun _ => .nat }
  | _ => none

/-- The outcome of a compare: 1 or 0 with tag PRED (R107, R108). -/
def cmpRow (row : ValueRow) : ValueRow := { row with tag := fun _ => .pred }

/-- A relation between two words in a tag, as a word with flags (R108). -/
def relation (r : Rel) (T : Tag) (v : View) (y : Word) (a : Sel) : Word × Fl :=
  if T = .flt then
    (if r.onFloat (v.fval a) (f32.decode (flushIn v.t.flush y.toNat)) then 1 else 0, cmpFl r.ordering (v.fval a) (f32.decode (flushIn v.t.flush y.toNat)))
  else (if r.ofOrder (intLt T (v.val a) y) (v.val a == y) (intLt T y (v.val a)) then 1 else 0, 0)

/-- Class 0x4 but CTAG (R107, R108). -/
def compareRow : Instr → Option ValueRow
  | .ceq d a b => some (cmpRow (row2 d a b eqTag (fun T v => relation .eq T v (v.val b) a)))
  | .cne d a b => some (cmpRow (row2 d a b eqTag (fun T v => relation .ne T v (v.val b) a)))
  | .clt d a b => some (cmpRow (row2 d a b immTag (fun T v => relation .lt T v (v.val b) a)))
  | .cle d a b => some (cmpRow (row2 d a b immTag (fun T v => relation .le T v (v.val b) a)))
  | .cuno d a b => some (cmpRow (row2 d a b (· == .flt) (fun T v => relation .uno T v (v.val b) a)))
  | .ceqi d a imm => some (cmpRow (row1 d a immTag (fun T v => relation .eq T v (v.imm8 imm) a)))
  | .cnei d a imm => some (cmpRow (row1 d a immTag (fun T v => relation .ne T v (v.imm8 imm) a)))
  | .clti d a imm => some (cmpRow (row1 d a immTag (fun T v => relation .lt T v (v.imm8 imm) a)))
  | .clei d a imm => some (cmpRow (row1 d a immTag (fun T v => relation .le T v (v.imm8 imm) a)))
  | .cgti d a imm => some (cmpRow (row1 d a immTag (fun T v => relation .gt T v (v.imm8 imm) a)))
  | .cgei d a imm => some (cmpRow (row1 d a immTag (fun T v => relation .ge T v (v.imm8 imm) a)))
  | _ => none

/-- An instruction whose operands have tag rules of their own: destination, the operands accepted, and the
result with its flags, from the views of the participants and the lane's own. -/
structure TagRow where
  d : Sel
  ok : View → Bool
  out : List View → View → Reg × Fl

/-- A bitwise row of tag RAW: any operand but VOID (R98). -/
def rawRow (d : Sel) (srcs : List Sel) (out : View → Word) : TagRow :=
  ⟨d, fun v => srcs.all (fun x => notVoid (v.tag x)), fun _ v => (⟨out v, .raw⟩, 0)⟩

/-- Class 0x2 (R98 to R101). -/
def logicRow : Instr → Option TagRow
  | .and d a b => some (rawRow d [a, b] (fun v => v.val a &&& v.val b))
  | .or d a b => some (rawRow d [a, b] (fun v => v.val a ||| v.val b))
  | .xor d a b => some (rawRow d [a, b] (fun v => v.val a ^^^ v.val b))
  | .andn d a b => some (rawRow d [a, b] (fun v => v.val a &&& ~~~ v.val b))
  | .orn d a b => some (rawRow d [a, b] (fun v => v.val a ||| ~~~ v.val b))
  | .not d a => some (rawRow d [a] (fun v => ~~~ v.val a))
  | .andi d a imm => some (rawRow d [a] (fun v => v.val a &&& v.imm8 imm))
  | .ori d a imm => some (rawRow d [a] (fun v => v.val a ||| v.imm8 imm))
  | .xori d a imm => some (rawRow d [a] (fun v => v.val a ^^^ v.imm8 imm))
  | .sel d a b => some ⟨d, fun v => notVoid (v.tag a) && notVoid (v.tag b) && notVoid (v.tag d),
      fun _ v => (if v.val d ≠ 0 then v.reg a else v.reg b, 0)⟩
  | .bfx d a b => some (rawRow d [a, b] (fun v =>
      BitVec.ofNat 32 ((v.val a).toNat / 2 ^ ((v.val b).toNat % 32) % 2 ^ min ((v.val b).toNat / 256 % 64) 32)))
  | .bfi d a b => some (rawRow d [a, b, d] (fun v =>
      (v.val d &&& ~~~ bfMask (v.val b)) ||| ((v.val a <<< ((v.val b).toNat % 32)) &&& bfMask (v.val b))))
  | .prmb d a b => some (rawRow d [a, b, d] (fun v =>
      wordOfBytes (prmbByte (v.val b ++ v.val a) (v.val d) 0) (prmbByte (v.val b ++ v.val a) (v.val d) 1)
        (prmbByte (v.val b ++ v.val a) (v.val d) 2) (prmbByte (v.val b ++ v.val a) (v.val d) 3)))
  | .lui d imm => some (rawRow d [] (fun _ => imm ++ (0 : BitVec 16)))
  | .lli d imm => some (rawRow d [d] (fun v => (v.val d).extractLsb' 16 16 ++ imm))
  | .mov d a => some ⟨d, fun v => notVoid (v.tag a), fun _ v => (v.reg a, 0)⟩
  | _ => none

/-- Class 0x5 and CTAG (R109 to R122): what its lane function of LaneConv.lean gives. -/
def convertRow : Instr → Option TagRow
  | .ctag d a imm => some ⟨d, fun _ => true, fun _ v => (⟨if (tagCode (v.tag a)).toNat = imm.toNat then 1 else 0, .pred⟩, 0)⟩
  | .cvt d a imm => some ⟨d, fun v => (v.tag a).numeric, fun _ v =>
      let dst := tagOf (imm.extractLsb' 0 4)
      let r := convReg (v.tag a) dst (cvtMode v imm) (imm.getLsbD 4) v.t.flush (v.val a)
      if v.tag a = dst then (⟨v.val a, dst⟩, 0) else (⟨r.1, dst⟩, r.2)⟩
  | .tagr d a imm => some ⟨d, fun v => notVoid (v.tag a), fun _ v => (⟨v.val a, tagOf (imm.extractLsb' 0 4)⟩, 0)⟩
  | .tagq d a => some ⟨d, fun _ => true, fun _ v => (⟨(tagCode (v.tag a)).setWidth 32, .nat⟩, 0)⟩
  | .pack d a b => some ⟨d, fun v => packedTag (v.tag a) && v.tag b == v.tag a, fun _ v =>
      (⟨joinElems (v.tag a) (nth (elems (v.tag a) (v.val b)) 0 0 :: (elems (v.tag a) (v.val a)).take (tagCount (v.tag a) - 1)), v.tag a⟩, 0)⟩
  | .unpkl d a imm => some ⟨d, fun v => packedTag (v.tag a) && unpackPair (v.tag a) (tagOf (imm.extractLsb' 0 4)), fun _ v =>
      let dst := tagOf (imm.extractLsb' 0 4)
      let rs := ((elems (v.tag a) (v.val a)).take (tagCount dst)).map (convElem (Tag.elem (v.tag a)) (Tag.elem dst) v.t.mode false v.t.flush)
      (⟨joinElems dst (rs.map Prod.fst), dst⟩, orFl rs)⟩
  | .unpkh d a imm => some ⟨d, fun v => packedTag (v.tag a) && unpackPair (v.tag a) (tagOf (imm.extractLsb' 0 4)), fun _ v =>
      let dst := tagOf (imm.extractLsb' 0 4)
      let rs := (((elems (v.tag a) (v.val a)).drop (tagCount dst)).take (tagCount dst)).map (convElem (Tag.elem (v.tag a)) (Tag.elem dst) v.t.mode false v.t.flush)
      (⟨joinElems dst (rs.map Prod.fst), dst⟩, orFl rs)⟩
  | .sclc d a b => some ⟨d, fun v => v.tag a == .flt && notVoid (v.tag b) && mxTag (tagOf ((v.val b).extractLsb' 0 4)), fun _ v =>
      let r := chooseScale (Tag.elem (tagOf ((v.val b).extractLsb' 0 4))) [v.fval a]
      (⟨BitVec.ofNat 32 r.1, .scale⟩, r.2)⟩
  | .qnt d a b => some ⟨d, fun v => v.tag a == .flt && v.tag b == .scale && mxTag (v.tag d), fun _ v =>
      let r := quantise (Tag.elem (v.tag d)) v.t.mode (scaleOf (v.val b) 0) (v.fval a)
      (⟨joinElems (v.tag d) (r.1 :: (elems (v.tag d) (v.val d)).take (tagCount (v.tag d) - 1)), v.tag d⟩, r.2)⟩
  | .dqnt d a b => some ⟨d, fun v => mxTag (v.tag a) && v.tag b == .scale && shiftTag (v.tag d), fun _ v =>
      let r := flushOut v.t.flush (roundTo32 v.t.mode (dequant (Tag.elem (v.tag a)) (scaleOf (v.val b) 0)
        (nth (elems (v.tag a) (v.val a)) ((v.val d).toNat % 8 % tagCount (v.tag a)) 0)))
      (⟨BitVec.ofNat 32 r.1, .flt⟩, r.2)⟩
  | .hadm d a imm => some ⟨d, fun v => v.tag a == .flt, fun ps v =>
      let n := if imm.getLsbD 0 then 32 else 16
      let xs := (List.range n).map (fun j =>
        match laneAt ps (v.t.lane / n * n + j : Nat) with
        | some p => p.fval a
        | none => .fin false 0 0)
      let r := flushOut v.t.flush (if xs.any FVal.isNan then (f32.nanCode, snanFl xs) else (sumTerms v.t.mode (hadTerms (v.t.lane % n) xs)).round f32 v.t.mode)
      (⟨BitVec.ofNat 32 r.1, .flt⟩, r.2)⟩
  | .trpk d a b => some ⟨d, fun v => v.tag a == .int4o && v.tag b == .int4o && v.tag d == .trit, fun _ v =>
      (⟨BitVec.ofNat 32 ((v.val d).toNat % 2 ^ 16 * 2 ^ 16 + tritByte (trits5 (v.val b)) * 256 + tritByte (trits5 (v.val a))), .trit⟩,
       if (trits5 (v.val a) ++ trits5 (v.val b)).any (fun x => decide (x < -1) || decide (1 < x)) then fSAT else 0)⟩
  | .trex d a imm => some ⟨d, fun v => v.tag a == .trit, fun _ v =>
      let r := tritsOf ((v.val a).toNat / 2 ^ (8 * imm.toNat) % 256)
      (⟨joinElems .int4o ((r.getD []).map (intCode 4)), .int4o⟩, if r.isSome then 0 else fNV)⟩
  | .lutx d a b => some ⟨d, fun v => (v.tag a == .int4o || v.tag a == .raw) && (bookTrap (codebook v.g b)).isNone, fun _ v =>
      let t := (nth (codebook v.g b) 0 Reg.void).tag
      (⟨joinElems t (((elems .int4o (v.val a)).take (tagCount t)).map (fun k => (nth (codebook v.g b) k Reg.void).val.toNat)), t⟩, 0)⟩
  | _ => none

/-- What lane `l` of the participants supplies: its own register where `l` takes no part (R125). -/
def supplied (ps : List View) (v : View) (a : Sel) (l : Int) : Reg :=
  match ps.find? (fun p => decide ((p.t.lane : Int) = l)) with
  | some p => p.reg a
  | none => v.reg a

/-- A row that moves a register between lanes. -/
def moveRow (d a : Sel) (ok : View → Bool) (lane : View → Int) : TagRow := ⟨d, fun v => notVoid (v.tag a) && ok v, fun ps v => (supplied ps v a (lane v), 0)⟩

/-- A row that gives one word from the participants. -/
def voteRow (d a : Sel) (tag : Tag) (out : List View → View → Word) : TagRow := ⟨d, fun v => notVoid (v.tag a), fun ps v => (⟨out ps v, tag⟩, 0)⟩

/-- A row that folds the participants' values in the lane's tag. -/
def foldRow (d a : Sel) (out : List View → View → Word × Fl) : TagRow := ⟨d, fun v => immTag (v.tag a), fun ps v => (⟨(out ps v).1, v.tag a⟩, (out ps v).2)⟩

/-- Class 0x6 (R123 to R127). -/
def crossRow : Instr → Option TagRow
  | .shfl d a b => some (moveRow d a (fun v => shiftTag (v.tag b)) (fun v => ((v.val b).toNat % v.g.width : Nat)))
  | .shflx d a imm => some (moveRow d a (fun _ => true) (fun v => (v.t.lane ^^^ imm.toNat : Nat)))
  | .shflu d a imm => some (moveRow d a (fun _ => true) (fun v => (v.t.lane : Int) - imm.toNat))
  | .shfld d a imm => some (moveRow d a (fun _ => true) (fun v => (v.t.lane : Int) + imm.toNat))
  | .bcst d a imm => some (moveRow d a (fun _ => true) (fun _ => imm.toNat))
  | .vall d a => some (voteRow d a .pred (fun ps _ => if ps.all (fun p => p.val a != 0) then 1 else 0))
  | .vany d a => some (voteRow d a .pred (fun ps _ => if ps.any (fun p => p.val a != 0) then 1 else 0))
  | .ballot d a => some (voteRow d a .nat (fun ps v => maskHalf v ((ps.filter (fun p => p.val a != 0)).map (·.t.lane))))
  | .matchAny d a => some (voteRow d a .nat (fun ps v => maskHalf v ((ps.filter (fun p => p.val a == v.val a)).map (·.t.lane))))
  | .rdadd d a => some (foldRow d a (fun ps v => sumLanes v (v.tag a) a ps))
  | .scan d a => some (foldRow d a (fun ps v => sumLanes v (v.tag a) a (ps.filter (fun p => decide (p.t.lane ≤ v.t.lane)))))
  | .rdmax d a => some (foldRow d a (fun ps v => extremeLanes true v.t.flush (v.tag a) a ps))
  | .rdmin d a => some (foldRow d a (fun ps v => extremeLanes false v.t.flush (v.tag a) a ps))
  | .rank d a => some ⟨d, fun v => immTag (v.tag a), fun ps v =>
      (⟨BitVec.ofNat 32 (ps.filter (fun p => keyLt (v.tag a) a p v || (!keyLt (v.tag a) a v p && decide (p.t.lane < v.t.lane)))).length, .nat⟩, 0)⟩
  | .cmpct d a b => some ⟨d, fun v => notVoid (v.tag a) && notVoid (v.tag b), fun ps v =>
      (match ((byLane ps).filter (fun p => p.val b != 0))[(ps.filter (fun p => decide (p.t.lane < v.t.lane))).length]? with
       | some p => p.reg a
       | none => ⟨0, v.tag a⟩, 0)⟩
  | _ => none

end Sys2Proof.Machine
end

