-- ==== Sys2Proof/Safety/Control.lean ====
section
/-! DEFINITION. Terms of the statements about control transfers, hints and traps. -/

namespace Sys2Proof.Machine

/-- A control instruction: the operand values it accepts, where it goes, and the register that gets the
return address (R128, R129). -/
structure ControlRow where
  ok : View → Bool
  dest : View → Word
  link : Option Sel := none

/-- A target register: RAW, INT or NAT, a multiple of 4 (R129). -/
def targetOk (a : Sel) (v : View) : Bool := addrTag (v.tag a) && decide ((v.val a).toNat % 4 = 0)

/-- Class 0x7 without EXIT, YIELD, IDEM and PAUSE (R128, R129). -/
def controlRow : Instr → Option ControlRow
  | .br off => some { ok := fun _ => true, dest := fun v => v.target off }
  | .bnz a off => some { ok := fun v => notVoid (v.tag a), dest := fun v => if v.val a ≠ 0 then v.target off else v.t.pc + 4 }
  | .bz a off => some { ok := fun v => notVoid (v.tag a), dest := fun v => if v.val a = 0 then v.target off else v.t.pc + 4 }
  | .brx a => some { ok := targetOk a, dest := fun v => v.val a }
  | .call a off => some { ok := fun _ => true, dest := fun v => v.target off, link := some a }
  | .callx d a => some { ok := targetOk a, dest := fun v => v.val a, link := some d }
  | .ret a => some { ok := targetOk a, dest := fun v => v.val a }
  | .nop => some { ok := fun _ => true, dest := fun v => v.t.pc + 4 }
  | _ => none

/-- A thread after a control instruction: the return address written, the PC, no hint pending. -/
def Jumped (row : ControlRow) (g : Group) (t t' : Thread) : Prop :=
  ∃ u, (match row.link with | none => u = t | some d => Wrote t u d ⟨t.pc + 4, .nat⟩ 0) ∧ t' = { u with pc := row.dest ⟨g, t⟩, hints := {} }

/-- What a hint adds to those pending (R72). -/
def hintRow : Instr → Option (Hints → Hints)
  | .himm p => some (fun h => { h with imm := some p })
  | .hsrc r => some (fun h => { h with src := some r })
  | .hrnd m => some (fun h => { h with rnd := some m })
  | .hord f u sc => some (fun h => { h with ord := some (f, u, sc) })
  | .hpol p => some (fun h => { h with pol := some p })
  | .hsch c => some (fun h => { h with sch := some c })
  | .hoff o => some (fun h => { h with off := some o })
  | _ => none

/-- A thread that has taken a trap into its handler (R236): the registers of the trap, HANDLER mode, no
hint and no wait, the PC at the handler; every register but v232 to v239 as before. -/
structure Trapped (t t' : Thread) (tr : Trap) (pc handler : Word) : Prop where
  cause : t'.trapCause = BitVec.ofNat 64 (tr.cause.code + 2 ^ 8 * tr.kind.code + 2 ^ 16 * tr.sub)
  trapPc : t'.trapPc = pc.setWidth 64
  val : t'.trapVal = tr.val
  inHandler : t'.inHandler = true
  pc : t'.pc = handler
  hints : t'.hints = {}
  regs : ∀ n, n < 232 ∨ 240 ≤ n → t'.reg n = t.reg n
  flags : t'.flags = t.flags
  rndm : t'.rndm = t.rndm
  free : t' = { t with
    trapCause := t'.trapCause, trapPc := t'.trapPc, trapVal := t'.trapVal, inHandler := true, hints := {}, pc := handler, regs := t'.regs,
    block := none, paused := false, parity := t'.parity }

end Sys2Proof.Machine
end

