-- ==== Sys2Proof/Safety/Access.lean ====
section
/-! DEFINITION. Terms of the statements about memory accesses: what each load, store and atomic asks of
memory (R137 to R148), and the operation that its issue leaves outstanding. -/

namespace Sys2Proof.Machine

/-- A memory instruction: space, words, the register that holds the address, the data registers it reads,
and what the operation will do. -/
structure AccessRow where
  sp : Space
  n : Nat := 1
  need : Need := .rd
  a : Sel
  /-- tags of the data registers accepted -/
  data : View → Bool := fun _ => true
  acq : View → Bool := fun v => v.order.1
  rel : View → Bool := fun v => v.order.2
  /-- a synchronisation access, which the scope checker sees when it is global (R258) -/
  syncs : View → Bool := fun v => v.order.1
  write : Bool := false
  closes : Bool := false
  stream : BitVec 4
  /-- the comparison of a CAS decides whether it writes (R284) -/
  cas : Bool := false
  /-- the cache policy (R70, R72) -/
  pol : View → Nat := View.pol
  /-- destinations of the words of a part, which carry their index -/
  dests : View → List (Nat × Acc) → List (Sel × Tag) := fun _ _ => []
  kind : View → List (Nat × Acc) → PendKind

/-- A load of `n` words (R140). -/
def loadRow (sp : Space) (n : Nat) (acq : Bool) (d a : Sel) (st t : BitVec 4) : AccessRow :=
  { sp := sp, n := n, a := a, acq := fun v => acq || v.order.1, rel := fun _ => false, syncs := fun v => acq || v.order.1, stream := st
    dests := fun _ ws => ws.map (fun x => (d + BitVec.ofNat 8 x.1, tagOf t)), kind := fun _ ws => .load (ws.map Prod.snd) }

/-- A store of `n` words (R141); STSF sets the full bit of its granule (R144). -/
def storeRow (sp : Space) (n : Nat) (rel full : Bool) (d a : Sel) (st : BitVec 4) (pol : BitVec 2) : AccessRow :=
  { sp := sp, n := n, need := .wr, a := a, data := fun v => (List.range n).all (fun k => notVoid (v.regAt d k).tag), acq := fun _ => false
    rel := fun v => rel || v.order.2, syncs := fun v => rel || v.order.2, write := true, stream := st, pol := fun _ => pol.toNat
    kind := fun v ws => .store (ws.map (fun x => (x.2, (v.regAt d x.1).val))) (if full then some (sharedKey v.g.upper (v.address .shared a) / 16) else none) }

/-- An atomic, with or without a result (R145 to R147). -/
def atomicRow (sp : Space) (ret : Bool) (d a : Sel) (st : BitVec 4) (op : AOp) : AccessRow :=
  { sp := sp, need := .rw, a := a, data := fun v => aopTag op (v.tag d), syncs := fun _ => true, write := true, closes := true, stream := st
    dests := fun v _ => if ret then [(d, v.tag d)] else []
    kind := fun v ws => .atomic (ws.headD (0, { loc := .tile 0 })).2 op (v.tag d) (v.val d) ret }

/-- A compare-and-swap (R148). -/
def casRow (sp : Space) (d a : Sel) (st : BitVec 4) : AccessRow :=
  { sp := sp, need := .rw, a := a, data := fun v => (List.range 2).all (fun k => notVoid (v.regAt d k).tag), syncs := fun _ => true, write := true
    closes := true, cas := true, stream := st, dests := fun v _ => [(d, v.tag d), (d + 1, .pred)]
    kind := fun v ws => .cas (ws.headD (0, { loc := .tile 0 })).2 (v.regAt d 0).val (v.regAt d 1).val (match v.t.hints.ord with | some (f, _, _) => f | none => false) }

/-- The loads but LDP, LDSE and LDSC, the stores, the atomics and the compare-and-swaps. -/
def accessRow : Instr → Option AccessRow
  | .lds d a st t => some (loadRow .shared 1 false d a st t)
  | .lds2 d a st t => some (loadRow .shared 2 false d a st t)
  | .lds4 d a st t => some (loadRow .shared 4 false d a st t)
  | .ldt d a st t => some (loadRow .tile 1 false d a st t)
  | .ldt2 d a st t => some (loadRow .tile 2 false d a st t)
  | .ldt4 d a st t => some (loadRow .tile 4 false d a st t)
  | .ldg d a st t => some (loadRow .global 1 false d a st t)
  | .ldg2 d a st t => some (loadRow .global 2 false d a st t)
  | .ldg4 d a st t => some (loadRow .global 4 false d a st t)
  | .ldga d a st t => some (loadRow .global 1 true d a st t)
  | .ldta d a st t => some (loadRow .tile 1 true d a st t)
  | .sts d a st pol => some (storeRow .shared 1 false false d a st pol)
  | .sts2 d a st pol => some (storeRow .shared 2 false false d a st pol)
  | .sts4 d a st pol => some (storeRow .shared 4 false false d a st pol)
  | .stsf d a st pol => some (storeRow .shared 1 false true d a st pol)
  | .stt d a st pol => some (storeRow .tile 1 false false d a st pol)
  | .stt2 d a st pol => some (storeRow .tile 2 false false d a st pol)
  | .stt4 d a st pol => some (storeRow .tile 4 false false d a st pol)
  | .stg d a st pol => some (storeRow .global 1 false false d a st pol)
  | .stg2 d a st pol => some (storeRow .global 2 false false d a st pol)
  | .stg4 d a st pol => some (storeRow .global 4 false false d a st pol)
  | .stgr d a st pol => some (storeRow .global 1 true false d a st pol)
  | .sttr d a st pol => some (storeRow .tile 1 true false d a st pol)
  | .atg d a st op => some (atomicRow .global false d a st op)
  | .atgr d a st op => some (atomicRow .global true d a st op)
  | .ats d a st op => some (atomicRow .shared false d a st op)
  | .atsr d a st op => some (atomicRow .shared true d a st op)
  | .casg d a st => some (casRow .global d a st)
  | .cass d a st => some (casRow .shared d a st)
  | _ => none

/-- What the row asks of memory for a lane. -/
def AccessRow.op (row : AccessRow) (v : View) : MemOp :=
  { sp := row.sp, n := row.n, need := row.need, write := row.write, acq := row.acq v, rel := row.rel v, scope := v.scope row.sp
    sync := row.syncs v && decide (row.sp = .global), stream := row.stream.toNat, pol := row.pol v, cas := row.cas, closes := row.closes }

/-- The operands of a lane are accepted: the address by R19, the data by the row. -/
def AccessRow.ok (row : AccessRow) (v : View) : Bool := addrTag (v.addrTagOf row.sp row.a) && row.data v

/-- The addresses whose D bits an issue sets first: those of a global access that is sure to write (R284). -/
def AccessRow.marks (row : AccessRow) (v : View) : List Nat :=
  if row.write && !row.cas && decide (row.sp = .global) then (List.range row.n).map (wordAddr .global (v.address .global row.a)) else []

/-- The operation that the issue leaves outstanding for one part of the access: all its words, or one of them; it
has the ordering class of its first word's page, and the peer that serves it, if one does (R139, R252, R253). -/
structure Issued (row : AccessRow) (g : Group) (t : Thread) (batch id : Nat) (ws : List (Nat × Acc)) (p : Pend) : Prop where
  id : p.id = id
  key : p.key = g.key
  tid : p.tid = t.tid
  pc : p.pc = t.seqPc
  kind : p.kind = row.kind ⟨g, t⟩ ws
  dests : p.dests = row.dests ⟨g, t⟩ ws
  stream : p.stream = row.stream.toNat
  acq : p.acq = row.acq ⟨g, t⟩
  rel : p.rel = row.rel ⟨g, t⟩
  scope : p.scope = View.scope ⟨g, t⟩ row.sp
  page : ∀ x, ws.head? = some x → p.ord = x.2.ord ∧ p.peer = x.2.peer
  pol : p.pol = row.pol ⟨g, t⟩
  batch : p.batch = batch
  view : p.ctx = g.ctx ∧ p.vtag = g.vid

/-- A thread whose access has issued: the PC moves on, the hints are used up, and every register keeps
its value until the operation is performed. -/
structure Passed (t t' : Thread) (closes : Bool) : Prop where
  pc : t'.pc = t.pc + 4
  hints : t'.hints = {}
  rest : t' = { t with pc := t'.pc, hints := {}, latOwner := t'.latOwner, regionOpen := t.regionOpen && !closes }

end Sys2Proof.Machine
end

