-- ==== Sys2Proof/Safety/Sync.lean ====
section
/-! DEFINITION. Terms of the statements about locks, fences and barriers. -/

namespace Sys2Proof.Machine

/-- The stream of a lock instruction (R70). -/
def lockStream : Instr → BitVec 4
  | .llock _ _ st | .ltry _ _ st | .lunlk _ _ st | .lstat _ _ st => st
  | _ => 0

/-- A lock instruction of one thread whose operand is accepted, whose address passes the checks of R138
and R149, and which the scope checker accepts (R258): LLOCK, LTRY and LUNLK need RD and W (R283). It may go to the home
slice of its line `now`, or it must wait: for its line, or for what the thread has issued and must come first, for LUNLK
every access (R154, R160, R251). -/
structure LockReaches (i : Instr) (a : Sel) (lock waits : Bool) (s : State) (g : Group) (t : Thread) (line : Nat) (now : Bool := true) : Prop where
  chosen : Chosen i s g [t]
  here : g.thread? t.tid = some t
  tag : addrTag (View.pairTag ⟨g, t⟩ addrTag a) = true
  aligned : View.address ⟨g, t⟩ .global a % 4 = 0
  reaches : ∃ s0 acc rest pa sx,
    State.locate { s with cur := none } g .global (if lock then .rw else .rd) (View.address ⟨g, t⟩ .global a) 1 = (s0, .ok (acc :: rest)) ∧
    acc.loc = .global pa ∧ deviceHomed pa = true ∧ (s0.lineHeld pa || s0.lockWaits g [t] acc acc.ord (lockStream i) waits) = !now ∧
    line = lineOf (s0.fwd pa) ∧ s0.scopeCheck g.key .dev line = .ok sx ∧ (sx.recall line).groups = s.groups ∧ (sx.recall line).locks = s.locks

/-- A thread that a lock instruction has answered: STAT in d, the PC moved on, no wait. -/
structure Answered (t t' : Thread) (d : Sel) (w : Word) : Prop where
  stat : d.toNat < 0xF8 → t'.reg d.toNat = ⟨w, .stat⟩
  others : ∀ n, n ≠ d.toNat → n ≠ 0xF8 → t'.reg n = t.reg n
  pc : t'.pc = t.pc + 4
  hints : t'.hints = {}
  block : t'.block = none
  flags : t'.flags = t.flags

/-- What a lock instruction leaves alone: every part of the state but its own group, the locks, the scope checker's
records and the caches; the group's other threads; tile memory; and, where no L1 and no die holds a line, every
word, as the translation of its address left it. -/
structure LockFrame (a : Sel) (lock : Bool) (s : State) (g : Group) (t : Thread) (s' : State) : Prop where
  rest : s' = { s with cur := none, groups := s'.groups, locks := s'.locks, scopes := s'.scopes, mem := s'.mem, coh := s'.coh }
  others : ∀ k, k ≠ g.key → s'.group? k = s.group? k
  threads : ∀ tid, tid ≠ t.tid → s'.thread? g.key tid = s.thread? g.key tid
  tile : s'.mem.tile = s.mem.tile
  words : s.coh.self = [] → s.coh.copies = [] → ∀ pa, pa % 4 = 0 → s'.peek pa =
    (State.locate { s with cur := none } g .global (if lock then .rw else .rd) (View.address ⟨g, t⟩ .global a) 1).1.peek pa

/-- The instruction ends with a STAT in its one thread, at a state `s'` of which `P` says more. -/
def Answers (i : Instr) (a : Sel) (lock : Bool) (s : State) (g : Group) (t : Thread) (d : Sel) (w : Word) (P : State → Prop) : Prop :=
  ∃ s' t', exec i s = .next s' ∧ s'.thread? g.key t.tid = some t' ∧ Answered t t' d w ∧ LockFrame a lock s g t s' ∧ P s'

/-- A barrier instruction: its number and level, whether it is named by a register, and its token. -/
structure BarRow where
  d : Sel
  name : View → BitVec 8
  reg : Option Sel := none

/-- The barrier instructions by what they do: 0 BARV, 1 BARW, 2 BARS, 3 BARQ (R70, R162). -/
def barRow : Instr → Option (Nat × BarRow)
  | .barv d imm => some (0, { d := d, name := fun _ => imm })
  | .barw d imm => some (1, { d := d, name := fun _ => imm })
  | .bars d imm => some (2, { d := d, name := fun _ => imm })
  | .barq d imm => some (3, { d := d, name := fun _ => imm })
  | .barvReg d a => some (0, { d := d, name := fun v => (v.val a).extractLsb' 0 8, reg := some a })
  | .barwReg d a => some (1, { d := d, name := fun v => (v.val a).extractLsb' 0 8, reg := some a })
  | .barsReg d a => some (2, { d := d, name := fun v => (v.val a).extractLsb' 0 8, reg := some a })
  | .barqReg d a => some (3, { d := d, name := fun v => (v.val a).extractLsb' 0 8, reg := some a })
  | _ => none

/-- A barrier instruction of one thread that passes its checks (R70, R162, R164): the registers read are
not VOID, the name is one R70 allows, and the barrier is declared and the token names it. -/
structure BarReady (i : Instr) (op : Nat) (row : BarRow) (s : State) (g : Group) (t : Thread) : Prop where
  chosen : Chosen i s g [t]
  isRow : barRow i = some (op, row)
  tags : (∀ a, row.reg = some a → View.tag ⟨g, t⟩ a ≠ .void) ∧ (op = 1 ∨ op = 3 → View.tag ⟨g, t⟩ row.d ≠ .void)
  name : barImmOk (row.name ⟨g, t⟩) = true
  pass : State.barTrap s g.key (row.name ⟨g, t⟩) (if op = 1 ∨ op = 3 then some (View.val ⟨g, t⟩ row.d) else none) = none
  done : op = 0 → s.outstanding g.key [t.tid] = false

end Sys2Proof.Machine
end

