-- ==== Sys2Proof/Safety/Perform.lean ====
section
/-! DEFINITION. Terms of the statements about the performing of accesses (R247, R250) and about the end
of a thread (R131). -/

namespace Sys2Proof.Machine

/-- The word at the serialisation point of an access (R245, R247). -/
def State.valueAt (s : State) (a : Acc) : Word :=
  match a.loc with
  | .shared t x => s.readShared t x
  | .tile x => s.readTile x
  | .global pa => s.peek (s.fwd pa)

/-- A word whose serialisation point is reached directly: shared memory of a team, tile memory, or a
global word of the device on an NC page and not versioned, of which no cache holds a copy; a tile word of no
live version's allocation. -/
def State.plain (s : State) (a : Acc) : Prop :=
  match a.loc with
  | .shared t x => x % 4 = 0 ∧ (s.team? t).isSome = true
  | .tile x => s.mem.vaults = [] ∧ ∀ c, s.tileOwner c x = none
  | .global pa =>
    a.coh = .nc ∧ a.versioned = false ∧ s.fwd pa % 4 = 0 ∧ s.fwd pa < peerBit ∧
      (∀ x ∈ s.coh.copies, x.line ≠ lineOf (s.fwd pa)) ∧ ∀ x ∈ s.coh.self, x.line ≠ lineOf (s.fwd pa)

/-- The lines that caches hold are whole lines: of 128 bytes in an L1, and units of the directory in a die. -/
structure LinesOk (s : State) : Prop where
  self : ∀ x ∈ s.coh.self, x.line % 128 = 0
  copies : ∀ x ∈ s.coh.copies, x.line = cohUnit x.line

/-- An operation that may be performed now: what must come before it has been performed, no fence waits,
nothing on its words has failed, no other lane reads the same bank word with it (R267), no peer serves it, and its group
has not ended, so that no gang waits for it (R187). -/
structure Performable (s : State) (p : Pend) : Prop where
  here : s.pends.find? (fun q => decide (q.id = p.id)) = some p
  fences : ∀ q ∈ s.pends, ∀ m, q.kind ≠ .fence m
  may : s.mayPerform p = true
  peer : p.peer = none
  sound : p.accs.any (fun a => s.accPortDown a || s.accLost a || s.accPoison p.who a p.rmw) = false
  alone : s.mates p = [p]
  lines : LinesOk s
  teams : ∀ x ∈ s.teams, x.phase ≠ .retired
  live : ∀ g, s.group? p.key = some g → g.threads.all Thread.exited = false

/-- Its words are reached directly, and where its page is SO its core's L1 holds no SELF line that would go first
(R251). -/
structure PlainWords (s : State) (p : Pend) : Prop where
  plain : ∀ a ∈ p.accs, s.plain a
  so : p.ord = .so → ∀ x ∈ s.coh.self, x.core ≠ p.group.l1

/-- It carries no acquire and no release, and its page is not SO. -/
structure Unordered (p : Pend) : Prop where
  acq : p.acq = false
  rel : p.rel = false
  so : p.ord ≠ .so ∧ ∀ a ∈ p.accs, a.ord ≠ .so

/-- A copy with no word of where it stands. -/
def LineCopy.placeless (c : LineCopy) : LineCopy := { c with pool := false }

/-- What the use of lines in the caches may move: their tags, the place of a version's copy, the marks of a burst that
leaves L2, and halves of host lines that go back to the host (R277, R344, R357). No word of the device changes, and
none of the host where the device holds no half. -/
structure CachesMove (s s' : State) : Prop where
  mem : s'.mem = { s.mem with ram := s'.mem.ram, l2 := s'.mem.l2, copies := s'.mem.copies, poison := s'.mem.poison }
  coh : s'.coh = { s.coh with l1 := s'.coh.l1, halves := s'.coh.halves }
  copies : s'.mem.copies.map LineCopy.placeless = s.mem.copies.map LineCopy.placeless
  words : ∀ pa, pa < hostBit → pa % 4 = 0 → s'.peek pa = s.peek pa
  host : s.coh.halves = [] → s'.mem.ram = s.mem.ram ∧ s'.coh.halves = []

/-- After an operation has been performed: it has left the list, and the registers of every group but
the one named stand as they did. -/
structure PerformedOf (s s' : State) (p : Pend) : Prop where
  pends : s'.pends = s.pends.filter (fun q => decide (q.id ≠ p.id))
  groups : ∀ k, k ≠ p.key → s'.group? k = s.group? k
  locks : s'.locks = s.locks
  ctxs : s'.ctxs = s.ctxs
  grids : s'.grids = s.grids

/-- A late result in a thread (R14): the register, and `lat` while the operation owns it. -/
structure Received (t t' : Thread) (id : Nat) (d : Sel) (r : Reg) : Prop where
  dest : d.toNat < 0xF8 → t'.reg d.toNat = r
  lat : t.latOwner = some id → t'.reg 0xF8 = r ∧ t'.latOwner = none
  kept : t.latOwner ≠ some id → t'.reg 0xF8 = t.reg 0xF8
  others : ∀ n, n ≠ d.toNat → n ≠ 0xF8 → t'.reg n = t.reg n
  pc : t'.pc = t.pc
  flags : t'.flags = t.flags

/-- The late results of a set in a thread (R14, R140): every register, and `lat`, which gets the first, while the operation
owns it. -/
structure ReceivedAll (t t' : Thread) (id : Nat) (l : List (Sel × Reg)) : Prop where
  dests : ∀ x ∈ l, x.1.toNat < 0xF8 → t'.reg x.1.toNat = x.2
  lat : ∀ x r, l = x :: r → t.latOwner = some id → t'.reg 0xF8 = x.2 ∧ t'.latOwner = none
  kept : t.latOwner ≠ some id → t'.reg 0xF8 = t.reg 0xF8
  others : ∀ n, (∀ x ∈ l, n ≠ x.1.toNat) → n ≠ 0xF8 → t'.reg n = t.reg n
  pc : t'.pc = t.pc
  flags : t'.flags = t.flags

/-- Every plain word outside a set of places reads as before. -/
def WordsKept (s s' : State) (but : List Loc) : Prop := ∀ b, s.plain b → s.locOf b ∉ but → s'.valueAt b = s.valueAt b

/-- A word stored: it reads back, and every other word of the same kind reads as before. -/
def StoredAt (s s' : State) (a : Acc) (w : Word) : Prop :=
  s'.valueAt a = w ∧ ∀ b, s.plain b → s.locOf b ≠ s.locOf a → s'.valueAt b = s.valueAt b

end Sys2Proof.Machine
end

