-- ==== Sys2Proof/Safety/Engines.lean ====
section
/-! DEFINITION. Terms of the statements about the engines (R166 to R176) and the digit arrays (R179 to
R216). -/

namespace Sys2Proof.Machine

/-- An engine command: its destination, the operands it accepts, the values it carries, and the layout
kind of its handle (1 KV, 2 dense) if it takes one (R169 to R176). -/
structure EngineRow where
  d : Sel
  ok : View → Bool
  vals : View → List DWord
  handle : Option Nat := none

/-- Are registers tagged as integers (R166)? -/
def intRegs (l : List Sel) (v : View) : Bool := l.all (fun x => addrTag (v.tag x))

/-- An HSRC operand is there. -/
def withHsrc (v : View) : Bool := v.t.hints.src.isSome

def engineRow : Instr → Option EngineRow
  | .cpy d a b => some {
      d := d
      ok := fun v => addrTag (v.tag d) && addrTag (v.cpyTag ((v.val d).toNat / 4 % 4) a) && addrTag (v.cpyTag ((v.val d).toNat / 16 % 4) b)
      vals := fun v => [(v.val d).setWidth 64, v.cpyAddr ((v.val d).toNat / 4 % 4) a, v.cpyAddr ((v.val d).toNat / 16 % 4) b] }
  | .bcpy d a b => some {
      d := d, ok := fun v => withHsrc v && intRegs [v.hsrc, a, b] v, vals := fun v => [(v.val a).setWidth 64, (v.val b).setWidth 64], handle := some 1 }
  | .tcpy d a b => some {
      d := d, ok := fun v => withHsrc v && intRegs [v.hsrc, d, a, b] v
      vals := fun v => [(v.val d).setWidth 64, (v.val a).setWidth 64, (v.val b).setWidth 64], handle := some 2 }
  | .kvapp d a b => some {
      d := d, ok := fun v => withHsrc v && intRegs [v.hsrc, a, b] v, vals := fun v => [(v.val a).setWidth 64, (v.val b).setWidth 64], handle := some 1 }
  | .selt d a b => some {
      d := d, ok := fun v => withHsrc v && decide (v.tag v.hsrc = .flt) && intRegs [d, a, b] v
      vals := fun v => [(v.val v.hsrc).setWidth 64, (v.val d).setWidth 64, (v.val a).setWidth 64, (v.val b).setWidth 64] }
  | _ => none

/-- Word `k` of a run of CPY in shared memory of a team, or in tile memory (R169). -/
def cpyAcc (team : TKey) (upper : Bool) (sp : Space) (x k : Nat) : Acc :=
  { loc := if sp = .tile then .tile (x + k) else .shared team (sharedKey upper (x % 2 ^ 20 + 4 * k)) }

/-! What the engines move. -/

/-- A word that a command of version 0 reaches at its home: shared memory of a team, tile memory of no live version's
allocation, or a global word of the device of which no cache holds a copy. -/
def State.atHome (s : State) (a : Acc) : Prop :=
  match a.loc with
  | .shared t x => x % 4 = 0 ∧ (s.team? t).isSome = true
  | .tile x => s.mem.vaults = [] ∧ ∀ c, s.tileOwner c x = none
  | .global pa =>
    s.fwd pa % 4 = 0 ∧ s.fwd pa < peerBit ∧ (∀ x ∈ s.coh.copies, x.line ≠ lineOf (s.fwd pa)) ∧ ∀ x ∈ s.coh.self, x.line ≠ lineOf (s.fwd pa)

/-- Every word at its home outside a set of places reads as before. -/
def HomeKept (s s' : State) (but : List Loc) : Prop := ∀ b, s.atHome b → s.locOf b ∉ but → s'.valueAt b = s.valueAt b

/-- Nothing is in a command's way in a state: it belongs to version 0 and carries no acquire and no release, its core's
L1 holds no SELF line, no word is marked, where it stands or on its way, and no thread waits for a full bit. -/
structure EngClear (s : State) (p : Pend) : Prop where
  version : p.vtag = 0
  flags : p.acq = false ∧ p.rel = false
  self : ∀ x ∈ s.coh.self, x.core ≠ p.group.l1
  clean : s.mem.poison = [] ∧ s.mem.tilePoison = [] ∧ ∀ x ∈ s.teams, x.poison = [] ∧ x.bankQ = []
  moving : (∀ m ∈ s.coh.miss, m.poison = 0) ∧ ∀ m ∈ s.coh.msgs, m.poison = 0

/-- The D bits of pages are known to be set (R284). -/
def DirtyKnown (s : State) (p : Pend) (vas : List Nat) : Prop :=
  ∀ va ∈ vas, ∃ e, s.tlbFind p.group.tlbUnit p.group.ctx va = some e ∧ e.dirty = true

/-- Words can be read and written now, and no failure stands in the way (R168, R346, R349, R367). -/
def EngReach (s : State) (p : Pend) (src dst : List Acc) : Prop :=
  s.engReady p.engine src dst = true ∧ s.engGone p (src ++ dst) = none ∧ (∀ a ∈ src ++ dst, s.atHome a) ∧ (dst.map s.locOf).Nodup

/-- A command has moved words: each place of the list holds its word, shared granules written are full (R144), and every
other word at its home, the threads and the outstanding operations are as before. -/
structure Moved (s s' : State) (l : List (Acc × Word)) : Prop where
  words : ∀ x ∈ l, s'.valueAt x.1 = x.2
  full : ∀ x ∈ l, ∀ t a, x.1.loc = .shared t a → s'.isFull t (a / 16) = true
  kept : HomeKept s s' (l.map (fun x => s.locOf x.1))
  groups : s'.groups = s.groups
  pends : s'.pends = s.pends

/-- Shared word `k` of row `r` of a BCPY's destination (R172). -/
def bcpyDst (t : TKey) (upper : Bool) (h : Layout) (b r k : Nat) : Acc := { loc := .shared t (sharedKey upper (b % 2 ^ 20 + r * h.stride + 4 * k)) }

/-- Shared word at a byte address of SELT's arrays (R176). -/
def seltAcc (t : TKey) (upper : Bool) (addr : Nat) : Acc := { loc := .shared t (sharedKey upper addr) }

/-- A gang operation as a member issues it: the operands it reads and accepts under its descriptor, and
the codebook entries of a DLDL (R47, R181, R195). -/
structure GangRow where
  reads : View → List Sel
  ok : View → Bool := fun _ => true
  vals : View → List Word
  book : View → List Reg := fun _ => []

/-- A row that compares the registers it reads, HSRC among them. -/
def regsRow (reads : View → List Sel) : GangRow :=
  { reads := fun v => reads v ++ v.t.hints.src.toList, ok := fun v => intRegs (reads v ++ v.t.hints.src.toList) v
    vals := fun v => (reads v ++ v.t.hints.src.toList).map v.val }

/-- Operands of a drain: b with a scale or a zero point (R204). -/
def drainSels (d a b : Sel) (v : View) : List Sel := [d, a] ++ (if (v.val d).getLsbD 8 || (v.val d).getLsbD 9 then [b] else [])

def gangRow : Instr → Option GangRow
  | .dld d a b => some (regsRow (fun v => [d, a] ++ (if (v.val d).getLsbD 5 then [b] else [])))
  | .dldl d a b => some {
      reads := fun _ => [d, a], ok := fun v => intRegs ([d, a] ++ v.t.hints.src.toList) v && decide ((bookTrap (codebook v.g b)).isNone)
      vals := fun v => [v.val d, v.val a], book := fun v => (codebook v.g b).map bookEntry }
  | .dswap => some (regsRow (fun _ => []))
  | .dstr d a b => some (regsRow (fun _ => [d, a, b]))
  | .dstrn d a b => some (regsRow (fun _ => [d, a, b]))
  | .dzro imm => some { reads := fun _ => [], vals := fun _ => [imm.setWidth 32] }
  | .ddrn d a b => some (regsRow (drainSels d a b))
  | .ddrq d a b => some (regsRow (drainSels d a b))
  | .spgm _ a => some (regsRow (fun _ => [a]))
  | .dscr d a b => some (regsRow (fun _ => [d, a, b]))
  | .smrg d a b => some (regsRow (fun _ => [d, a, b]))
  | _ => none

/-- A member's issue of a gang operation passes its checks (R181, R184, R187). -/
structure GangReady (i : Instr) (row : GangRow) (s : State) (g : Group) (t : Thread) (team : TKey) : Prop where
  chosen : Chosen i s g [t]
  isRow : gangRow i = some row
  here : g.thread? t.tid = some t
  live : t.exited = false ∧ t.block = none
  ok : row.ok ⟨g, t⟩ = true
  team : g.key.team = some team ∧ (s.arr g.arrCore).owner = some team
  isMember : g.key.gid ∈ (s.arr g.arrCore).latchList
  noWait : s.arrWait g [t] (tileSource i (row.vals ⟨g, t⟩)) = false
  noForming : ∀ y ∈ (s.arr g.arrCore).waiting, y.forming = none ∧ y.pass = none

/-- What a member's arrival shows the others (R183). -/
structure ArrivedAs (x : Arrival) (i : Instr) (row : GangRow) (g : Group) (t : Thread) : Prop where
  key : x.key = g.key
  tids : x.tids = [t.tid]
  instr : x.instr = i
  vals : x.vals = row.vals ⟨g, t⟩
  book : x.book = row.book ⟨g, t⟩
  hints : x.hints = t.hints
  pc : x.pc = t.seqPc
  forming : x.forming = none

/-- The positions of a gang's list whose arrivals do not agree with one of them, as a mask (R183). -/
def differing (l : List Nat) (all : List Arrival) (x : Arrival) : Nat :=
  (l.mapIdx (fun k gid => if all.any (fun y => decide (y.key.gid = gid) && !y.agrees x) then 2 ^ k else 0)).sum

/-- The first operation of a pipeline of a core, not started, with nothing before it that it must wait
for (R186) and no tile word of it on the move (R287), in an array whose latch nothing waits at, in a state with no team that has retired. -/
structure ArrayReady (s : State) (core pipe : Nat) (o : ArrOp) : Prop where
  first : (s.arr core).ops.find? (fun x => decide (arrPipe x.instr = pipe)) = some o
  may : o.mayStart ((s.arr core).ops.takeWhile (fun p => decide (p.id ≠ o.id))) = true
  fresh : o.stat = none
  unordered : o.hints.ord = none
  still : o.tileWords.any s.tileWaits = false
  latch : (s.arr core).waiting = []

/-- The place of tile `n`, row and column in the accumulators (R179). -/
def Arr.accAt (a : Arr) (tile row col : Nat) : Word := Store.get 0 a.acc (16384 * tile + 256 * row + col)

/-- An array operation has run: it stands in its array with its STAT until it completes; the gang is as it was, and so is
everything but the arrays and the teams' shared memory. -/
structure OpRan (s s' : State) (core : Nat) (o : ArrOp) (w : Word) : Prop where
  stat : { o with stat := some w } ∈ (s'.arr core).ops
  frame : s' = { s with arrs := s'.arrs, teams := s'.teams }
  gang : (s'.arr core).owner = (s.arr core).owner ∧ (s'.arr core).gang = (s.arr core).gang ∧ (s'.arr core).latchList = (s.arr core).latchList ∧
    (s'.arr core).waiting = []
  others : ∀ c, c ≠ core → s'.arr c = s.arr c

/-- The planes and the score program are as they were. -/
def PlanesKept (a a' : Arr) : Prop := a'.active = a.active ∧ a'.shadow = a.shadow ∧ a'.score = a.score

/-- A row of a tile with its sum and its maximum. -/
def Arr.rowAt (a : Arr) (tile row : Nat) : List Word × Word × Word := (a.accRow tile row, a.sumOf tile row, a.maxOf tile row)

/-- A row cleared (R204). -/
def rowZero : List Word × Word × Word := (List.replicate 256 0, 0, ninf32)

/-- The rows outside a set are as they were. -/
def RowsKept (a a' : Arr) (but : Nat → Nat → Prop) : Prop := ∀ tile row, tile < 8 → row < 64 → ¬but tile row → a'.rowAt tile row = a.rowAt tile row

/-- `m` rows from `row0` of a tile. -/
def inRows (tile row0 m : Nat) (t r : Nat) : Prop := t = tile ∧ row0 ≤ r ∧ r < row0 + m

/-- An operation has written a run of shared memory of `n` words, whose granules are full, and no other word (R144,
R209). -/
structure RunWritten (s s' : State) (o : ArrOp) (at_ n : Nat) : Prop where
  full : ∀ k, k < n → s'.isFull o.team (sharedKey o.upper (at_ % 2 ^ 20 + 4 * k) / 16) = true
  kept : HomeKept s s' ((List.range n).map (fun k => .shared o.team (sharedKey o.upper (at_ % 2 ^ 20 + 4 * k))))

/-- No thread waits for a full bit, and no word of shared memory is marked. -/
def SharedClear (s : State) : Prop := ∀ x ∈ s.teams, x.poison = [] ∧ x.bankQ = []

end Sys2Proof.Machine
end

