-- ==== Sys2Proof/Safety/System.lean ====
section
/-! DEFINITION. Terms of the statements about the system instructions (R217 to R243). -/

namespace Sys2Proof.Machine

/-- The instruction of one thread ends with a system word in d, and `P` says more of the state after it. -/
def GivesWord (i : Instr) (s : State) (g : Group) (t : Thread) (d : Sel) (w : Word) (P : State → Prop) : Prop :=
  ∃ s' t', exec i s = .next s' ∧ s'.thread? g.key t.tid = some t' ∧ Wrote t t' d ⟨w, .nat⟩ 0 ∧ P s'

/-- One thread's issue whose accesses have all been performed. -/
structure Settled (i : Instr) (s : State) (g : Group) (t : Thread) : Prop where
  chosen : Chosen i s g [t]
  here : g.thread? t.tid = some t
  free : t.block = none
  done : s.outstanding g.key [t.tid] = false

/-- A launch whose record, parameters, regions and completion page are good, in a context with a free
slot and a live parent version and no commit in progress (R227), of a grid that fits (R219 to R223). `s5` is the state with these read. -/
structure LaunchReads (s : State) (g : Group) (va : Nat) (w params : List Word) (regions : List Region) (c : Ctx) (slot : Nat) (s5 : State) : Prop where
  reads : ∃ s1 s2 s3 s4 pa,
    State.launchTrap { s with cur := none } g va = (s1, none) ∧ s1.pends = s.pends ∧ (s1.releaseL1 g .dev).readVirt g va 32 = .ok s2 w ∧
    s2.readVirt g (recDword w 48) ((recordOf w []).paramb / 4) = .ok s3 params ∧
    s3.readRegions g (recDword w 56) (recordOf w []).shared (recordOf w []).tile (recByte w 33) 0 = .ok s4 regions ∧
    s4.complPa g.ctx (recordOf w []).compl = (s5, some pa)
  good : recordBad w = none
  settled : s.treeBusy g.ctx = false
  groups : s5.groups = s.groups
  context : s5.ctx? g.ctx = some c
  fits : s5.noFit (recordOf w regions) = false
  slot : s5.freeSlot g.ctx = some slot
  live : c.live (recordOf w regions).vtag = true

/-- The versions of a context as every run keeps them: one entry to a tag, none for the root, and no
notice to a peer. -/
structure VersOk (c : Ctx) : Prop where
  once : (c.vers.map Ver.tag).Nodup
  root : ∀ y ∈ c.vers, y.tag ≠ 0
  local_ : ∀ y ∈ c.vers, y.peers = []

/-- No commit of the context is in progress, and no completion record of it waits (R227, R287, R344). -/
structure TreeFree (s : State) (ctx : Nat) : Prop where
  tree : s.treeBusy ctx = false
  records : s.recordsWait ctx (fun _ => true) = false

/-- No cache and no die holds a line written, and the line copies of a version stand whole on lines of the device, one to a
line. -/
structure CopiesPlain (s : State) (ctx : Nat) (v : Tag16) : Prop where
  self : s.coh.self = []
  copies : s.coh.copies = []
  lines : ∀ c ∈ s.mem.copies, c.src = none → c.ctx = ctx → c.tag = v → c.line % 128 = 0 ∧ c.line < peerBit
  once : ((s.mem.copies.filter (fun c => decide (c.src = none) && decide (c.ctx = ctx) && decide (c.tag = v))).map LineCopy.line).Nodup

/-- No lock is held pending, and a group waits for none. -/
def NoLockFor (s : State) (g : Group) : Prop := ∀ r ∈ s.locks, r.pending = none ∧ ∀ q ∈ r.queue, q.key ≠ g.key

/-- Does a translation stand in the way of a PTINV: its context, and its page or every page (R242)? -/
def TlbEnt.hit (e : TlbEnt) (ctx : Nat) (va : Option Nat) : Bool :=
  decide (e.ctx = ctx) && (match va with | none => true | some a => decide (e.vbase ≤ a) && decide (a < e.vbase + e.size))

end Sys2Proof.Machine
end

