-- ==== Sys2Proof/Safety/Events.lean ====
section
/-! DEFINITION. Terms of the statements about the part's own agents: the issue logic, the distributor, the
coherence protocol, the links and the host (chapters 12 to 18). -/

namespace Sys2Proof.Machine

/-- A candidate of an issue opportunity of a group (R135, R136): a ready thread that has been passed over 64 times or
more; where there is none, any ready thread. -/
def Candidate (s : State) (g : Group) (t : Thread) : Prop :=
  s.threadReady g t = true ∧ (64 ≤ t.passOver ∨ ∀ u ∈ g.threads, s.threadReady g u = true → u.passOver < 64)

/-- The thread an issue opportunity begins from (R135): the candidate with the lowest PC, in the lowest lane among those. -/
def Leads (s : State) (g : Group) (t : Thread) : Prop :=
  t ∈ g.threads ∧ Candidate s g t ∧ ∀ u ∈ g.threads, Candidate s g u → t.pc.toNat < u.pc.toNat ∨ (t.pc = u.pc ∧ t.lane ≤ u.lane)

/-- A queue's head that fits some placement now (R317). -/
def FitHead (s : State) (q : Nat) (g : Grid) : Prop := q < 64 ∧ s.head q = some g ∧ s.fits g = true

/-- One whose queue has the highest priority among them. -/
def TopHead (s : State) (q : Nat) (g : Grid) : Prop := FitHead s q g ∧ ∀ r h, FitHead s r h → s.prioOf r ≤ s.prioOf q

/-- One that the draft share leaves (R317, R318): where heads of both kinds of its context and class stand at the highest
priority, it is of the kind chosen, or plain. -/
def ShareKeeps (s : State) (q : Nat) (g : Grid) : Prop :=
  let rival := fun kind => ∃ r h, TopHead s r h ∧ h.ctx = g.ctx ∧ s.clsOf r = s.clsOf q ∧ h.rcd.cls = kind
  (g.rcd.cls = 1 → rival 2 → s.chooseDraft g.ctx (s.clsOf q) = true) ∧ (g.rcd.cls = 2 → rival 1 → s.chooseDraft g.ctx (s.clsOf q) = false)

/-- Does a queue come before another, in ascending number after the queue served last, wrapping (R317)? -/
def turnFirst (last q r : Nat) : Prop := if last < q then (last < r → q ≤ r) else r ≤ last ∧ q ≤ r

/-- A team that case 1 of R319 may have pre-empted next: running, of a lower priority. -/
def Preemptible (s : State) (below : Nat) (t : Team) : Prop := t ∈ s.teams ∧ t.phase = .running ∧ s.teamPrio t < below

/-- A line at its home with no transaction in progress: state, owner and sharers (R341). -/
def State.lineIs (s : State) (line : Nat) (st : DirSt) (owner : Option Nat) (sharers : List Nat) : Prop :=
  s.coh.entry line = ⟨line, st, owner, sharers, none, []⟩

/-- A die asks for a line that it needs and does not hold (R342): no copy, no request of its own. The directory
has an entry for the line, or a place for one (R341), and a host half is the device's as the request needs
it (R344). No error of an entry waits to be dealt with (R358). -/
structure Wants (s : State) (die line : Nat) (write : Bool) (held : Bool) : Prop where
  wants : s.dieWants die line write = true
  copy : (s.coh.copy? die line).isSome = held
  room : s.coh.dirRoom line = true
  half : hostBit ≤ line → s.halfOk line write = true
  whole : s.coh.broken = []

/-- A request has been taken up: what the slice has sent about the line, the entry it leaves, and the request
noted. The other lines of the fill unit are asked for beside it (R338). Memory's words stand; what leaves L2 to make
room may change its place (R277, R344, R357). -/
structure TakenUp (s s' : State) (die line : Nat) (excl : Bool) (sent : List Msg) (e : DirEnt) : Prop where
  msgs : s'.coh.msgs.filter (fun m => decide (m.line = line)) = s.coh.msgs.filter (fun m => decide (m.line = line)) ++ sent
  entry : s'.coh.entry line = e
  miss : s'.coh.miss.filter (fun m => decide (m.line = line)) = s.coh.miss.filter (fun m => decide (m.line = line)) ++ [{ die := die, line := line, excl := excl, data := none, acksNeeded := none, acksGot := 0 }]
  copies : s'.coh.copies = s.coh.copies
  mem : s'.mem = { s.mem with ram := s'.mem.ram, l2 := s'.mem.l2, copies := s'.mem.copies, poison := s'.mem.poison }
  words : ∀ pa, pa < hostBit → pa % 4 = 0 → s'.peek pa = s.peek pa
  host : s.coh.halves = [] → s'.mem.ram = s.mem.ram

/-- DATA from the slice. -/
def homeDataMsg (s : State) (die line : Nat) (grant : DirSt) (acks : Nat) : Msg :=
  { kind := .data, die := die, line := line, grant := grant, acks := acks, words := s.lineWords line, poison := s.unitMarks line }

/-- A message is the next of its kind for its receiver and line, and its sender is not a dead one. -/
structure Arrives (s : State) (m : Msg) : Prop where
  first : s.msg? m.kind m.die m.line = some m
  fresh : s.stale m = false

/-- A request in progress at a die. -/
def State.missAt (s : State) (die line : Nat) (m : Miss) : Prop :=
  s.coh.miss.find? (fun x => decide (x.die = die) && decide (x.line = line)) = some m

/-- The die's request has ended with the line in its hands. -/
structure Granted (s' : State) (die line : Nat) (grant : DirSt) (words : Store Word) (m : Msg) : Prop where
  copy : ∃ x, s'.coh.copy? die line = some x ∧ x.st = grant ∧ x.words = words ∧ x.writer = none
  done : m ∈ s'.coh.msgs ∧ m.kind = .done ∧ m.die = die ∧ m.line = line
  ended : ∀ x ∈ s'.coh.miss, ¬(x.die = die ∧ x.line = line)

/-- A message of a peer comes from its incarnation now (R352). -/
def Current (s : State) (p : Sender) : Prop := p.inc = Store.get 0 s.peer.inc p.agent

/-- A message of the host about a half comes from the incarnation of its port now. -/
def HostSays (s : State) (h : HostHalf) : Prop := ∃ p, s.hostPort (64 * h.half % 2 ^ 51) = some p ∧ (nth s.dev.ports p Port.down).inc = h.inc

/-- A host half is held by the device in a state. -/
def State.halfIs (s : State) (half : Nat) (st : DirSt) : Prop := ∃ h, s.coh.held half = some h ∧ h.st = st

/-- An event has been posted to the host: it waits for the ring with its count (R378). -/
def Posted (s s' : State) (e : Event) : Prop := s'.dev.heldEvents = s.dev.heldEvents ++ [(e, s.dev.posted + 1)] ∧ s'.dev.posted = s.dev.posted + 1

/-- Room for an event: in the ring, or among the 256 that may wait for it (R378). -/
def State.roomForEvent (s : State) : Prop := s.dev.heldEvents.length < 256 + s.dev.ringFree

/-- A context command block that may be taken up, its operation, and the context that it names, with where
that stands (R376). -/
structure BlockFor (s : State) (block op : Nat) (c : Ctx) : Prop where
  good : s.blockOk block op = true
  context : s.ctx? (recHalf (s.blockWords block) 2) = some c
  room : s.roomForEvent

/-- The command's status word has been written and its event posted. -/
def Ended (s' : State) (block : Nat) (status : Word) : Prop :=
  s'.peek (block + 4) = status ∧ ∃ e n, (e, n) ∈ s'.dev.heldEvents ∧ e.type = 7

end Sys2Proof.Machine
end

