-- ==== Sys2Proof/WellFormed.lean ====
section
/-! DEFINITION. Which instructions are well-formed: those whose own fields raise no ILLEGAL in a
group of the width given (R71 checks 3, 4 and 8). A barrier immediate must be one R70 allows, no
source selector is 0xFF and no destination selector 0xFA to 0xFF, and no field holds a value its
description reserves. Events have no fields to check. -/

namespace Sys2Proof

/-- R71 check 4 and the selector rule of R67, for one use of a register field. -/
def Use.selectorOk : Use → Bool
  | .src s => s != 0xFF
  | .dst s => decide (s.toNat < 0xFA)
  | .rw s => decide (s.toNat < 0xFA)
  | .srcSet n s | .dstSet n s | .rwSet n s => decide (s.toNat < 0xF8) && decide (s.toNat % n = 0)

/-- The immediates of R70 that a barrier word must hold. -/
def barFieldOk : Instr → Bool
  | .barv _ imm | .barw _ imm | .bars _ imm | .barq _ imm => barImmOk imm
  | _ => true

/-- The payload of HSRC (R72, R420). -/
def hsrcFieldOk : Instr → Bool
  | .hsrc src => src != 0xFF
  | _ => true

/-- Well-formed in a group of the width given. -/
def wellFormed (width : Nat) (i : Instr) : Bool :=
  (uses i).all Use.selectorOk && barFieldOk i && hsrcFieldOk i && !reservedField width i

end Sys2Proof
end

