-- ==== Sys2Proof/Certificates/Slice0/Obligations.lean ====
section
/-! DEFINITION. The statements: what the rules of the manual say the instructions and the events do.
OBLIGATIONS.json gives each its rule and its quotation. -/

open Sys2Proof Sys2Proof.Machine

/-! The machine as a whole. -/

/-- A step of a chosen issue group whose word decodes, with no trap due before it, is that instruction's `exec`
on the state after the fetch (which may fill the TLB and the instruction cache), in which a thread in a handler
has kept its attributed traps for after it (R76, R196, R236, R358). With no group chosen it is the `exec` of the agenda's first
event. The agenda is the model's (log entry 3). -/
def Obligations.StepRunsTheDecodedInstruction : Prop :=
  (∀ (s s1 : State) (c : Issue) (g : Group) (t : Thread) (ts : List Thread) (w : Word) (i : Instr),
    s.dev.fatal = false → s.cur = some c → s.group? c.key = some g → c.threads g = t :: ts → s.fetch g t.pc = (s1, .ok w) → decode w = .ok i →
    (∀ u ∈ t :: ts, u.boundaryTrap = none ∧ u.attrDue (some i) = none ∧ parityDue g u (some i) = none) →
    step s = exec i (s1.modThreads g.key ((t :: ts).map Thread.tid) (fun u => u.attrKeep (some i)))) ∧
  (∀ (t : Thread) (i : Option Instr), t.inHandler = false → t.attrKeep i = t) ∧
  (∀ (s : State) (e : Instr) (r : List Instr), s.dev.fatal = false → s.cur = none → s.agenda = e :: r → step s = exec e { s with agenda := r }) ∧
  (∀ (s : State) (e : Instr) (r : List Instr), s.dev.fatal = true → s.agenda = e :: r →
    step s = if isBoot e then exec e { s with agenda := r } else .next s)

/-- R3, R29, R311, R375, R377: what device reset leaves: no context, grid, team or thread; the queues'
priorities and classes; every queue-thread register 0; BOOT 1, not READY, no fatal error. That memory
reads zero is the model's choice (log entry 1). -/
def Obligations.ResetLeavesTheStatedValues : Prop :=
  (∀ q, q < 64 → nth State.reset.dist.prio q 0 = BitVec.ofNat 3 (q / 8) ∧ nth State.reset.dist.cls q 0 = BitVec.ofNat 3 (q % 8)) ∧
  (∀ slot, slot < 64 → State.reset.qt slot = QtCtl.zero ∧ State.reset.hostRead (0x1000 + 8 * slot) 8 = 0) ∧
  (∀ die, die < 8 → nth State.reset.dev.heatmap die 0 = 0) ∧
  State.reset.dev.boot = 1 ∧ State.reset.dev.ready = false ∧ State.reset.dev.fatal = false ∧ State.reset.dev.evOvf = false ∧
  State.reset.ctxs = [] ∧ State.reset.grids = [] ∧ State.reset.teams = [] ∧ State.reset.groups = [] ∧
  (∀ a, State.reset.mem.ram.read a = 0 ∧ State.reset.mem.tile.read a = 0)

/-- R3, R268: global memory, tile memory and the shared memory of every team stay in canonical form in
every step. -/
def Obligations.EveryStepKeepsMemoryCanonical : Prop :=
  ∀ s s' : State, MemOk s → step s = .next s' → MemOk s'

/-- The canonical form holds at reset, and with an instruction placed for the next step. Placing stands for a
program's load (log entry 4). -/
def Obligations.MemoryIsCanonicalAtReset : Prop :=
  MemOk State.reset ∧ ∀ s nbits w, MemOk s → MemOk (s.withFetchWord nbits w)

/-! Encodings. -/

/-- R59, R60, R68, R71: words written out from the encoding tables, one of each class, and words that are
no instruction. -/
def Obligations.WordsDecodeAsTheTablesSay : Prop :=
  decode 0x01050607#32 = .ok (.add 5 6 7) ∧ decode 0x14F0F1F9#32 = .ok (.divn 0xF0 0xF1 0xF9) ∧ decode 0x2D031234#32 = .ok (.lui 3 0x1234) ∧
  decode 0x3308F800#32 = .ok (.sqrt 8 0xF8) ∧ decode 0x4201FA10#32 = .ok (.clt 1 0xFA 0x10) ∧ decode 0x50020361#32 = .ok (.cvt 2 3 0x61) ∧
  decode 0x61040503#32 = .ok (.shflx 4 5 3) ∧ decode 0x7209FFFE#32 = .ok (.bz 9 0xFFFE) ∧ decode 0x8A0C06A3#32 = .ok (.ldg4 12 6 10 3) ∧
  decode 0x94050678#32 = .ok (.stt 5 6 7 2) ∧ decode 0xA0050616#32 = .ok (.atg 5 6 1 .xchg) ∧ decode 0xAB048001#32 = .ok (.fncx .sys 0x8001) ∧
  decode 0xAC050047#32 = .ok (.barv 5 0x47) ∧ decode 0xAC0506C0#32 = .ok (.barvReg 5 6) ∧ decode 0xB0080A0C#32 = .ok (.cpy 8 10 12) ∧
  decode 0xC50000FF#32 = .ok (.dzro 0xFF) ∧ decode 0xD1040608#32 = .ok (.lnchs 4 6 8) ∧ decode 0xE003010C#32 = .ok (.srd 3 0x10C) ∧
  decode 0xF3000054#32 = .ok (.hord true 1 .sys) ∧ decode 0xF0ABCDEF#32 = .ok (.himm 0xABCDEF) ∧
  decode 0x00000000#32 = .error .unassigned ∧ decode 0x6F000000#32 = .error .unassigned ∧ decode 0xFF000000#32 = .error .unassigned ∧
  decode 0x07050601#32 = .error (.badField 0x07) ∧ decode 0xA0050617#32 = .error (.badField 0xA0) ∧ decode 0xAA000005#32 = .error (.badField 0xAA) ∧
  decode 0xAC050050#32 = .error (.badField 0xAC)

/-- R60, R68 to R72: every well-formed encoded instruction decodes from its word as itself, with every
operand at every value; every word that decodes is the word of its instruction, so that each word has one
meaning and no bit of it is dropped. -/
def Obligations.DecodeAndEncodeAgree : Prop :=
  (∀ (width : Nat) (i : Instr) (w : Word), wellFormed width i = true → encode i = some w → decode w = .ok i) ∧
  (∀ (i : Instr) (w : Word), decode w = .ok i → encode i = some w)

/-! Lanes: classes 0x0 to 0x6. -/

/-- Every instruction of a table of value rows runs when the value sources of each participant carry one
accepted tag, and gives each its row's result. -/
def ValueRowsHold (table : Instr → Option ValueRow) : Prop :=
  ∀ i row, table i = some row → ∀ s g ts (T : Thread → Tag), Chosen i s g ts →
    (∀ t ∈ ts, row.accept (T t) = true ∧ Carries ⟨g, t⟩ (row.srcs ⟨g, t⟩) (T t)) →
    Gives i s g ts row.d (fun v => ⟨(row.out (T v.t) v).1, row.tag (T v.t)⟩) (fun v => (row.out (T v.t) v).2)

/-- Every instruction of a table of tag rows runs on accepted operands, and gives each participant its
row's result. -/
def TagRowsHold (table : Instr → Option TagRow) : Prop :=
  ∀ i row, table i = some row → ∀ s g ts, Chosen i s g ts → (∀ t ∈ ts, row.ok ⟨g, t⟩ = true) →
    Gives i s g ts row.d (fun v => (row.out (viewsOf g ts) v).1) (fun v => (row.out (viewsOf g ts) v).2)

/-- R86 to R94: class 0x0. -/
def Obligations.ArithmeticGivesItsResult : Prop := ValueRowsHold arithRow

/-- R95 to R97: class 0x1. -/
def Obligations.IntegerGivesItsResult : Prop := ValueRowsHold integerRow

/-- R102 to R106: class 0x3. An approximating instruction gives a free value within its bound (log entry 5). -/
def Obligations.FloatGivesItsResult : Prop := ValueRowsHold floatRow

/-- R107, R108: class 0x4 but CTAG. -/
def Obligations.CompareGivesPredicate : Prop := ValueRowsHold compareRow

/-- R98 to R101: class 0x2. That SEL, MOV and the bitwise rows leave a subnormal FLT operand as it is, is a reading (log
entry 89). -/
def Obligations.LogicGivesItsResult : Prop := TagRowsHold logicRow

/-- R109 to R122: CTAG and class 0x5. That DQNT's NaN sets no flag, that a quotient is compared with emax before
it is rounded, and that LUTX checks its codebook first are readings (log entries 60, 61, 67), as are the code and the
flags of a clamped infinity (84, 85, 108), whose FLUSH governs in HADM (88), and that TAGR and PACK flush nothing (89). -/
def Obligations.ConversionGivesItsResult : Prop := TagRowsHold convertRow

/-- R123 to R127: class 0x6. Whose FLUSH governs an operand that another lane supplies, and that values which are only
moved or tested are not flushed, are readings (log entries 88, 89). -/
def Obligations.CrossLaneGivesItsResult : Prop := TagRowsHold crossRow

/-- R15, R65: what the special operands read as, `zero` taking among value sources the tag of the others;
a result goes to the register and to `lat`, to `lat` only, or nowhere, and no instruction has a destination
from 0xFA on. R19: the check of value sources passes only where all of them carry one accepted tag. -/
def Obligations.SelectorsReadAndWrite : Prop :=
  (∀ v : View, v.reg 0xF9 = ⟨0, .int⟩ ∧ v.reg 0xFA = ⟨BitVec.ofNat 32 v.t.tid, .nat⟩ ∧ v.reg 0xFB = ⟨BitVec.ofNat 32 v.t.lane, .nat⟩ ∧
    v.reg 0xFC = ⟨BitVec.ofNat 32 v.g.key.gid, .nat⟩ ∧ v.reg 0xFD = ⟨BitVec.ofNat 32 v.g.key.tmid, .nat⟩ ∧ v.reg 0xFE = ⟨v.g.vid.setWidth 32, .nat⟩) ∧
  (∀ (t : Thread) (d : Sel) (r : Reg), (d.toNat < 0xF8 → (t.result d r).reg d.toNat = r) ∧ (d.toNat ≤ 0xF8 → (t.result d r).reg 0xF8 = r) ∧
    (∀ n, n ≠ d.toNat → n ≠ 0xF8 → (t.result d r).reg n = t.reg n) ∧ (0xF8 < d.toNat → ∀ n, (t.result d r).reg n = t.reg n)) ∧
  (∀ (g : Group) (h : Hints) (i : Instr) (d : Sel), (.dst d ∈ usesWith h i ∨ .rw d ∈ usesWith h i) → 0xFA ≤ d.toNat →
    encCheck g h i = some (illegal 2 i) ∨ encCheck g h i = some (illegal 4 i)) ∧
  (∀ (v : View) (srcs : List Sel) (T : Tag), Carries v srcs T → 0xF9 ∈ srcs → v.vtag srcs 0xF9 = T) ∧
  (∀ (v : View) (sl : Slots) (accept : Tag → Bool) (t : Tag), v.values sl accept = .ok t →
    t ≠ .void ∧ accept t = true ∧ ∀ x ∈ sl.list, v.vtag sl.list x = t) ∧
  (∀ (v : View) (sl : Slots) (accept : Tag → Bool) (e : Trap), v.values sl accept = .error e →
    e.cause = .tag ∧ ∀ t, accept t = true → t ≠ .void → sl.list ≠ [] → ∃ x ∈ sl.list, v.vtag sl.list x ≠ t)

/-! Control, hints, traps. -/

/-- R128, R129: the branches, calls and returns, and NOP. -/
def Obligations.ControlTransfersJump : Prop :=
  ∀ i row, controlRow i = some row → ∀ s g ts, Chosen i s g ts → (∀ t ∈ ts, row.ok ⟨g, t⟩ = true) →
    ∃ s', exec i s = .next s' ∧ OnlyThreads g ts s s' ∧
      ∀ t ∈ ts, g.thread? t.tid = some t → ∃ t', s'.thread? g.key t.tid = some t' ∧ Jumped row g t t'

/-- R72, R74, R75: a hint waits with the PC of the first of its sequence, and nothing else changes. R132: PAUSE
makes its threads not ready until PAUSE_END, and PAUSE_END makes one ready again. -/
def Obligations.HintAndPauseWait : Prop :=
  (∀ i f, hintRow i = some f → ∀ s g ts, Chosen i s g ts →
    ∃ s', exec i s = .next s' ∧ OnlyThreads g ts s s' ∧
      ∀ t ∈ ts, g.thread? t.tid = some t → s'.thread? g.key t.tid =
        some { t with pc := t.pc + 4, hints := { f t.hints with first := some (t.hints.first.getD t.pc) } }) ∧
  (∀ s g ts, Chosen .pause s g ts → ∃ s', exec .pause s = .next s' ∧ OnlyThreads g ts s s' ∧
    ∀ t ∈ ts, g.thread? t.tid = some t → s'.thread? g.key t.tid = some { t with pc := t.pc + 4, hints := {}, paused := true }) ∧
  (∀ (s : State) (k : GKey) (tid : Nat) (t : Thread), s.thread? k tid = some t → ∃ s', exec (.pauseEnd k tid) s = .next s' ∧
    s'.thread? k tid = some { t with paused := false } ∧ s' = { s with groups := s'.groups } ∧ ∀ k', k' ≠ k → s'.group? k' = s.group? k')

/-- R237, R236: TRAP takes a SOFTWARE trap with its immediate in TRAPVAL, in a thread that is in no handler of a
context whose TRAPVEC is enabled (an issue group of one thread); so does any trap of such a thread. R238:
ERET in a handler returns to TRAPPC, and leaves every register as it stands, outside the handler of a
PREEMPT save that its team is asked for. v232 to v239 hold free values after the entry (log entry 6). -/
def Obligations.TrapsAreTakenAndReturned : Prop :=
  (∀ imm s g t h, Chosen (.trap imm) s g [t] → s.handler? g.ctx = some h → t.inHandler = false → t.exited = false →
    ∃ s' t', exec (.trap imm) s = .next s' ∧ s'.thread? g.key t.tid = some t' ∧
      Trapped { t with regionOpen := false } t' ⟨.software, 0, imm.setWidth 64, .precise⟩ t.seqPc h ∧
      s' = { s with cur := none, groups := s'.groups, free := s'.free } ∧ ∀ k, k ≠ g.key → s'.group? k = s.group? k) ∧
  (∀ (s : State) (k : GKey) (tid : Nat) (tr : Trap) (pc : Word) (g : Group) (t : Thread) (h : Word), s.group? k = some g → g.thread? tid = some t → t.exited = false → t.inHandler = false →
    s.handler? g.ctx = some h → tr.cause ≠ .version →
    (s.takeTrap k tid tr pc).2 = [] ∧
    ∃ t', (s.takeTrap k tid tr pc).1.thread? k tid = some t' ∧ Trapped t t' tr pc h ∧
      (s.takeTrap k tid tr pc).1 = { s with groups := (s.takeTrap k tid tr pc).1.groups, free := s.free + 8 } ∧
      ∀ k', k' ≠ k → (s.takeTrap k tid tr pc).1.group? k' = s.group? k') ∧
  (∀ s g ts, Chosen .eret s g ts → (∀ t ∈ ts, t.inHandler = true) →
    (∀ t ∈ ts, preemptSave ((s.teamOf? g.key).bind Team.req) t = false) →
    ∃ s', exec .eret s = .next s' ∧ OnlyThreads g ts s s' ∧
      ∀ t ∈ ts, g.thread? t.tid = some t → s'.thread? g.key t.tid =
        some { t with pc := t.trapPc.extractLsb' 2 30 ++ (0 : BitVec 2), inHandler := false, hints := {}, regionOpen := false })

/-- R131, R222: EXIT ends its thread: in a group with another thread that has not exited, the thread has exited
and the other has not; the last thread of a team's only group retires the team in its grid; a queue thread's
slot is idle. R132, R323: YIELD goes on to the next word; the pending group of its quadrant that has been ready
longest becomes active in its group's place. How ties fall is the model's choice (log entry 75). -/
def Obligations.ExitAndYield : Prop :=
  (∀ s g t, Chosen .exit s g [t] → g.thread? t.tid = some t →
    (∀ u, g.key.isQueue = false → u ∈ g.threads → g.thread? u.tid = some u → u.tid ≠ t.tid → u.exited = false →
      ∃ s' t' u', exec .exit s = .next s' ∧ s'.thread? g.key t.tid = some t' ∧ t'.exited = true ∧ t'.regs = t.regs ∧
        s'.thread? g.key u.tid = some u' ∧ u'.exited = false ∧ u'.regs = u.regs ∧ s'.mem.ram = s.mem.ram ∧ s'.mem.tile = s.mem.tile) ∧
    (∀ tk gr, g.key.team = some tk → s.teamGroups tk = [g] → (∀ u ∈ g.threads, u.tid ≠ t.tid → u.exited = true) →
      s.grid? tk.ctx tk.grid = some gr → g.held = [] → (∀ a ∈ s.arrs, a.waiting = [] ∧ a.owner = none) →
      ∃ s' gr', exec .exit s = .next s' ∧ s'.grid? tk.ctx tk.grid = some gr' ∧ gr'.retired = gr.retired + 1 ∧ gr'.trapped = gr.trapped) ∧
    (∀ slot, g.key = .queue slot → slot < s.dev.qtctl.length →
      ∃ s', exec .exit s = .next s' ∧ s'.group? g.key = none ∧ (nth s'.dev.qtctl slot QtCtl.zero).st = .idle ∧ s'.mem.tile = s.mem.tile)) ∧
  (∀ s g ts, Chosen .yield s g ts →
    ∃ s', exec .yield s = .next s' ∧ s'.mem = s.mem ∧ s'.pends = s.pends ∧
      (∀ t ∈ ts, g.thread? t.tid = some t → s'.thread? g.key t.tid = some { t with pc := t.pc + 4, hints := {} }) ∧
      ∀ p, g.key.isQueue = false → p.key ≠ g.key →
        (State.modThreads { s with cur := none } g.key (ts.map Thread.tid) Thread.advance).pendingReady g.core g.quad = some p →
        ∃ p' g', s'.group? p.key = some p' ∧ p'.active = true ∧ s'.group? g.key = some g' ∧ g'.active = false)

/-- R133, R134: IDEM is a NOP in a team of mode trap and in a queue thread; in an idempotent team it writes the
registers of its mask with their tags, the PC of the next instruction, the mask and a pending TRIT trap's
registers, PC and value (R196) to the thread's checkpoint, once no result is outstanding and where no register
that it reads fails its parity (R358); the tags of the other registers stay. The checkpoint is written as one
step, and a TRIT trap stands in the two words that R134 gives as zero (log entry 70); of several the first is
kept (log entry 31). -/
def Obligations.IdemWritesTheCheckpoint : Prop :=
  ∀ imm s g t, Chosen (.idem imm) s g [t] → g.thread? t.tid = some t →
    (s.idemTeam g.key = none → ∃ s', exec (.idem imm) s = .next s' ∧ OnlyThreads g [t] s s' ∧
      s'.thread? g.key t.tid = some { t with pc := t.pc + 4, hints := {} }) ∧
    (∀ x, s.idemTeam g.key = some x → s.busySels g.key t.tid = [] → t.idemBad g.nregs imm = none → s.mem.vaults = [] →
      let base := idemWord x.idemBase t.tid
      let tagAt := fun (m : State) (n : Nat) => (m.readTile (base + 256 + n / 8)).toNat / 16 ^ (n % 8) % 16
      ∃ s', exec (.idem imm) s = .next s' ∧
        s'.thread? g.key t.tid = some { t with
          pc := t.pc + 4, hints := {}, regionOpen := true, checkpointed := true, parked := decide (x.req = some .idempotent) } ∧
        s'.readTile (base + 249) = t.pc + 4 ∧ s'.readTile (base + 250) = imm.setWidth 32 ∧
        s'.readTile (base + 251) = tritRecord t.trit? ∧ s'.readTile (base + 252) = (t.trit?.map AttrTrap.pc).getD 0 ∧
        s'.readTile (base + 253) = (t.trit?.map (fun a => a.trap.val.setWidth 32)).getD 0 ∧
        (∀ n ∈ idemSels g.nregs imm, s'.readTile (base + n) = (t.reg n).val ∧ tagAt s' n = (tagCode (t.reg n).tag).toNat) ∧
        (∀ n, n < 249 → n ∉ idemSels g.nregs imm → s'.readTile (base + n) = s.readTile (base + n) ∧ tagAt s' n = tagAt s n) ∧
        ∀ w, w < base ∨ base + 256 + 32 ≤ w → s'.readTile w = s.readTile w)

/-! Memory. -/

/-- R137 to R148, R250: a load, store or atomic of one thread, whose operands are accepted, whose checks
pass, whose version has room for its copies and whose D bits may be set, joins the outstanding operations: as one
where it is aligned to its own size, and else word by word, each under the ordering of its own page (R139); it
writes nothing yet. That it is issued and performed in two steps, and in these parts, is the model's reading (log
entry 79), as is the scope checker's look at its issue (log entry 66). -/
def Obligations.AccessJoinsOutstanding : Prop :=
  ∀ i row, accessRow i = some row → ∀ s g t, Chosen i s g [t] → row.ok ⟨g, t⟩ = true →
    ∀ s1 s2 s3 ws, State.checkMem { s with cur := none } g (row.op ⟨g, t⟩) (View.address ⟨g, t⟩ row.sp row.a) = (s1, .ok ws) →
      s1.copiesFor g row.write (row.pol ⟨g, t⟩) ws = .ok s2 → s2.markAll g.tlbUnit g.ctx (row.marks ⟨g, t⟩) = (s3, true) → s3.groups = s.groups →
      let parts := accParts (wholeAccess row.sp (View.address ⟨g, t⟩ row.sp row.a) row.n) (ws.mapIdx (fun k a => (k, a)))
      ∃ s' t' ps, exec i s = .next s' ∧ s'.thread? g.key t.tid = some t' ∧ Passed t t' row.closes ∧
        ps.length = parts.length ∧
        (∀ n w p, parts[n]? = some w → ps[n]? = some p → Issued row g t s.next (s3.next + n) w p) ∧
        s' = { s3 with groups := s'.groups, pends := s3.pends ++ ps, next := s3.next + ps.length } ∧
        ∀ k, k ≠ g.key → s'.group? k = s.group? k

/-- R138, R137: an access of shared, parameter or global memory that is not on a word boundary takes an ALIGN
trap with SUB 1 and the address. A shared access of a team passes where every word lies below SHARED in the
half it names, and takes PROT with SUB 1 otherwise; a tile access passes where all its words lie in allocations of
the context, and takes PROT with SUB 1 and its address where one does not; a queue thread has neither space. -/
def Obligations.AccessesAreChecked : Prop :=
  (∀ (s : State) (g : Group) (m : MemOp) (addr : Nat), m.sp ≠ .tile → addr % 4 ≠ 0 →
    s.checkMem g m addr = (s, .error (some ⟨.align, 1, BitVec.ofNat 64 addr, .precise⟩))) ∧
  (∀ (s : State) (g : Group) (need : Need) (addr n : Nat),
    (∀ t, g.key.team = some t → ((List.range n).map (wordAddr .shared addr)).all (s.sharedOk g) = true →
      s.locate g .shared need addr n = (s, .ok (((List.range n).map (wordAddr .shared addr)).map (fun a => { loc := .shared t (sharedKey g.upper a) })))) ∧
    (((List.range n).map (wordAddr .shared addr)).all (s.sharedOk g) = false →
      s.locate g .shared need addr n = (s, .error (some ⟨.prot, 1, BitVec.ofNat 64 addr, .precise⟩))) ∧
    (g.key.isQueue = false → ((List.range n).map (wordAddr .tile addr)).all (s.tileAllocated g.ctx) = true →
      s.locate g .tile need addr n = (s, .ok (((List.range n).map (wordAddr .tile addr)).map (fun a => { loc := .tile a })))) ∧
    (g.key.isQueue = false → ((List.range n).map (wordAddr .tile addr)).all (s.tileAllocated g.ctx) = false →
      s.locate g .tile need addr n = (s, .error (some ⟨.prot, 1, BitVec.ofNat 64 addr, .precise⟩))) ∧
    (g.key.isQueue = true → s.locate g .tile need addr n = (s, .error (some ⟨.prot, 1, BitVec.ofNat 64 addr, .precise⟩))) ∧
    (g.key.isQueue = true → s.locate g .shared need addr n = (s, .error (some ⟨.prot, 1, BitVec.ofNat 64 addr, .precise⟩))))

/-- R3, R247, R268: a word written at the serialisation point of a global address reads back, and every other
word of memory and of the copies reads as before; memory words are little-endian, and a write keeps the
canonical form and every other byte. -/
def Obligations.MemoryReadsBackWrites : Prop :=
  (∀ (s : State) (pa pa' : Nat) (w : Word), (s.poke pa w).peek pa = w ∧
    (pa % 4 = 0 → pa' % 4 = 0 → pa' ≠ pa → (s.poke pa w).peek pa' = s.peek pa')) ∧
  (∀ (m : Memory) (a x : Nat) (w : Word),
    (m.writeWord a w).readWord a = w ∧ (m.writeWord a w).read a = w.extractLsb' 0 8 ∧ (m.writeWord a w).read (a + 3) = w.extractLsb' 24 8 ∧
    (x < a ∨ a + 4 ≤ x → (m.writeWord a w).read x = m.read x) ∧ (Memory.wf m = true → Memory.wf (m.writeWord a w) = true))

/-- R137, R140: LDP reads a word of the grid's parameter block, zero in a queue thread. R177, R276: PFG goes on to the
next word without a wait, and no register, lock or tile word differs after it, and where no L1 and no die holds a line, and
the TLB holds the translation of every participant's address, so that no walk sets A, no word of the device; it brings the line nearer, as its page's class and its policy say: into L2 on an NC page
and under NOAL, else into the L1, or, where the die has yet to get the line, among the fills that the L1 waits for.
Of a host line that lacks a half the half is asked for (R344); lines that wait and peers' lines stay where they are (log
entry 99). -/
def Obligations.ParametersReadAndPrefetchPlacesLines : Prop :=
  (∀ d a st tg s g ts, Chosen (.ldp d a st tg) s g ts →
    (∀ t ∈ ts, addrTag (View.tag ⟨g, t⟩ a) = true ∧ View.address ⟨g, t⟩ .param a % 4 = 0 ∧ View.address ⟨g, t⟩ .param a < 4096) →
    Gives (.ldp d a st tg) s g ts d (fun v => ⟨s.param g (v.address .param a), tagOf tg⟩) (fun _ => 0)) ∧
  (∀ a st pol s g ts, Chosen (.pfg a st pol) s g ts → (∀ t ∈ ts, addrTag (View.pairTag ⟨g, t⟩ addrTag a) = true) →
    ∃ s', exec (.pfg a st pol) s = .next s' ∧ s' = { s with cur := none, groups := s'.groups, mem := s'.mem, coh := s'.coh } ∧
      s'.mem.tile = s.mem.tile ∧ (∀ k, k ≠ g.key → s'.group? k = s.group? k) ∧
      (∀ tid, tid ∉ ts.map Thread.tid → s'.thread? g.key tid = s.thread? g.key tid) ∧
      (∀ t ∈ ts, g.thread? t.tid = some t → s'.thread? g.key t.tid = some { t with pc := t.pc + 4, hints := {} }) ∧
      ((∀ t ∈ ts, (s.tlbFind g.tlbUnit g.ctx (View.address ⟨g, t⟩ .global a)).isSome = true) → s.coh.self = [] → s.coh.copies = [] →
        ∀ pa, pa < hostBit → pa % 4 = 0 → s'.peek pa = s.peek pa)) ∧
  (∀ a st pol s g t e, Chosen (.pfg a st pol) s g [t] → g.thread? t.tid = some t → addrTag (View.pairTag ⟨g, t⟩ addrTag a) = true →
    let addr := View.address ⟨g, t⟩ .global a
    addr % 4 = 0 → addr < 2 ^ 56 → s.tlbFind g.tlbUnit g.ctx addr = some e →
    let pa := leafBase e.pte + (addr - e.vbase)
    let at_ := s.fwd pa
    s.lineWaits pa = false → at_ < peerBit → (pteVers e.pte = false ∨ g.vid = 0) →
    ∃ s', exec (.pfg a st pol) s = .next s' ∧
      (pteCoh e.pte = .nc → s'.l2Holds at_ = true) ∧
      (pteCoh e.pte = .self → pteOrd e.pte ≠ .so → pol ≠ 3#2 →
        let x := s'.coh.selfLine g.l1 (lineOf at_)
        x.valid.getLsbD (at_ % 128 / 4) = true ∧ (s.coh.self = [] → s.coh.copies = [] → Store.get 0 x.words (at_ % 128 / 4) = s.peek at_)) ∧
      (pteCoh e.pte = .self → pteOrd e.pte ≠ .so → pol = 3#2 → (s.coh.selfLine g.l1 (lineOf at_)).valid.getLsbD (at_ % 128 / 4) = false →
        s'.l2Holds at_ = true ∧ s'.coh.l1 = s.coh.l1) ∧
      (pteCoh e.pte = .dir → g.key.isQueue = false → pol = 3#2 → s'.l2Holds at_ = true ∧ s'.coh.l1 = s.coh.l1) ∧
      (pteCoh e.pte = .dir → g.key.isQueue = false → pol ≠ 3#2 →
        if (s.coh.copy? (dieOf g.core) (lineOf at_)).isSome then s'.coh.l1Holds g.l1 at_ = true
        else s.coh.l1Holds g.l1 at_ = false → ∃ f ∈ s'.coh.fills, f.die = dieOf g.core ∧ f.unit = lineOf at_ ∧ f.core = g.l1)) ∧
  (∀ a st pol s g t e, Chosen (.pfg a st pol) s g [t] → g.thread? t.tid = some t → addrTag (View.pairTag ⟨g, t⟩ addrTag a) = true →
    let addr := View.address ⟨g, t⟩ .global a
    addr % 4 = 0 → addr < 2 ^ 56 → s.tlbFind g.tlbUnit g.ctx addr = some e →
    let pa := leafBase e.pte + (addr - e.vbase)
    hostBit ≤ s.fwd pa → s.lineWaits pa = false → s.accPortDown (accOf e.pte pa) = false → pteVers e.pte = false → pteCoh e.pte = .nc →
    s.halfOk (s.fwd pa) false = false →
    ∃ s' x, exec (.pfg a st pol) s = .next s' ∧ x ∈ s'.coh.asks ∧ x.pa = s.fwd pa ∧ x.halves = [s.fwd pa / 64 * 64] ∧ x.core = none ∧ s'.mem = s.mem)

/-- R144: LDSE, and LDSC which clears the bit, read the word of a granule whose full bit is set and write
it to d, a poisoned word as 0 with tag VOID (R357); where it is clear the thread waits in order of arrival. One
thread, with its word in bounds, no access of its group outstanding, and no order from HORD. -/
def Obligations.FullBitLoads : Prop :=
  ∀ (clear : Bool) (d a : Sel) (st tg : BitVec 4) (s : State) (g : Group) (t : Thread) (tk : TKey) (x : Team),
    let i : Instr := if clear then .ldsc d a st tg else .ldse d a st tg
    let addr := View.address ⟨g, t⟩ .shared a
    let key := sharedKey g.upper addr
    Chosen i s g [t] → addrTag (View.tag ⟨g, t⟩ a) = true → t.hints.ord = none → g.key.team = some tk → s.team? tk = some x →
    addr % 4 = 0 → s.sharedOk g addr = true → (∀ p ∈ s.pends, p.key ≠ g.key) →
    (Store.get false x.full (key / 16) = true → ∃ s' t' x', exec i s = .next s' ∧ s'.thread? g.key t.tid = some t' ∧
      t'.pc = t.pc + 4 ∧ (d.toNat < 0xF8 → t'.reg d.toNat = if key / 8 ∈ x.poison then Reg.void else ⟨x.shared.readWord key, tagOf tg⟩) ∧
      s'.team? tk = some x' ∧ x'.shared = x.shared ∧ Store.get false x'.full (key / 16) = !clear ∧
      (∀ n, n ≠ d.toNat → n ≠ 0xF8 → t'.reg n = t.reg n) ∧ t'.flags = t.flags ∧ s'.mem = s.mem ∧ s'.pends = s.pends ∧
      (∀ k, k ≠ g.key → s'.group? k = s.group? k) ∧ ∀ n, n ≠ key / 16 → Store.get false x'.full n = Store.get false x.full n) ∧
    (Store.get false x.full (key / 16) = false → ∃ s' t' x', exec i s = .next s' ∧ s'.thread? g.key t.tid = some t' ∧
      t'.block = some .bank ∧ t'.pc = t.pc ∧ s'.team? tk = some x' ∧ x'.bankQ = x.bankQ ++ [⟨key / 16, key, g.key, t.tid, d, tagOf tg, clear⟩] ∧
      t'.regs = t.regs ∧ x'.shared = x.shared ∧ x'.full = x.full ∧ s'.mem = s.mem ∧ s'.pends = s.pends ∧ ∀ k, k ≠ g.key → s'.group? k = s.group? k)

/-- R140, R141, R144 to R148, R247, R255: LOAD_COMPLETE and STORE_PERFORMED perform an outstanding access that may be
performed: a load gives its registers the words, a store changes exactly its words, and STSF sets the full bit of its
granule; an atomic and a compare-and-swap change their word, and one with a result gives the old word. A CAS that
writes finds D set (R284). R339: an outward acquire leaves no SELF line in the L1, an outward release none with dirty
words. R337, R341, R296: on a DIR page the die's copy is read and written, on a SELF page the L1's, in a version the
version's view and its copy, once the L1 has no line of another class there. That all its words are performed in one step is the model's reading (log entry 79). -/
def Obligations.AccessesArePerformed : Prop :=
  (∀ (s : State) (p : Pend), Performable s p → PlainWords s p →
    (∀ ws t, p.kind = .load ws → p.dests.length = ws.length → (p.dests.map (fun x => x.1.toNat)).Nodup → s.thread? p.key p.tid = some t →
      ∃ s' t', exec (.loadComplete p.id) s = .next s' ∧ PerformedOf s s' p ∧ WordsKept s s' [] ∧ s'.teams = s.teams ∧ (Unordered p → CachesMove s s') ∧
        s'.thread? p.key p.tid = some t' ∧ ReceivedAll t t' p.id ((p.dests.zip (ws.map s.valueAt)).map (fun x => (x.1.1, ⟨x.2, x.1.2⟩)))) ∧
    (∀ ws full, p.kind = .store ws full → (ws.map (fun x => s.locOf x.1)).Nodup → (∀ x ∈ s.teams, x.bankQ = []) →
      ∃ s', exec (.storePerformed p.id) s = .next s' ∧ PerformedOf s s' p ∧ s'.groups = s.groups ∧ (∀ x ∈ ws, s'.valueAt x.1 = x.2) ∧
        WordsKept s s' (ws.map (fun x => s.locOf x.1)) ∧ (full = none → ∀ tk n, s'.isFull tk n = s.isFull tk n) ∧
        (∀ gr tk, full = some gr → p.key.team = some tk → (s.team? tk).isSome = true → s'.isFull tk gr = true ∧ ∀ n, n ≠ gr → s'.isFull tk n = s.isFull tk n)) ∧
    (∀ a op tg x, p.kind = .atomic a op tg x false →
      ∃ s', exec (.storePerformed p.id) s = .next s' ∧ PerformedOf s s' p ∧ StoredAt s s' a (aopApply op tg (s.valueAt a) (s.carried p a op tg x)) ∧ s'.groups = s.groups) ∧
    (∀ a op tg x d t, p.kind = .atomic a op tg x true → p.dests = [(d, tg)] → s.thread? p.key p.tid = some t →
      ∃ s' t', exec (.loadComplete p.id) s = .next s' ∧ PerformedOf s s' p ∧ StoredAt s s' a (aopApply op tg (s.valueAt a) (s.carried p a op tg x)) ∧
        s'.thread? p.key p.tid = some t' ∧ Received t t' p.id d ⟨s.valueAt a, tg⟩) ∧
    (∀ a c n f d tg t, p.kind = .cas a c n f → p.dests = [(d, tg), (d + 1, .pred)] → d.toNat < 0xF7 → s.thread? p.key p.tid = some t →
      (s.valueAt a = c → ∀ pa, a.loc = .global pa → ∃ e, s.tlbFind p.group.tlbUnit p.ctx p.va.toNat = some e ∧ e.dirty = true) →
      ∃ s' t', exec (.loadComplete p.id) s = .next s' ∧ PerformedOf s s' p ∧ StoredAt s s' a (if s.valueAt a = c then n else s.valueAt a) ∧
        s'.thread? p.key p.tid = some t' ∧ t'.reg d.toNat = ⟨s.valueAt a, tg⟩ ∧ t'.reg (d.toNat + 1) = ⟨if s.valueAt a = c then 1 else 0, .pred⟩) ∧
    (s.outward p.group p.scope = true →
      (∀ ws, p.kind = .load ws → p.acq = true → ∃ s', exec (.loadComplete p.id) s = .next s' ∧ ∀ x ∈ s'.coh.self, x.core ≠ p.group.l1) ∧
      (∀ ws full, p.kind = .store ws full → p.rel = true → ∃ s', exec (.storePerformed p.id) s = .next s' ∧ ∀ x ∈ s'.coh.self, x.core = p.group.l1 → x.dirty = 0))) ∧
  (∀ (s : State) (p : Pend) (a : Acc) (pa : Nat), Performable s p → Unordered p → p.accs = [a] → a.loc = .global pa → s.fwd pa < peerBit → s.fwd pa % 4 = 0 →
    let at_ := s.fwd pa
    let i := at_ % 128 / 4
    let gives := fun (v : Word) => ∀ d tg t, p.kind = .load [a] → p.dests = [(d, tg)] → s.thread? p.key p.tid = some t →
      ∃ s' t', exec (.loadComplete p.id) s = .next s' ∧ PerformedOf s s' p ∧ s'.thread? p.key p.tid = some t' ∧ Received t t' p.id d ⟨v, tg⟩
    let stores := fun (w : Word) (P : State → Prop) => p.kind = .store [(a, w)] none →
      ∃ s', exec (.storePerformed p.id) s = .next s' ∧ PerformedOf s s' p ∧ s'.groups = s.groups ∧ s'.teams = s.teams ∧ P s'
    let settled := ∀ x ∈ s.coh.self, x.core = p.group.l1 → x.line ≠ lineOf at_
    (∀ d x, a.coh = .dir → a.versioned = false → p.pol ≠ 3 → p.who.die = some d → s.coh.copy? d (lineOf at_) = some x → settled →
      gives (Store.get 0 x.words i) ∧
      ∀ w, stores w (fun s' => ∃ x', s'.coh.copy? d (lineOf at_) = some x' ∧ x'.st = .m ∧
        ∀ k, k < 32 → Store.get 0 x'.words k = if k = i then w else Store.get 0 x.words k)) ∧
    (a.coh = .self → a.versioned = false →
      let x := s.coh.selfLine p.group.l1 (lineOf at_)
      gives (if x.valid.getLsbD i then Store.get 0 x.words i else s.peek at_) ∧
      (p.pol ≠ 3 → ∀ w, stores w (fun s' => s'.peek at_ = s.peek at_ ∧
        let x' := s'.coh.selfLine p.group.l1 (lineOf at_)
        x'.valid.getLsbD i = true ∧ x'.dirty.getLsbD i = true ∧ Store.get 0 x'.words i = w))) ∧
    (a.versioned = true → p.vtag ≠ 0 → s.mem.migr = [] → settled →
      gives (s.viewRead none p.group.ctx (s.viewPath p.group.ctx p.vtag) pa) ∧
      ∀ w c, a.kvpage = false → s.live p.group.ctx p.vtag = true → s.copy? none p.group.ctx p.vtag (lineOf pa) = some c →
        stores w (fun s' => s'.peek pa = s.peek pa ∧ ∃ c', s'.copy? none p.group.ctx p.vtag (lineOf pa) = some c' ∧ c'.mask.getLsbD i = true ∧ Store.get 0 c'.words i = w)))

/-! Locks, fences, barriers. -/

/-- R149, R152, R153: LLOCK and LTRY on a line that has no record, at a slice with room, by a group that
holds fewer than 4 lines, none of them this one, and awaits none: the group holds the line, and STAT is
OK with no detail. -/
def Obligations.FreeLockIsTaken : Prop :=
  ∀ (try_ : Bool) (d a : Sel) (st : BitVec 4) (s : State) (g : Group) (t : Thread) (line : Nat),
    let i : Instr := if try_ then .ltry d a st else .llock d a st
    LockReaches i a true false s g t line → line ∉ g.held → g.held.length < 4 → g.awaited = none → g.ended line t.tid = none →
    s.lock? line = none → s.lockFull line = false →
    Answers i a true s g t d 0x80000000#32 (fun s' =>
      s'.lock? line = some ⟨line, some ⟨g.key, g.ctx, g.vid⟩, none, []⟩ ∧ (∀ l, l ≠ line → s'.lock? l = s.lock? l) ∧
      ∃ g', s'.group? g.key = some g' ∧ g'.held = g.held ++ [line] ∧ g'.awaited = none)

/-- R153: LLOCK on a line that another group holds queues the request behind those there and blocks the
thread; LTRY ends with STAT 0x01 and the count of the waiters. -/
def Obligations.HeldLockQueuesOrIsBusy : Prop :=
  ∀ (d a : Sel) (st : BitVec 4) (s : State) (g : Group) (t : Thread) (line : Nat) (r : LockRec) (h : Holder),
    line ∉ g.held → g.held.length < 4 → g.awaited = none → g.ended line t.tid = none → s.lock? line = some r → r.holder = some h → h.key ≠ g.key →
    (LockReaches (.llock d a st) a true false s g t line → ∃ s' t' q, exec (.llock d a st) s = .next s' ∧
      s'.thread? g.key t.tid = some t' ∧ t'.block = some .lock ∧ t'.pc = t.pc ∧ t'.regs = t.regs ∧
      s'.lock? line = some { r with queue := r.queue ++ [q] } ∧ q.key = g.key ∧ q.waiters = [(t.tid, d)] ∧ q.present = true ∧
      q.limit = g.lockTmo.toNat % 2 ^ 32 ∧ (∀ k, k ≠ g.key → s'.group? k = s.group? k) ∧ s'.teams = s.teams ∧ s'.pends = s.pends ∧
      s'.mem.tile = s.mem.tile ∧ ∃ g', s'.group? g.key = some g' ∧ g'.awaited = some line ∧ g'.held = g.held) ∧
    (LockReaches (.ltry d a st) a true false s g t line →
      Answers (.ltry d a st) a true s g t d (statWord true 1 (r.detail 0)) (fun s' => s'.locks = s.locks))

/-- R154, R156: LUNLK by the holder of a line for which nobody waits, in a group of version 0, after its
thread's accesses: the line is free and STAT is OK; where groups wait, the line goes to the first that is present, and
the absent ones before it stand behind the others: the new holder's thread and the releasing one both go on with the
STAT of what is left in the queue; by a group that does not hold it, STAT 0x08 and nothing changes hands. A released
line goes to the first present waiter, which has then the line, its STAT and no wait. -/
def Obligations.LockIsReleasedAndPassedOn : Prop :=
  (∀ (d a : Sel) (st : BitVec 4) (s : State) (g : Group) (t : Thread) (line : Nat) (r : LockRec) (h : Holder),
    LockReaches (.lunlk d a st) a true true s g t line → s.lock? line = some r → r.holder = some h →
    (h.key = g.key → g.vid = 0 → r.queue = [] →
      Answers (.lunlk d a st) a true s g t d 0x80000000#32 (fun s' => s'.lock? line = none ∧ (∀ l, l ≠ line → s'.lock? l = s.lock? l) ∧
        ∃ g', s'.group? g.key = some g' ∧ g'.held = g.held.filter (fun l => decide (l ≠ line)))) ∧
    (h.key = g.key → g.vid = 0 → ∀ (pre post : List LockReq) (q : LockReq) (gq : Group) (tid : Nat) (dq : Sel) (tq : Thread),
      r.queue = pre ++ q :: post → (∀ x ∈ pre, x.present = false) → q.present = true → (r.queue.map LockReq.key).Nodup → q.key ≠ g.key →
      q.waiters = [(tid, dq)] → s.group? q.key = some gq → gq.thread? tid = some tq →
      let r' : LockRec := { r with holder := some ⟨q.key, q.ctx, q.vtag⟩, pending := none, queue := post ++ pre }
      ∃ s' t' g' tq' gq', exec (.lunlk d a st) s = .next s' ∧ s'.lock? line = some r' ∧ (∀ l, l ≠ line → s'.lock? l = s.lock? l) ∧
        s'.thread? g.key t.tid = some t' ∧ Answered t t' d (stat 0 (r'.detail 0)) ∧ s'.thread? q.key tid = some tq' ∧ Answered tq tq' dq (stat 0 (r'.detail 0)) ∧
        s'.group? g.key = some g' ∧ g'.held = g.held.filter (fun l => decide (l ≠ line)) ∧ g'.awaited = g.awaited ∧
        s'.group? q.key = some gq' ∧ gq'.held = gq.held ++ [line] ∧ gq'.awaited = none ∧
        (∀ x, x ≠ t.tid → s'.thread? g.key x = s.thread? g.key x) ∧ (∀ x, x ≠ tid → s'.thread? q.key x = s.thread? q.key x) ∧
        (∀ k, k ≠ g.key → k ≠ q.key → s'.group? k = s.group? k) ∧ s'.pends = s.pends ∧ s'.teams = s.teams ∧ s'.mem.tile = s.mem.tile) ∧
    (h.key ≠ g.key → Answers (.lunlk d a st) a true s g t d (statWord true 8 (r.detail 0)) (fun s' => s'.locks = s.locks))) ∧
  (∀ (s : State) (line : Nat) (r : LockRec) (q : LockReq) (rest : List LockReq) (g : Group) (tid : Nat) (d : Sel) (t : Thread),
    s.lock? line = some r → r.queue = q :: rest → q.present = true → s.group? q.key = some g → q.waiters = [(tid, d)] → g.thread? tid = some t →
    (∀ x ∈ rest, x.key ≠ q.key) → r.line = line →
    ∃ t', (s.lockPass line (fun _ => true) none 0 0).thread? q.key tid = some t' ∧ Answered t t' d (stat 0 ({ r with queue := rest }.detail 0)) ∧
      (s.lockPass line (fun _ => true) none 0 0).lock? line = some { r with holder := some ⟨q.key, q.ctx, q.vtag⟩, pending := none, queue := rest })

/-- R149: LSTAT answers how the line stands, and changes no lock. R135, R153, R154: a lock instruction that must
wait for its thread's operations, or for its line, is outstanding, an LLOCK with its thread blocked, and changes no lock
yet; a waiting LUNLK by the holder frees the line when it reaches its slice, and its STAT is OK (log entry 117). R155, R157: the limit of a present waiter
passes, or the walker breaks a cycle at it: one thread's request leaves its queue with STAT 0x03 or 0x04,
and its thread goes on. Who is youngest is a reading (log entry 64). -/
def Obligations.LockWaitsEndAndStatusIsRead : Prop :=
  (∀ (d a : Sel) (st : BitVec 4) (s : State) (g : Group) (t : Thread) (line : Nat), LockReaches (.lstat d a st) a false false s g t line →
    (s.lock? line = none → Answers (.lstat d a st) a false s g t d 0x90000000#32 (fun s' => s'.locks = s.locks)) ∧
    (∀ r h, s.lock? line = some r → r.holder = some h →
      Answers (.lstat d a st) a false s g t d (statWord false (if h.key = g.key then 0x12 else 0x11) (r.detail 0)) (fun s' => s'.locks = s.locks))) ∧
  (∀ (i : Instr) (lock waits : Bool) (d a : Sel) (st : BitVec 4) (s : State) (g : Group) (t : Thread) (line : Nat),
    ((i = .llock d a st ∨ i = .ltry d a st) ∧ lock = true ∧ waits = false ∨ i = .lunlk d a st ∧ lock = true ∧ waits = true ∨ i = .lstat d a st ∧ lock = false ∧ waits = false) →
    LockReaches i a lock waits s g t line false → (lock = true → waits = false → line ∈ g.held ∨ (g.held.length < 4 ∧ g.awaited = none)) →
    ∃ s' t' p acc, exec i s = .next s' ∧ s'.thread? g.key t.tid = some t' ∧ s'.pends = s.pends ++ [p] ∧ s'.locks = s.locks ∧
      p.key = g.key ∧ p.kind = .lock i acc [t.tid] [(t.tid, d)] ∧ p.rel = waits ∧
      (if isLlock i then t' = { t with regionOpen := false, block := some .lock } else Passed t t' lock) ∧
      (∀ k, k ≠ g.key → s'.group? k = s.group? k) ∧ s'.teams = s.teams ∧ s'.mem.tile = s.mem.tile) ∧
  (∀ (d a : Sel) (st : BitVec 4) (s : State) (p : Pend) (acc : Acc) (pa tid : Nat) (g : Group) (t : Thread) (r : LockRec) (h : Holder),
    Performable s p → p.kind = .lock (.lunlk d a st) acc [tid] [(tid, d)] → acc.loc = .global pa → s.group? p.key = some g → g.thread? tid = some t →
    g.vid = 0 → s.lock? (lineOf (s.fwd pa)) = some r → r.holder = some h → h.key = p.key → r.queue = [] → r.line = lineOf (s.fwd pa) →
    ∃ s' t', exec (.loadComplete p.id) s = .next s' ∧ s'.lock? (lineOf (s.fwd pa)) = none ∧ (∀ l, l ≠ lineOf (s.fwd pa) → s'.lock? l = s.lock? l) ∧
      s'.pends = s.pends.filter (fun q => decide (q.id ≠ p.id)) ∧ s'.thread? p.key tid = some t' ∧ Received t t' p.id d ⟨0x80000000#32, .stat⟩ ∧
      ∀ k, k ≠ p.key → s'.group? k = s.group? k) ∧
  (∀ (s : State) (line : Nat) (r : LockRec) (q : LockReq) (g : Group) (tid : Nat) (d : Sel) (t : Thread),
    s.lock? line = some r → r.line = line → r.holder ≠ none → r.queue.find? (fun q' => decide (q'.key = g.key) && decide (q'.limit ≠ 0)) = some q →
    q.key = g.key → q.present = true → q.waiters = [(tid, d)] → s.group? g.key = some g → g.thread? tid = some t →
    ∃ s' t', exec (.lockTimeout line g.key) s = .next s' ∧ s'.thread? g.key tid = some t' ∧
      Answered t t' d (stat 3 ({ r with queue := r.queue.filter (fun x => decide (x.key ≠ g.key)) }.detail 0)) ∧
      s'.lock? line = some { r with queue := r.queue.filter (fun x => decide (x.key ≠ g.key)) }) ∧
  (∀ (s : State) (r : LockRec) (q : LockReq) (g : Group) (tid : Nat) (d : Sel) (t : Thread) (cycle : List GKey),
    s.waitCycle g.key = some cycle → s.lockReq? g.key = some (r, q) → s.youngest g.key cycle = true →
    s.lock? r.line = some r → r.holder ≠ none →
    q.key = g.key → q.present = true → q.waiters = [(tid, d)] → s.anyGroup? g.key = some g → s.group? g.key = some g → g.thread? tid = some t →
    ∃ s' t', exec (.deadlockBroken g.key) s = .next s' ∧ s'.thread? g.key tid = some t' ∧
      Answered t t' d (stat 4 ({ r with queue := r.queue.filter (fun x => decide (x.key ≠ g.key)) }.detail 0)) ∧
      s'.lock? r.line = some { r with queue := r.queue.filter (fun x => decide (x.key ≠ g.key)) })

/-- R160, R161: FENCE and FNCX join the outstanding operations of their thread; with no access of the thread
outstanding that they cover, those to peers at scope SYS only (R252), they have taken effect: nothing of them is left,
and at an outward scope the L1 holds no SELF line, its dirty words having been written to their home slices (R339); at
a scope that is not outward the caches stay. A fence orders for every party (log entry 7). -/
def Obligations.FencesWaitForCoveredAccesses : Prop :=
  ∀ (i : Instr) (mask : BitVec 16) (sc : Scope), (i = .fence sc ∧ mask = BitVec.allOnes 16 ∨ i = .fncx sc mask) →
    ∀ s g t, Chosen i s g [t] → g.thread? t.tid = some t → (∀ p ∈ s.pends, ∀ m, p.kind ≠ .fence m) →
    let covered := fun (p : Pend) => p.access && decide (p.key = g.key) && decide (t.tid ∈ p.tids) && decide (p.id < s.next) && mask.getLsbD p.stream && (p.peer.isNone || decide (sc = .sys))
    ∃ s', exec i s = .next s' ∧ s'.thread? g.key t.tid = some { t with pc := t.pc + 4, hints := {} } ∧ (∀ k, k ≠ g.key → s'.group? k = s.group? k) ∧
      ((s.pends.any covered = false → s'.pends = s.pends.filter (fun p => decide (p.id ≠ s.next)) ∧ s'.mem.tile = s.mem.tile ∧
         (s.outward g sc = false → s'.mem = s.mem ∧ s'.coh = s.coh) ∧
         (s.outward g sc = true → (∀ x ∈ s'.coh.self, x.core ≠ g.l1) ∧
           let mine := s.coh.self.filter (fun x => decide (x.core = g.l1))
           ((mine.map SelfLine.line).Nodup → (∀ x ∈ mine, x.line % 128 = 0 ∧ x.line < peerBit) → s.coh.copies = [] → s.coh.halves = [] →
             (∀ x ∈ mine, ∀ k, k < 32 → s'.peek (x.line + 4 * k) = if x.dirty.getLsbD k then Store.get 0 x.words k else s.peek (x.line + 4 * k)) ∧
             ∀ pa, pa % 4 = 0 → (∀ x ∈ mine, x.line ≠ lineOf pa) → s'.peek pa = s.peek pa))) ∧
       (s.pends.any covered = true →
         ∃ f, s'.pends = s.pends ++ [f] ∧ f.kind = .fence mask ∧ f.scope = sc ∧ f.key = g.key ∧ f.tid = t.tid ∧ s'.mem = s.mem ∧ s'.coh = s.coh))

/-- R178, R339: SINV and SFLSH of a thread whose operands are accepted and whose accesses have been performed, on
lines that no migration and no transaction holds, write the dirty words of the lines of its range to their
home slice and go on; SINV then leaves no line of the range in the core's L1, SFLSH leaves them there clean. A
count of 0 changes nothing. That they complete in the step that issues them is a reading (log entry 74). -/
def Obligations.CacheMaintenanceCompletes : Prop :=
  ∀ (inval : Bool) (a b : Sel) (s : State) (g : Group),
    let i : Instr := if inval then .sinv a b else .sflsh a b
    let accepted := fun (t : Thread) => addrTag (View.pairTag ⟨g, t⟩ addrTag a) = true ∧ addrTag (View.tag ⟨g, t⟩ b) = true
    (∀ t s1 lines, Chosen i s g [t] → g.thread? t.tid = some t → accepted t → s.outstanding g.key [t.tid] = false →
      State.rangeLines { s with cur := none } g (rangeBlocks (View.pair ⟨g, t⟩ a).toNat (View.val ⟨g, t⟩ b).toNat) = (s1, some lines) →
      (∀ l ∈ lines, s1.lineWaits l = false ∧ ∀ u ∈ lineUnits [l], s1.coh.busy u = false) → s1.groups = s.groups →
      ∃ s', exec i s = .next s' ∧ s'.thread? g.key t.tid = some { t with pc := t.pc + 4, hints := {} } ∧ (∀ k, k ≠ g.key → s'.group? k = s.group? k) ∧
        s'.pends = s.pends ∧ s'.locks = s.locks ∧ s'.teams = s.teams ∧ s'.mem.tile = s.mem.tile ∧
        (inval = true → ∀ x ∈ s'.coh.self, x.core = g.l1 → x.line ∉ lines) ∧
        (inval = false → ∀ x ∈ s'.coh.self, x.core = g.l1 → x.line ∈ lines → x.dirty = 0) ∧
        (g.key.isQueue = false → ∀ x ∈ s'.coh.copies, x.die = dieOf g.core → g.core ∈ x.cores → x.line ∈ lineUnits lines → inval = false ∧ x.st ≠ .m ∧ x.st ≠ .o) ∧
        let mine := s1.coh.self.filter (fun x => decide (x.core = g.l1) && decide (x.line ∈ lines))
        ((mine.map SelfLine.line).Nodup → (∀ x ∈ mine, x.line % 128 = 0 ∧ x.line < peerBit) → s1.coh.copies = [] → s1.coh.halves = [] →
          (∀ x ∈ mine, ∀ k, k < 32 → s'.peek (x.line + 4 * k) = if x.dirty.getLsbD k then Store.get 0 x.words k else s1.peek (x.line + 4 * k)) ∧
          ∀ pa, pa % 4 = 0 → (∀ x ∈ mine, x.line ≠ lineOf pa) → s'.peek pa = s1.peek pa)) ∧
    (∀ ts, Chosen i s g ts → (∀ t ∈ ts, accepted t) →
      (∃ s', exec i s = .next s' ∧ s'.pends = s.pends ∧ s'.locks = s.locks ∧ s'.mem.tile = s.mem.tile) ∧
      ((∀ t ∈ ts, View.val ⟨g, t⟩ b = 0) → s.outstanding g.key (ts.map Thread.tid) = false →
        ∃ s', exec i s = .next s' ∧ OnlyThreads g ts s s' ∧
          ∀ t ∈ ts, g.thread? t.tid = some t → s'.thread? g.key t.tid = some { t with pc := t.pc + 4, hints := {} }))

/-- R162, R165: BARS gives the token of the phase the barrier is in; BARW goes on where its phase has been left,
and else blocks; BARQ answers 1 or 0. R164: a barrier that the launch did not declare, a token that names
another barrier, and a barrier of a queue thread fault. The register forms take any tag but VOID in the register that
names the barrier (log entry 76). -/
def Obligations.BarrierTokensWaitsAndFaults : Prop :=
  (∀ (i : Instr) (op : Nat) (row : BarRow) (s : State) (g : Group) (t : Thread), BarReady i op row s g t → g.thread? t.tid = some t →
    let b := barOf (row.name ⟨g, t⟩)
    let ph := (s.bar g b).phase
    let left := decide (ph ≠ (View.val ⟨g, t⟩ row.d).extractLsb' 0 24)
    (op = 2 → ∃ s' t', exec i s = .next s' ∧ s'.thread? g.key t.tid = some t' ∧
      Wrote { t with regionOpen := false } t' row.d ⟨barToken b ph, .raw⟩ 0 ∧ s'.bar g b = s.bar g b ∧ s'.mem = s.mem ∧ ∀ k, k ≠ g.key → s'.group? k = s.group? k) ∧
    (op = 1 → ∃ s', exec i s = .next s' ∧ s'.bar g b = s.bar g b ∧ (∀ k, k ≠ g.key → s'.group? k = s.group? k) ∧ s'.teams = s.teams ∧ s'.mem.tile = s.mem.tile ∧
      s'.thread? g.key t.tid = some (if left then { t with regionOpen := false, pc := t.pc + 4, hints := {} } else { t with regionOpen := false, block := some .barw })) ∧
    (op = 3 → ∃ s' t', exec i s = .next s' ∧ s'.thread? g.key t.tid = some t' ∧
      Wrote { t with regionOpen := false } t' row.d ⟨if left then 1 else 0, .pred⟩ 0 ∧ s'.bar g b = s.bar g b ∧
      (∀ k, k ≠ g.key → s'.group? k = s.group? k) ∧ s'.teams = s.teams ∧ s'.mem.tile = s.mem.tile)) ∧
  (∀ (s : State) (k : GKey) (imm : BitVec 8) (token : Option Word),
    (k.isQueue = true → s.barTrap k imm token = some ⟨.barrier, 4, barVal imm token, .precise⟩) ∧
    (k.isQueue = false → s.barDeclared k (barOf imm) = false → s.barTrap k imm token = some ⟨.barrier, 1, barVal imm token, .precise⟩) ∧
    (∀ w, token = some w → k.isQueue = false → s.barDeclared k (barOf imm) = true → w.toNat / 2 ^ 24 ≠ imm.toNat →
      s.barTrap k imm token = some ⟨.barrier, 3, barVal imm token, .precise⟩))

/-- R163: BARV of a member that has not arrived gives the phase's token; the arrival counts, and when
every member that has not exited has arrived the phase is one on, with no arrivals. The register form takes any tag
but VOID in the register that names the barrier (log entry 76). -/
def Obligations.BarrierArrivalsCompleteThePhase : Prop :=
  ∀ (i : Instr) (row : BarRow) (s : State) (g : Group) (t : Thread), BarReady i 0 row s g t → g.thread? t.tid = some t →
    let b := barOf (row.name ⟨g, t⟩)
    let x := s.bar g b
    let me := (g.key.tmid, t.tid)
    me ∉ x.arrived → t.exited = false → t.block = none → (∀ tk, g.key.team = some tk → (s.team? tk).isSome = true) →
    ∃ s' t', exec i s = .next s' ∧ s'.thread? g.key t.tid = some t' ∧ Wrote { t with regionOpen := false } t' row.d ⟨barToken b x.phase, .raw⟩ 0 ∧
      s'.mem.tile = s.mem.tile ∧ s'.locks = s.locks ∧ s'.pends = s.pends ∧
      ∃ g', s'.group? g.key = some g' ∧
        s'.bar g' b = if (s.barMembers g.key b).all (fun m => decide (m ∈ x.arrived ++ [me])) then ⟨x.phase + 1, []⟩ else ⟨x.phase, x.arrived ++ [me]⟩

/-! Engines and digit arrays. -/

/-- R166, R169 to R176: an engine command of one thread, whose operands are accepted and whose handle is
good, completes its issue: it joins the outstanding operations with d busy, and its thread goes on; nothing else of the
machine, of its group and of the group's other threads changes yet. TCPY takes d tagged INT, NAT or RAW
(log entry 16). -/
def Obligations.EngineCommandsAreIssued : Prop :=
  ∀ i row, engineRow i = some row → ∀ s g t h, Chosen i s g [t] → g.thread? t.tid = some t → row.ok ⟨g, t⟩ = true →
    (match row.handle with
     | none => h = Layout.invalid
     | some k => s.handleOk g k (View.val ⟨g, t⟩ (View.hsrc ⟨g, t⟩)) = some h) →
    ∃ s' t' p l, exec i s = .next s' ∧ s'.thread? g.key t.tid = some t' ∧ Passed t t' true ∧
      s' = { s with cur := none, groups := s'.groups, pends := s.pends ++ [p], next := s.next + 1 } ∧ (∀ k, k ≠ g.key → s'.group? k = s.group? k) ∧
      s'.group? g.key = some { g with threads := l } ∧ (∀ tid, tid ≠ t.tid → s'.thread? g.key tid = s.thread? g.key tid) ∧
      p.id = s.next ∧ p.key = g.key ∧ p.tid = t.tid ∧ p.lanes = [t.tid] ∧ p.kind = .engine i (row.vals ⟨g, t⟩) h ∧ p.dests = [(row.d, .stat)] ∧
      p.prog = none ∧ p.ctx = g.ctx ∧ p.vtag = g.vid ∧ p.upper = g.upper

/-- R166, R168: ENGINE_COMMAND_COMPLETE ends a command whose accesses before it have been performed and that has
something to end with: its effect, and its STAT in d. R169, R172, R173, R302: a copying command begins with its pieces,
in order, and each event moves one, the D bits of all that it writes set with the first: the words as they stood, the
granules written full (R144), no other word; the last ends it. One that reaches a peer moves them all in one event, so
that a refused one has written nothing (R168, log entry 128). CPY is one piece, BCPY a piece for each row and one for the header, TCPY one for each row; a bad descriptor
copies nothing. R174: KVAPP writes the row, the header and, where the scale grows, the resident rows again. R176: SELT
selects the words above its threshold with their indices. The pieces stand for the whole of a command in version 0,
without order flags and failures; that KVAPP and SELT take effect whole is a reading (log entry 15). -/
def Obligations.EngineCommandsComplete : Prop :=
  ∀ (s : State) (p : Pend) (i : Instr) (vals : List DWord) (h : Layout),
    (∀ (d : Sel) (t : Thread), s.pends.find? (fun q => decide (q.id = p.id)) = some p → p.kind = .engine i vals h → p.dests = [(d, .stat)] → s.inOrder p = true →
      s.kvTurn p = true → s.thread? p.key p.tid = some t →
      (∀ s1 w, s.runEngine p i vals h = .done s1 w → (∀ x ∈ s1.teams, x.phase ≠ .retired) → s1.thread? p.key p.tid = some t →
        ∃ s' t', exec (.engineCommandComplete p.id) s = .next s' ∧ s'.thread? p.key p.tid = some t' ∧ Received t t' p.id d ⟨w, .stat⟩ ∧
          (∀ k, k ≠ p.key → s'.group? k = s1.group? k) ∧
          s' = { s1 with groups := s'.groups, pends := s1.pends.filter (fun q => decide (q.id ≠ p.id)) }) ∧
      (∀ s1 x, s.runEngine p i vals h = .going s1 x →
        exec (.engineCommandComplete p.id) s = .next { s1 with pends := s1.pends.map (fun q => if q.id = p.id then { q with prog := some x } else q) })) ∧
    (∀ x r n, p.prog = some ⟨x :: r, n⟩ → s.runEngine p i vals h = s.engPiece p i vals h ⟨x :: r, n⟩) ∧
    (∀ x r n, EngClear s p → EngReach s p (x.words.map Prod.fst) (x.words.map Prod.snd) →
      DirtyKnown s p (if n = 0 then (x :: r).flatMap EngPiece.vas else []) →
      ∃ s1, s.engPiece p i vals h ⟨x :: r, n⟩ = (if r = [] then .done s1 (engStat i vals h (n + 1) true) else .going s1 ⟨r, n + 1⟩) ∧
        Moved s s1 (x.words.map (fun w => (w.2, s.valueAt w.1)))) ∧
    (p.prog = none →
      (∀ d' a b desc src dst, i = .cpy d' a b → vals = [desc, src, dst] →
        let w : Nat := (desc.setWidth 32 : Word).toNat
        let n := 4 * 2 ^ (w % 4)
        let ssp := cpySpace (w / 4 % 4)
        let dsp := cpySpace (w / 16 % 4)
        (cpyDescOk (desc.setWidth 32) = false → s.runEngine p i vals h = .done s (stat 0x20)) ∧
        (cpyDescOk (desc.setWidth 32) = true → engMisaligned ssp src.toNat n = false → engMisaligned dsp dst.toNat n = false →
          s.engRange p.group ssp src.toNat (n / 4) = none → s.engRange p.group dsp dst.toNat (n / 4) = none →
          ∀ sa da, s.engAccs p.group ssp .rd src.toNat (n / 4) = (s, .ok sa) → s.engAccs p.group dsp .wr dst.toNat (n / 4) = (s, .ok da) →
            EngClear s p → EngReach s p sa da → s.ownBefore p sa = false →
            DirtyKnown s p (if dsp = .global then (List.range (n / 4)).map (engAddr .global dst.toNat) else []) →
            ∃ s1, s.runEngine p i vals h = .done s1 (stat 0 n) ∧ Moved s s1 (da.zip (sa.map s.valueAt)))) ∧
      (∀ d' a b ix at_ s0 blk tk (src : Nat → List Acc), i = .bcpy d' a b → vals = [ix, at_] → s.kvBlock p.group p h ix.toNat = .ok s0 blk → p.key.team = some tk → at_.toNat % 16 = 0 →
        let rows := if h.opt % 2 = 1 then 33 else 32
        let wide := fun (r : Nat) => if r < 32 then 32 else 16
        let va := fun (r : Nat) => if r < 32 then h.rows blk + 128 * r else h.hdr blk
        let dst := fun (r : Nat) => (List.range (wide r)).map (bcpyDst tk p.upper h at_.toNat r)
        (∀ r, r < rows → ∀ k, k < wide r → at_.toNat % 2 ^ 20 + r * h.stride + 4 * k < 2 ^ 20 ∧ s0.sharedOk p.group (at_.toNat % 2 ^ 20 + r * h.stride + 4 * k) = true) →
        (∀ r, r < rows → s0.engRange p.group .global (va r) (wide r) = none ∧ s0.engAccs p.group .global .rd (va r) (wide r) = (s0, .ok (src r))) →
        let words := (List.range rows).map (fun r => (src r).zip (dst r))
        EngClear s0 p → s0.ownBefore p (words.flatten.map Prod.fst) = false → s0.engGone p (words.flatten.map Prod.fst ++ words.flatten.map Prod.snd) = none →
        ∃ pieces, pieces.map EngPiece.words = words ∧ (∀ x ∈ pieces, x.vas = []) ∧ s.runEngine p i vals h =
          if words.flatten.any (fun w => w.1.peer.isSome || w.2.peer.isSome) then s0.engAtOnce p (.bcpy 0 0 0) vals h pieces
          else s0.engPiece p (.bcpy 0 0 0) vals h ⟨pieces, 0⟩) ∧
      (∀ d' a b dir k at_ (row : Nat → List Acc), i = .tcpy d' a b → vals = [dir, k, at_] → dir.toNat < 2 → k.toNat + h.trows ≤ h.count →
        let w := h.rowbytes / 4
        let va := fun (j : Nat) => h.base + (k.toNat + j) * h.stride
        let tile := fun (j : Nat) => (List.range w).map (fun x => ({ loc := .tile (at_.toNat + j * w + x) } : Acc))
        s.engRange p.group .tile at_.toNat (h.trows * w) = none →
        (∀ j, j < h.trows → va j % 4 = 0 ∧ s.engRange p.group .global (va j) w = none ∧
          s.engAccs p.group .global (if dir.toNat = 1 then .wr else .rd) (va j) w = (s, .ok (row j))) →
        let pieces : List EngPiece := (List.range h.trows).map (fun j =>
          if dir.toNat = 1 then { words := (tile j).zip (row j), vas := (List.range w).map (fun x => va j + 4 * x) } else { words := (row j).zip (tile j) })
        let words := pieces.flatMap EngPiece.words
        EngClear s p → s.ownBefore p (words.map Prod.fst) = false → s.engGone p (words.map Prod.fst ++ words.map Prod.snd) = none →
        s.runEngine p i vals h =
          if words.any (fun w => w.1.peer.isSome || w.2.peer.isSome) then s.engAtOnce p (.tcpy 0 0 0) vals h pieces
          else s.engPiece p (.tcpy 0 0 0) vals h ⟨pieces, 0⟩) ∧
      (∀ d' a b ix at_ s0 blk xa ha ra, i = .kvapp d' a b → vals = [ix, at_] → s.kvBlock p.group p h ix.toNat = .ok s0 blk → at_.toNat % 16 = 0 →
        s0.engRange p.group .shared at_.toNat 128 = none → s0.engRange p.group .global (h.hdr blk) 2 = none → s0.engRange p.group .global (h.rows blk) 1024 = none →
        s0.engAccs p.group .shared .rd at_.toNat 128 = (s0, .ok xa) → s0.engAccs p.group .global .rw (h.hdr blk) 2 = (s0, .ok ha) →
        s0.engAccs p.group .global .rw (h.rows blk) 1024 = (s0, .ok ra) →
        EngClear s0 p → EngReach s0 p xa (ha ++ ra) → s0.ownBefore p (xa ++ ha ++ ra) = false →
        DirtyKnown s0 p ((List.range 2).map (engAddr .global (h.hdr blk)) ++ (List.range 1024).map (engAddr .global (h.rows blk))) →
        let hs := ha.map s0.valueAt
        let h0 := nth hs 0 0
        let h1 := nth hs 1 0
        let fill := h1.toNat % 256
        let n := kvAppend h0 h1 ((ra.take (32 * fill)).map s0.valueAt) (xa.map s0.valueAt)
        kvHeaderBad h0 h1 = none → (∀ x ∈ xa, (f32.decode (s0.valueAt x).toNat).isNan = false ∧ (f32.decode (s0.valueAt x).toNat).isInf = false) →
        ∃ s1, s.runEngine p i vals h = .done s1 (stat 0 ((if n.resc then 2 ^ 23 else 0) + fill)) ∧
          Moved s0 s1 ((if n.resc then (ra.take (32 * fill)).zip n.old else []) ++ ((ra.drop (32 * fill)).take 32).zip n.row ++
            ha.zip [BitVec.ofNat 32 (h0.toNat / 2 ^ 16 * 2 ^ 16 + n.scale), BitVec.ofNat 32 (h1.toNat / 256 % 256 * 256 + (fill + 1))])) ∧
      (∀ ix acc, let va := (h.base + 4 * ix) % 2 ^ 64
        ix < h.count → va % 4 = 0 → s.engRange p.group .global va 1 = none → s.engAccs p.group .global .rd va 1 = (s, .ok [acc]) →
        EngClear s p → EngReach s p [acc] [] → s.ownBefore p [acc] = false → (s.valueAt acc).toNat < h.nblk →
        ∃ s0, s.kvBlock p.group p h ix = .ok s0 (s.valueAt acc).toNat ∧ Moved s s0 []) ∧
      (∀ d' a b thr cnt src dst tk, i = .selt d' a b → vals = [thr, cnt, src, dst] → cnt.toNat ≤ 65536 → src.toNat % 4 = 0 → dst.toNat % 8 = 0 → p.key.team = some tk →
        s.engRange p.group .shared src.toNat cnt.toNat = none → s.engRange p.group .shared dst.toNat (2 * cnt.toNat) = none → (s.team? tk).isSome = true → EngClear s p →
        let x := fun (k : Nat) => seltAcc tk p.upper (src.toNat % 2 ^ 20 + 4 * k)
        let out := fun (m : Nat) => seltAcc tk p.upper (dst.toNat % 2 ^ 20 + 4 * m)
        s.ownBefore p ((List.range cnt.toNat).map x) = false →
        let loop := s.seltLoop tk p.upper (thr.setWidth 32) src.toNat dst.toNat cnt.toNat 0 0
        (∃ s1, s.runEngine p i vals h = .done s1 (stat 0 loop.2) ∧ Moved loop.1 s1 ((List.range (2 * loop.2)).map (fun m => (out m, loop.1.valueAt (out m))))) ∧
        ((∀ j m, j < cnt.toNat → m < 2 * cnt.toNat → src.toNat % 2 ^ 20 + 4 * j ≠ dst.toNat % 2 ^ 20 + 4 * m) →
          let sel := (List.range cnt.toNat).filter (fun k => seltTakes (thr.setWidth 32) (s.valueAt (x k)))
          ∃ s1, s.runEngine p i vals h = .done s1 (stat 0 sel.length) ∧
            Moved s s1 ((sel.mapIdx (fun m k => [(out (2 * m), s.valueAt (x k)), (out (2 * m + 1), BitVec.ofNat 32 k)])).flatten))))

/-- R182 to R184, R187: a gang operation (DLD, DLDL, DSWAP, DSTR, DSTRN, DZRO, DDRN, DDRQ, SPGM, DSCR, SMRG) of a member's
thread waits at the latch while some live member has not arrived; the last arrival, when all agree, makes one operation of
the array with every arrival among its members, and every member's threads go on at the next word; when they disagree,
every thread of the arrivals takes UNIFORM with the positions that differ from the lowest one. A group that is no member
takes PROT with the gang's members. That a DZRO's mask is among what must agree is the model's choice (log entry 114); a
team that waits for its array's state is no case of these (log entry 25). -/
def Obligations.GangOperationsRendezvous : Prop :=
  (∀ i row s g t team, GangReady i row s g t team →
    let waiting := (s.arr g.arrCore).waiting
    (∀ gid, gid ∈ (s.arr g.arrCore).latchList → (s.liveMember team gid).isSome = true → gid ≠ g.key.gid →
      (∀ y ∈ waiting, y.key ≠ .kernel team.ctx team.grid team.tmid gid) →
      ∃ s' x, exec i s = .next s' ∧ s'.thread? g.key t.tid = some { t with block := some .latch } ∧
        (s'.arr g.arrCore).waiting = waiting ++ [x] ∧ ArrivedAs x i row g t ∧ (s'.arr g.arrCore).ops = (s.arr g.arrCore).ops) ∧
    ((∀ y ∈ waiting, (∃ gy, s.group? y.key = some gy) ∧ y.key ≠ g.key ∧ y.key.team = some team) →
      (waiting.map (fun y => y.key.gid) ++ [g.key.gid]).Perm (s.arr g.arrCore).latchList → (s.arr g.arrCore).latchList.Nodup →
      ((∀ y ∈ waiting, opcodeOf y.instr = opcodeOf i ∧ y.vals = row.vals ⟨g, t⟩ ∧ y.book = row.book ⟨g, t⟩ ∧ y.hints.payload = t.hints.payload) →
        ∃ s' t' op, exec i s = .next s' ∧ s'.thread? g.key t.tid = some t' ∧ Passed t t' true ∧
          (∀ y ∈ waiting, ∀ tid ∈ y.tids, ∀ u, s.thread? y.key tid = some u → ∃ u', s'.thread? y.key tid = some u' ∧ Passed { u with block := none } u' true) ∧
          (s'.arr g.arrCore).ops = (s.arr g.arrCore).ops ++ [op] ∧ (s'.arr g.arrCore).waiting = [] ∧
          op.members.Perm (waiting.map (fun y => ⟨y.key, y.tids, arrDst y.instr, y.pc⟩) ++ [⟨g.key, [t.tid], arrDst i, t.seqPc⟩]) ∧
          op.id = s.next ∧ opcodeOf op.instr = opcodeOf i ∧ ((∀ y ∈ waiting, y.instr = i) → op.instr = i) ∧
          op.vals = row.vals ⟨g, t⟩ ∧ op.book = row.book ⟨g, t⟩ ∧ op.stat = none ∧
          (s'.arr g.arrCore).acc = (s.arr g.arrCore).acc ∧ s'.mem = s.mem) ∧
      (∀ low h, let all := waiting ++ [arrivalOf i g t [t] (row.vals ⟨g, t⟩) (row.book ⟨g, t⟩) none]
        low ∈ all → (s.arr g.arrCore).latchList.head? = some low.key.gid → (∃ y ∈ all, y.agrees low = false) → s.handler? g.ctx = some h →
        (∀ y ∈ all, ∃ tid u, y.tids = [tid] ∧ s.thread? y.key tid = some u ∧ u.exited = false ∧ u.inHandler = false) →
        ∃ s', exec i s = .next s' ∧ (s'.arr g.arrCore).waiting = [] ∧ (s'.arr g.arrCore).ops = (s.arr g.arrCore).ops ∧
          ∀ y ∈ all, ∀ tid ∈ y.tids, ∀ u, s.thread? y.key tid = some u → ∃ u', s'.thread? y.key tid = some u' ∧
            Trapped u u' ⟨.uniform, 2, BitVec.ofNat 64 (2 ^ 63 + differing (s.arr g.arrCore).latchList all low), .precise⟩ u.seqPc h))) ∧
  (∀ i row s g t h, Chosen i s g [t] → gangRow i = some row → g.thread? t.tid = some t → t.exited = false → t.inHandler = false → row.ok ⟨g, t⟩ = true →
    (s.arr g.arrCore).member g.key = false → s.arrAwaited g = false → s.handler? g.ctx = some h →
    ∃ s' t', exec i s = .next s' ∧ s'.thread? g.key t.tid = some t' ∧ s'.arrs = s.arrs ∧
      Trapped t t' ⟨.prot, 5, BitVec.ofNat 64 (gangMembers (s.arr g.arrCore).latchList), .precise⟩ t.seqPc h)

/-- R185: DGANG on a core with no gang, when every group of its list has arrived with that list: the gang is
formed, with new array state, and STAT gives its length; until then it waits. R216, R198: DWAIT answers OK
where its group has nothing in flight, and waits where it has; DPASS of a member joins the array's operations, or
stands behind its member's arrival while that waits, and its thread goes on. DPASS's place is a reading (log entry 19). -/
def Obligations.GangIsFormedWaitsAndPasses : Prop :=
  (∀ d a s g t team l, Chosen (.dgang d a) s g [t] → g.thread? t.tid = some t → t.exited = false → g.key.team = some team →
    addrTag (View.pairTag ⟨g, t⟩ addrTag a) = true → gangListOf (View.regAt ⟨g, t⟩ a 0).val (View.regAt ⟨g, t⟩ a 1).val = some l → l ≠ [] →
    s.gangListOk g l = true → (s.arr g.arrCore).owner = none →
    (∀ y ∈ (s.arr g.arrCore).waiting, y.forming = some l ∧ y.pass = none ∧ y.key.team = some team ∧ y.key.gid ∈ l ∧ y.key ≠ g.key ∧ ∃ gy, s.group? y.key = some gy) →
    ((∃ gid ∈ l, gid ≠ g.key.gid ∧ ∀ y ∈ (s.arr g.arrCore).waiting, y.key.gid ≠ gid) →
      ∃ s' x, exec (.dgang d a) s = .next s' ∧ s'.thread? g.key t.tid = some { t with block := some .latch } ∧
        (s'.arr g.arrCore).waiting = (s.arr g.arrCore).waiting ++ [x] ∧ x.forming = some l ∧ (s'.arr g.arrCore).owner = none) ∧
    ((∀ gid ∈ l, gid ≠ g.key.gid → ∃ y ∈ (s.arr g.arrCore).waiting, y.key = .kernel team.ctx team.grid team.tmid gid) →
      ((s.arr g.arrCore).waiting.map Arrival.key).Nodup →
      ∃ s' t', exec (.dgang d a) s = .next s' ∧ s'.thread? g.key t.tid = some t' ∧ Answered t t' d (stat 0 l.length) ∧
        s'.arr g.arrCore = { core := g.arrCore, owner := some team, gang := gangWord l, latchList := l, ops := (s.arr g.arrCore).ops })) ∧
  (∀ d s g t, Chosen (.dwait d) s g [t] → g.thread? t.tid = some t →
    (s.arrBusy g.key = false → ∃ s' t', exec (.dwait d) s = .next s' ∧ OnlyThreads g [t] s s' ∧ s'.thread? g.key t.tid = some t' ∧
      Wrote { t with regionOpen := false } t' d ⟨0x80000000#32, .stat⟩ 0) ∧
    ((s.arr g.arrCore).member g.key = true → s.arrBusy g.key = true → ∃ s', exec (.dwait d) s = .next s' ∧ OnlyThreads g [t] s s' ∧
      s'.thread? g.key t.tid = some { t with regionOpen := false, block := some .dwait })) ∧
  (∀ d a s g t, Chosen (.dpass d a) s g [t] → g.thread? t.tid = some t → addrTag (View.tag ⟨g, t⟩ a) = true → (View.val ⟨g, t⟩ a).toNat < 2 →
    (s.arr g.arrCore).member g.key = true →
    ((∀ x ∈ (s.arr g.arrCore).waiting, x.key ≠ g.key) →
      ∃ s' t' op, exec (.dpass d a) s = .next s' ∧ s'.thread? g.key t.tid = some t' ∧ Passed t t' false ∧
        (s'.arr g.arrCore).ops = (s.arr g.arrCore).ops ++ [op] ∧ op.instr = .dpass d a ∧ op.vals = [View.val ⟨g, t⟩ a] ∧ op.stat = none ∧
        op.members = [⟨g.key, [t.tid], some d, t.seqPc⟩] ∧ s'.mem = s.mem) ∧
    ((∃ x ∈ (s.arr g.arrCore).waiting, x.key = g.key) → (∀ x ∈ (s.arr g.arrCore).waiting, x.forming = none ∧ x.pass = none) →
      (∃ team gid, (s.arr g.arrCore).owner = some team ∧ gid ∈ (s.arr g.arrCore).latchList ∧ (s.liveMember team gid).isSome = true ∧
        ∀ y ∈ (s.arr g.arrCore).waiting, y.key.gid ≠ gid) →
      ∃ s' t' x, exec (.dpass d a) s = .next s' ∧ s'.thread? g.key t.tid = some t' ∧ Passed t t' false ∧
        (s'.arr g.arrCore).waiting = (s.arr g.arrCore).waiting ++ [x] ∧ x.key = g.key ∧ x.tids = [t.tid] ∧ x.instr = .dpass d a ∧
        x.vals = [View.val ⟨g, t⟩ a] ∧ x.pass = some s.next ∧ (s'.arr g.arrCore).ops = (s.arr g.arrCore).ops ∧ s'.mem = s.mem))

/-- R186, R187: ARRAY_OP_START performs the first operation of a pipeline whole, and keeps its STAT. R195: DLD and DLDL
recode their columns into the shadow plane. R197: DSWAP exchanges the planes. R199, R201: DSTR and DSTRN stream their rows, up
to one that cannot be read. R203: DZRO clears the tiles of its mask with their sums and maxima, and no other. R207, R208:
DDRN and DDRQ write their rows as values or as codes with scales, and clear the rows where asked. R210: SPGM takes a
good program. R214: DSCR writes the probabilities of its rows and brings output rows to the new maxima. R215: SMRG merges a
partial into its rows. R198: DPASS reads the word of its plane. Other rows, planes and words stay. R181, R188: ARRAY_OP_COMPLETE gives
each participating thread the operation's STAT (DPASS: the word it read, tagged NAT) in its d, and the
operation leaves the array. That the effect is made at the start is a reading (log entry 17). -/
def Obligations.ArrayOperationsRun : Prop :=
  (∀ (s : State) (core pipe : Nat) (o : ArrOp), ArrayReady s core pipe o →
    let a := s.arr core
    let w := o.val 0
    let m := fld w 22 7
    let row0 := fld w 16 6
    let tile := fld w 0 3
    let at_ := (o.val 1).toNat
    let b := (o.val 2).toNat
    let fits := fun (addr bytes : Nat) => s.sharedFits o core addr bytes = true
    let words := fun (addr n : Nat) => s.sharedRun o (addr % 2 ^ 20) n
    let runs := fun (x : Word) (P : State → Prop) => ∃ s', exec (.arrayOpStart core pipe) s = .next s' ∧ OpRan s s' core o x ∧ P s'
    let opt := drainOpt w
    let tableGood := o.capturedBad = [] ∧ s.tableOk core o opt b = true ∧ (opt.cp || opt.zp = true → b % 16 = 0)
    ((s.runArr core a o).a.waiting = [] → (s.runArr core a o).a.ops = a.ops → (s.runArr core a o).a.core = core →
      ∃ s', exec (.arrayOpStart core pipe) s = .next s' ∧
        s'.arr core = { (s.runArr core a o).a with ops := (s.runArr core a o).s.opsAfter a.ops o (s.runArr core a o).w } ∧
        s'.groups = (s.runArr core a o).s.groups ∧ s'.teams = (s.runArr core a o).s.teams ∧ s'.mem = (s.runArr core a o).s.mem) ∧
    (∀ lut d, ((∃ x y z, o.instr = .dld x y z) ∧ lut = false ∨ (∃ x y z, o.instr = .dldl x y z) ∧ lut = true) → dldDesc lut w = some d →
      (d.mxs = true → b % 4 = 0 ∧ fits (b % 2 ^ 20) 512 ∧ o.capturedBad = []) →
      let load := fun (cols : List (List Word)) =>
        let bad := if d.fmt = 0 then firstIllegal cols else none
        let p := planeOf d.fmt d.had bad.isSome (cols.mapIdx (fun c ws =>
          recodeCol d.had (if d.mxs then some (scaleOf (nth o.captured (c / 2) 0) (c % 2)) else none) (colVals d.fmt o.book ws)))
        runs (stat 0 ((if p.tritBad then 2 ^ 23 else 0) + (if p.poison then 2 ^ 22 else 0) + 2 ^ 16 * p.passes + bad.getD 0)) (fun s' =>
          (s'.arr core).shadow = p ∧ (s'.arr core).active = a.active ∧ (s'.arr core).score = a.score ∧ RowsKept a (s'.arr core) (fun _ _ => False) ∧ s'.teams = s.teams)
      (d.tile = false → at_ % 16 = 0 → SharedClear s → (∀ c, c < 256 → fits (at_ % 2 ^ 20 + c * d.stride) (colBytes d.fmt)) →
        load ((List.range 256).map (fun c => words (at_ % 2 ^ 20 + c * d.stride) d.words))) ∧
      (d.tile = true → s.mem.tilePoison = [] →
        (∀ c k, c < 256 → k < d.words → s.tileAllocated o.team.ctx (at_ + c * (d.stride / 4) + k) = true ∧ s.accLost { loc := .tile (at_ + c * (d.stride / 4) + k) } = false) →
        load ((List.range 256).map (fun c => (List.range d.words).map (fun k => s.tileRead o.team.ctx o.vtag (at_ + c * (d.stride / 4) + k)))))) ∧
    (o.instr = .dswap → runs (stat 0) (fun s' => (s'.arr core).active = a.shadow ∧ (s'.arr core).shadow = a.active ∧ (s'.arr core).score = a.score ∧
      RowsKept a (s'.arr core) (fun _ _ => False) ∧ s'.teams = s.teams)) ∧
    (∀ fresh, ((∃ x y z, o.instr = .dstr x y z) ∧ fresh = false ∨ (∃ x y z, o.instr = .dstrn x y z) ∧ fresh = true) →
      let mxs := w.getLsbD 8
      let t := tagOf (BitVec.ofNat 4 (fld w 4 4))
      let h := (o.val 3).toNat
      let bytes := streamBytes t
      let stride := if b = 0 then bytes else b
      let bad := fun (k : Nat) => s.runBad o (at_ % 2 ^ 20 + k * stride) (bytes / 4) || (mxs && s.runBad o (h % 2 ^ 20 + 4 * (k / 2)) 1)
      let n := ((List.range m).takeWhile (fun k => !bad k)).length
      fld w 29 3 = 0 → 0 < m → m ≤ 64 → row0 + m ≤ 64 → fld w 9 7 = 0 → w.getLsbD 3 = false → streamFmt t = true → (mxs = true → mxTag t = true) →
      mxs = o.hints.src.isSome → (b = 0 ∨ (b % 16 = 0 ∧ bytes ≤ b)) → at_ % 16 = 0 → (mxs = true → h % 4 = 0 ∧ fits (h % 2 ^ 20) (4 * ((m + 1) / 2))) →
      (∀ k, k < m → fits (at_ % 2 ^ 20 + k * stride) bytes) →
      runs (if n = m then stat 0 m else stat 0x26 n) (fun s' => PlanesKept a (s'.arr core) ∧ s'.teams = s.teams ∧ RowsKept a (s'.arr core) (inRows tile row0 n) ∧
        ∀ k, k < n →
          let sc := if mxs then some (scaleOf (nth (words (h % 2 ^ 20 + 4 * (k / 2)) 1) 0 0) (k % 2)) else none
          let r := streamRow a.active fresh (a.accRow tile (row0 + k)) (a.sumOf tile (row0 + k)) (srowOf (rowVals t sc (words (at_ % 2 ^ 20 + k * stride) (bytes / 4))))
          (s'.arr core).rowAt tile (row0 + k) = (r.1, r.2, a.maxOf tile (row0 + k)))) ∧
    ((∃ x y, o.instr = .dpass x y) →
      let p := if w.getLsbD 0 then a.shadow else a.active
      p.passes < 2 ^ 4 → p.fmt < 2 ^ 4 → p.had < 2 ^ 2 →
      ∃ x : Word, x.extractLsb' 0 4 = BitVec.ofNat 4 p.passes ∧ x.extractLsb' 4 4 = BitVec.ofNat 4 p.fmt ∧ x.getLsbD 8 = p.poison ∧ x.getLsbD 9 = p.tritBad ∧
        x.extractLsb' 10 2 = BitVec.ofNat 2 p.had ∧ x.extractLsb' 12 20 = 0 ∧
        runs x (fun s' => PlanesKept a (s'.arr core) ∧ RowsKept a (s'.arr core) (fun _ _ => False) ∧ s'.teams = s.teams)) ∧
    (∀ imm, o.instr = .dzro imm → runs (stat 0) (fun s' => PlanesKept a (s'.arr core) ∧ s'.teams = s.teams ∧ ∀ t r, t < 8 → r < 64 →
      (s'.arr core).rowAt t r = if imm.getLsbD t then rowZero else a.rowAt t r)) ∧
    ((∃ x y z, o.instr = .ddrn x y z) →
      let fmt := fld w 4 4
      let f := if fmt = 3 then f32 else if fmt = 4 then f16 else bf16
      let width := if fmt = 3 then 1024 else 512
      drainBad w = false → fld w 12 2 = 0 → (fmt = 3 ∨ fmt = 4 ∨ fmt = 5) → at_ % 16 = 0 → fits (at_ % 2 ^ 20) (m * width) → tableGood → SharedClear s →
      runs (stat 0 (m * width)) (fun s' => PlanesKept a (s'.arr core) ∧ RunWritten s s' o at_ (m * width / 4) ∧
        RowsKept a (s'.arr core) (fun t r => w.getLsbD 15 = true ∧ inRows tile row0 m t r) ∧
        ∀ k, k < m → s'.sharedRun o (at_ % 2 ^ 20 + k * width) (width / 4) = packCodes (f.magBits + 1) ((a.drainRow opt o.captured tile (row0 + k)).map (DVal.round f)) ∧
          (w.getLsbD 15 = true → (s'.arr core).rowAt tile (row0 + k) = rowZero))) ∧
    ((∃ x y z, o.instr = .ddrq x y z) →
      let t := tagOf (BitVec.ofNat 4 (fld w 4 4))
      let el := Tag.elem t
      let width := 256 * el.bits / 8
      drainBad w = false → fld w 12 2 ≠ 3 → mxTag t = true → at_ % 16 = 0 → fits (at_ % 2 ^ 20) (m * (width + 16)) → tableGood → SharedClear s →
      runs (stat 0 (m * (width + 16))) (fun s' => PlanesKept a (s'.arr core) ∧ RunWritten s s' o at_ (m * (width + 16) / 4) ∧
        RowsKept a (s'.arr core) (fun t r => w.getLsbD 15 = true ∧ inRows tile row0 m t r) ∧
        ∀ k, k < m → let q := quantRow el (fld w 12 2) (a.drainRow opt o.captured tile (row0 + k))
          s'.sharedRun o (at_ % 2 ^ 20 + k * width) (width / 4) = packCodes el.bits q.2 ∧ s'.sharedRun o (at_ % 2 ^ 20 + m * width + 16 * k) 4 = packScales q.1 ∧
          (w.getLsbD 15 = true → (s'.arr core).rowAt tile (row0 + k) = rowZero))) ∧
    ((∃ x y, o.instr = .spgm x y) → w.toNat % 16 = 0 → fits (w.toNat % 2 ^ 20) 96 → o.capturedBad = [] →
      (∀ k, spgmBad o.captured = some k → runs (stat 0x20 k) (fun s' => PlanesKept a (s'.arr core) ∧ RowsKept a (s'.arr core) (fun _ _ => False) ∧ s'.teams = s.teams)) ∧
      (spgmBad o.captured = none → runs (stat 0 (nth o.captured 20 0).toNat) (fun s' =>
        (s'.arr core).score = ⟨o.captured.take 16, (o.captured.drop 16).take 4, (nth o.captured 20 0).toNat⟩ ∧ (s'.arr core).active = a.active ∧
        (s'.arr core).shadow = a.shadow ∧ RowsKept a (s'.arr core) (fun _ _ => False) ∧ s'.teams = s.teams))) ∧
    ((∃ x y z, o.instr = .dscr x y z) →
      let pf := fld w 4 4
      let f := if pf = 4 then f16 else if pf = 5 then bf16 else if pf = 6 then e4m3 else e5m2
      let width := if pf ≤ 5 then 512 else 256
      let ot := fld w 8 3
      let qbase := fld (o.val 2) 0 24
      let kbase := fld (o.val 3) 0 24
      o.hints.src.isSome = true → fld w 29 3 = 0 → 0 < m → m ≤ 64 → row0 + m ≤ 64 → fld w 11 4 = 0 → w.getLsbD 3 = false → 4 ≤ pf → pf ≤ 7 → ot ≠ tile →
      fld (o.val 3) 24 8 = 0 → qbase + 63 < 2 ^ 24 → kbase + 255 < 2 ^ 24 → at_ % 16 = 0 → fits (at_ % 2 ^ 20) (m * width) → SharedClear s →
      runs (stat 0 (m * width)) (fun s' => PlanesKept a (s'.arr core) ∧ RunWritten s s' o at_ (m * width / 4) ∧
        RowsKept a (s'.arr core) (fun t r => inRows ot row0 m t r ∨ (w.getLsbD 15 = true ∧ inRows tile row0 m t r)) ∧
        ∀ k, k < m →
          let x := softRow (a.maxOf ot (row0 + k)) ((a.accRow tile (row0 + k)).mapIdx (fun c y => scoreOf a.score y (qbase + (row0 + k)) (kbase + c) (fld (o.val 2) 24 8)))
          s'.sharedRun o (at_ % 2 ^ 20 + k * width) (width / 4) = packCodes (f.magBits + 1) (x.2.2.map (fun v => (convFloat f32 f .rne false (f32.decode v.toNat)).1)) ∧
          (s'.arr core).rowAt ot (row0 + k) = ((a.accRow ot (row0 + k)).map (rescale x.2.1), rescale x.2.1 (a.sumOf ot (row0 + k)), x.1) ∧
          (w.getLsbD 15 = true → (s'.arr core).rowAt tile (row0 + k) = rowZero))) ∧
    ((∃ x y z, o.instr = .smrg x y z) → fld w 29 3 = 0 → fld w 3 13 = 0 → 0 < m → m ≤ 64 → row0 + m ≤ 64 → at_ % 16 = 0 → b % 16 = 0 →
      (∀ k, k < m → s.mergeFits core a o tile row0 at_ b k = true ∧ s.mergeBad a o tile row0 at_ b k = false) →
      runs (stat 0 m) (fun s' => PlanesKept a (s'.arr core) ∧ s'.teams = s.teams ∧ RowsKept a (s'.arr core) (inRows tile row0 m) ∧
        ∀ k, k < m →
          let pair := words (b % 2 ^ 20 + 8 * k) 2
          let ob := words (at_ % 2 ^ 20 + 1024 * k) 256
          (s'.arr core).rowAt tile (row0 + k) = match mergeFactors (a.maxOf tile (row0 + k)) (nth pair 0 0) with
            | none => a.rowAt tile (row0 + k)
            | some (mx, al, be) => (((a.accRow tile (row0 + k)).zip ob).map (fun x => mergeF x.1 al x.2 be), mergeF (a.sumOf tile (row0 + k)) al (nth pair 1 0) be, mx)))) ∧
  (∀ (s : State) (core pipe : Nat) (o : ArrOp) (w : Word) (m : ArrMember) (tid : Nat) (d : Sel) (t : Thread),
    (s.arr core).ops.find? (fun x => decide (arrPipe x.instr = pipe)) = some o → o.stat = some w → (s.arr core).waiting = [] →
    m ∈ o.members → (o.members.map ArrMember.key).Nodup → m.dst = some d → tid ∈ m.tids → s.thread? m.key tid = some t → t.exited = false →
    (∀ x ∈ s.teams, x.phase ≠ .retired) →
    ∃ s' t', exec (.arrayOpComplete core pipe) s = .next s' ∧ s'.thread? m.key tid = some t' ∧
      Received t t' o.id d ⟨w, arrTag o.instr⟩ ∧ ∀ x ∈ (s'.arr core).ops, x ∈ (s.arr core).ops ∧ x.id ≠ o.id)

/-! System instructions. -/

/-- R26 to R29, R234: SRD reads a register that the thread's kind may read; SWR leaves the RW bits it may
write from d and every other bit as it was, in one thread; a register that is out of reach is PROT. -/
def Obligations.SystemRegistersReadAndWritten : Prop :=
  (∀ d imm s g ts r, Chosen (.srd d imm) s g ts → sysCheck (.srd d imm) g imm false = .ok r →
    Gives (.srd d imm) s g ts d (fun v => ⟨halfOf (sysHigh imm) (s.readSys g v.t (sysNum imm)), .nat⟩) (fun _ => 0)) ∧
  (∀ d imm s g t r, Chosen (.swr d imm) s g [t] → g.thread? t.tid = some t → sysCheck (.swr d imm) g imm true = .ok r →
    View.tag ⟨g, t⟩ d ≠ .void → sysValueBad imm r (View.val ⟨g, t⟩ d) = false → (s.ctx? g.ctx).isSome = true →
    ∃ s' g' t', exec (.swr d imm) s = .next s' ∧ s'.group? g.key = some g' ∧ g'.thread? t.tid = some t' ∧ t'.pc = t.pc + 4 ∧ t'.hints = {} ∧
      t'.regs = t.regs ∧ s'.readSys g' t' (sysNum imm) = r.put (sysHigh imm) (s.readSys g t (sysNum imm)) (View.val ⟨g, t⟩ d) ∧
      s'.mem = s.mem ∧ s'.grids = s.grids ∧ ∀ k, k ≠ g.key → s'.group? k = s.group? k) ∧
  (∀ i g imm wr r, sysReg (sysNum imm) = some r → (if wr then r.write else r.read).ok g = false → sysCheck i g imm wr = .error (sysProt (sysNum imm)))

/-- R219 to R227, R312: LNCH and LNCHS whose record is good give OK with the new grid's handle; the grid
enters its queue with the parameters read, and the context's code leaves the instruction caches (R76); LNCHS also makes a live child version that holds the predicted
value, and gives its tag. -/
def Obligations.LaunchAddsAGrid : Prop :=
  (∀ d a s g t w params regions c slot s5, Settled (.lnch d a) s g t → addrTag (View.pairTag ⟨g, t⟩ addrTag a) = true →
    LaunchReads s g (View.pair ⟨g, t⟩ a).toNat w params regions c slot s5 →
    let r := recordOf w regions
    let h := c.nextHandle slot
    GivesWord (.lnch d a) s g t d (sysWord 0 h.toNat) (fun s' =>
      s'.grids = s5.grids ++ [{ ctx := g.ctx, handle := h, rcd := r, params := paramsOf r params r.vtag (((c.ver? r.vtag).map Ver.pred).getD 0) }] ∧
      s'.dist.entered = s5.dist.entered ++ [(g.ctx, h.toNat)] ∧ s'.mem = { s5.mem with icache := s5.mem.icache.filter (fun l => decide (l.ctx ≠ g.ctx)) })) ∧
  (∀ d a b s g t w params regions c slot s5 tag, Settled (.lnchs d a b) s g t → addrTag (View.pairTag ⟨g, t⟩ addrTag a) = true →
    View.tag ⟨g, t⟩ b ≠ .void → LaunchReads s g (View.pair ⟨g, t⟩ a).toNat w params regions c slot s5 →
    (c.path (recordOf w regions).vtag).length ≠ 16 → c.freshTag = some tag → d.toNat < 0xF7 →
    let r := recordOf w regions
    let h := c.nextHandle slot
    ∃ s' t' c' x, exec (.lnchs d a b) s = .next s' ∧ s'.thread? g.key t.tid = some t' ∧ t'.pc = t.pc + 4 ∧
      t'.reg d.toNat = ⟨sysWord 0 h.toNat, .nat⟩ ∧ t'.reg (d.toNat + 1) = ⟨tag.setWidth 32, .nat⟩ ∧
      s'.grids = s5.grids ++ [{ ctx := g.ctx, handle := h, rcd := { r with vtag := tag }, params := paramsOf r params tag (View.val ⟨g, t⟩ b) }] ∧
      s'.ctx? g.ctx = some c' ∧ c'.ver? tag = some x ∧ x.st = .live ∧ x.parent = r.vtag ∧ x.pred = View.val ⟨g, t⟩ b)

/-- R229 to R231, R294, R302: RSLV commits a live child of the root whose grids are done, makes its children the root's,
squashes every other child of the root with its subtree, brings the acceptance history of its class on, and gives the
count of those squashed with the history; the words that the version's copies hold become committed memory, its copies are
gone, and no other word changes (R261, R300), here without peers and with no grid left in the context; VSQ squashes a
live version; VQRY reports how a version stands, a live one with its depth, its live children and its parent, the root with
its live children. That a squash takes all its steps at once is a reading (log entry
20). -/
def Obligations.VersionsResolvedAndSquashed : Prop :=
  (∀ d a b s g t c x, Settled (.rslv d a b) s g t → g.key.isQueue = true → addrTag (View.tag ⟨g, t⟩ a) = true → addrTag (View.tag ⟨g, t⟩ b) = true →
    s.ctx? g.ctx = some c → VersOk c → NoLockFor s g → TreeFree s g.ctx → (View.val ⟨g, t⟩ b).toNat < 2 ^ 19 →
    let v : Tag16 := (View.val ⟨g, t⟩ a).setWidth 16
    let cls := (View.val ⟨g, t⟩ b).toNat / 2 ^ 16 % 8
    let drafted := (View.val ⟨g, t⟩ b).toNat / 2 ^ 8 % 256
    let others := (c.liveVers.filter (fun y => decide (y.parent = 0) && decide (y.tag ≠ v))).flatMap (fun y => c.subtree y.tag)
    v ≠ 0 → c.ver? v = some x → x.st = .live → x.parent = 0 → s.openGrids g.ctx (fun y => decide (y = v)) = [] →
    ∃ s' t' w c', exec (.rslv d a b) s = .next s' ∧ s'.thread? g.key t.tid = some t' ∧ t'.pc = t.pc + 4 ∧ (d.toNat < 0xF8 → t'.reg d.toNat = ⟨w, .nat⟩) ∧
      s'.ctx? g.ctx = some c' ∧ w = sysWord 0 (2 ^ 16 * Nat.min others.length 255 + (nth c'.ah cls 0).toNat) ∧
      c'.ah = (if drafted = 0 then c.ah else c.ah.mapIdx (fun k h => if k = cls then ahStep h ((View.val ⟨g, t⟩ b).toNat % 256) drafted else h)) ∧
      (∃ x', c'.ver? v = some x' ∧ x'.st = .committed) ∧
      (∀ y ∈ c.vers, y.st = .live → y.parent = v → ∃ y', c'.ver? y.tag = some y' ∧ y'.st = .live ∧ y'.parent = 0 ∧ c'.path y.tag = [y.tag]) ∧
      (∀ y ∈ others, ∀ z ∈ c'.vers, z.tag = y → z.st = .squashed) ∧
      (CopiesPlain s g.ctx v → s.openGrids g.ctx (fun _ => true) = [] →
        let mine := fun (k : LineCopy) => k.src = none ∧ k.ctx = g.ctx ∧ k.tag = v
        (∀ k ∈ s.mem.copies, mine k → ∀ i, i < 32 → s'.peek (k.line + 4 * i) = if k.mask.getLsbD i then Store.get 0 k.words i else s.peek (k.line + 4 * i)) ∧
        (∀ pa, pa % 4 = 0 → pa < hostBit → (∀ k ∈ s.mem.copies, mine k → k.line ≠ lineOf pa) → s'.peek pa = s.peek pa) ∧
        ∀ k ∈ s'.mem.copies, ¬mine k)) ∧
  (∀ d a s g t c x, Settled (.vsq d a) s g t → g.key.isQueue = true → addrTag (View.tag ⟨g, t⟩ a) = true →
    s.ctx? g.ctx = some c → VersOk c → NoLockFor s g → TreeFree s g.ctx →
    let v : Tag16 := (View.val ⟨g, t⟩ a).setWidth 16
    v ≠ 0 → c.ver? v = some x → x.st = .live →
    ∃ s' t' c' x', exec (.vsq d a) s = .next s' ∧ s'.thread? g.key t.tid = some t' ∧ t'.pc = t.pc + 4 ∧
      (d.toNat < 0xF8 → t'.reg d.toNat = ⟨sysWord 0 (2 ^ 16 * Nat.min (c.subtree v).length 255), .nat⟩) ∧
      s'.ctx? g.ctx = some c' ∧ c'.ver? v = some x' ∧ x'.st = .squashed) ∧
  (∀ d a s g ts c, Chosen (.vqry d a) s g ts → (∀ t ∈ ts, addrTag (View.tag ⟨g, t⟩ a) = true) → s.ctx? g.ctx = some c →
    Gives (.vqry d a) s g ts d (fun v => ⟨c.vqry ((v.val a).setWidth 16), .nat⟩) (fun _ => 0)) ∧
  (∀ (c : Ctx) (v : Tag16),
    let kids := (c.liveVers.filter (fun y => decide (y.parent = v))).length
    (v ≠ 0 → c.ver? v = none → c.vqry v = 0xC0000000#32) ∧
    (v ≠ 0 → ∀ x, c.ver? v = some x → (x.st = .committed → c.vqry v = 0x40000000#32) ∧ (x.st = .squashed → c.vqry v = 0x80000000#32) ∧
      (x.st = .live → (c.path v).length < 2 ^ 5 → kids < 2 ^ 8 → (c.vqry v).extractLsb' 30 2 = 0 ∧ (c.vqry v).getLsbD 29 = false ∧
        (c.vqry v).extractLsb' 24 5 = BitVec.ofNat 5 (c.path v).length ∧ (c.vqry v).extractLsb' 16 8 = BitVec.ofNat 8 kids ∧ (c.vqry v).extractLsb' 0 16 = x.parent)) ∧
    (v = 0 → kids < 2 ^ 8 → (c.vqry v).extractLsb' 30 2 = 1 ∧ (c.vqry v).getLsbD 29 = false ∧ (c.vqry v).extractLsb' 24 5 = 0 ∧
      (c.vqry v).extractLsb' 16 8 = BitVec.ofNat 8 kids ∧ (c.vqry v).extractLsb' 0 16 = 0))

/-- R228, R232, R233: WAITG on a grid that is done gives its completion word and frees its slot, without
blocking gives NOTDONE, and else blocks its queue thread until the grid completes; LOC gives what its
selector names; HOSTI sends the message of its vector's entry, or leaves it pending where the host has masked it. -/
def Obligations.WaitsPlacesAndInterrupts : Prop :=
  (∀ d a s g t, Chosen (.waitg d a) s g [t] → g.thread? t.tid = some t → addrTag (View.tag ⟨g, t⟩ a) = true →
    let h := (View.val ⟨g, t⟩ a).toNat % 2 ^ 16
    ∀ gr, s.grid? g.ctx h = some gr →
      (∀ x, gr.done = some x → GivesWord (.waitg d a) s g t d x (fun s' => s'.grid? g.ctx h = none ∧ s'.locks = s.locks)) ∧
      (gr.done = none → (View.val ⟨g, t⟩ a).getLsbD 16 = true → GivesWord (.waitg d a) s g t d (sysWord 8) (fun s' => s' = { s with cur := none, groups := s'.groups })) ∧
      (∀ slot, gr.done = none → (View.val ⟨g, t⟩ a).getLsbD 16 = false → g.key = .queue slot →
        ∃ s' gr', exec (.waitg d a) s = .next s' ∧ s'.thread? g.key t.tid = some { t with block := some .waitg } ∧
          s'.grid? g.ctx h = some gr' ∧ (slot, d) ∈ gr'.waiters ∧ gr'.done = none ∧ s'.mem = s.mem)) ∧
  (∀ d s g ts, Chosen (.loc d) s g ts → (∀ t ∈ ts, addrTag (View.tag ⟨g, t⟩ d) = true ∧ (View.val ⟨g, t⟩ d).toNat ≤ 3) →
    Gives (.loc d) s g ts d (fun v => ⟨BitVec.ofNat 32 (s.locVal g (v.val d).toNat), .nat⟩) (fun _ => 0)) ∧
  (∀ d a s g t c, Settled (.hosti d a) s g t → addrTag (View.tag ⟨g, t⟩ a) = true → s.ctx? g.ctx = some c →
    let n := (View.val ⟨g, t⟩ a).toNat
    n < 2 ^ 11 →
    (c.vecCount ≤ n → GivesWord (.hosti d a) s g t d (sysWord 0xD) (fun s' => s'.dev.msixSent = s.dev.msixSent)) ∧
    let e := Store.get MsixEntry.reset s.dev.msix (c.vecFirst + n)
    (n < c.vecCount → e.masked = false → GivesWord (.hosti d a) s g t d (sysWord 0) (fun s' => s'.dev.msixSent = s.dev.msixSent ++ [(c.vecFirst + n, e.addr, e.data)])) ∧
    (n < c.vecCount → e.masked = true → GivesWord (.hosti d a) s g t d (sysWord 0xC) (fun s' =>
      s'.dev.msixSent = s.dev.msixSent ∧ c.vecFirst + n ∈ s'.dev.msixPending)))

/-- R239 to R242, R286: TLWR writes the entry of a good image; KVFRK raises a count below 1023; MIGR of a page
that is not migrating makes it so, d busy; PTINV drops the context's translations of the page, or all of
them, with the walk-cache entries that match (R285). KVFRK's tags and MIGR's host frames are readings (log entry 58). -/
def Obligations.TablesAndPagesChange : Prop :=
  (∀ d a b s g t s1 w c, Settled (.tlwr d a b) s g t → addrTag (View.tag ⟨g, t⟩ a) = true → addrTag (View.pairTag ⟨g, t⟩ addrTag b) = true →
    (View.pair ⟨g, t⟩ b).toNat % 64 = 0 →
    let tgt := (View.val ⟨g, t⟩ a).toNat / 2 ^ 16
    (s.ctx? tgt).isSome = true → State.readVirt { s with cur := none } g (View.pair ⟨g, t⟩ b).toNat 16 = .ok s1 w → s1.groups = s.groups →
    s1.ctx? tgt = some c → recHalf w 0 = tgt → imageBad w = none →
    GivesWord (.tlwr d a b) s g t d (sysWord 0) (fun s' => ∃ c', s'.ctx? tgt = some c' ∧
      Store.get Layout.invalid c'.layout ((View.val ⟨g, t⟩ a).toNat % 2 ^ 16) = (if recByte w 2 = 0 then Layout.invalid else layoutOf w))) ∧
  (∀ d a b s g t c s1 s2 acc, Settled (.kvfrk d a b) s g t → addrTag (View.tag ⟨g, t⟩ a) = true → View.tag ⟨g, t⟩ b = .nat → addrTag (View.tag ⟨g, t⟩ d) = true →
    let tgt := (View.val ⟨g, t⟩ a).toNat / 2 ^ 16
    s.ctx? tgt = some c →
    let e := Store.get Layout.invalid c.layout ((View.val ⟨g, t⟩ a).toNat % 2 ^ 16)
    e.ctx = tgt → e.kind = 1 → (View.val ⟨g, t⟩ b).toNat < e.nblk →
    State.privWords { s with cur := none } (g.inCtx tgt) .rw (e.hdr (View.val ⟨g, t⟩ b).toNat) 1 = .ok s1 [acc] →
    let sp := s1.engPrepare (g.inCtx tgt) [acc] [acc]
    sp.accPoison (g.inCtx tgt).engine acc = false →
    sp.markDirty (g.inCtx tgt).tlbUnit (g.inCtx tgt).ctx (e.hdr (View.val ⟨g, t⟩ b).toNat) = (s2, true) → s2.groups = s.groups → sp.plain acc → (∃ pa, acc.loc = .global pa) →
    0 < kvRefcnt (sp.valueAt acc) → kvRefcnt (sp.valueAt acc) < 1023 →
    GivesWord (.kvfrk d a b) s g t d (sysWord 0) (fun s' => s'.valueAt acc = sp.valueAt acc + 0x10000)) ∧
  (∀ d a b s g t m, Settled (.migr d a b) s g t → addrTag (View.tag ⟨g, t⟩ d) = true → addrTag (View.pairTag ⟨g, t⟩ addrTag a) = true →
    addrTag (View.pairTag ⟨g, t⟩ addrTag b) = true → (View.val ⟨g, t⟩ d).toNat < 2 ^ 16 → s.tableWaits (View.val ⟨g, t⟩ d).toNat (View.pair ⟨g, t⟩ a).toNat = false →
    State.migrStart { s with cur := none } (View.val ⟨g, t⟩ d).toNat (View.pair ⟨g, t⟩ a) (View.pair ⟨g, t⟩ b) (g.key, d) = .ok m →
    ∃ s' t' p, exec (.migr d a b) s = .next s' ∧ s'.thread? g.key t.tid = some t' ∧ Passed t t' false ∧ s'.pends = s.pends ++ [p] ∧ p.dests = [(d, .nat)] ∧
      s'.migrOf m.ctx m.va = some m ∧ m.running = true ∧ s'.mem.ram = s.mem.ram) ∧
  (∀ a b s g t, Settled (.ptinv a b) s g t → addrTag (View.pairTag ⟨g, t⟩ addrTag a) = true → addrTag (View.tag ⟨g, t⟩ b) = true →
    (View.val ⟨g, t⟩ b).toNat < 2 ^ 17 →
    ∃ s', exec (.ptinv a b) s = .next s' ∧ s'.thread? g.key t.tid = some { t with pc := t.pc + 4, hints := {} } ∧
      (∀ e ∈ s'.mem.tlb, e.hit ((View.val ⟨g, t⟩ b).toNat % 2 ^ 16) (if (View.val ⟨g, t⟩ b).getLsbD 16 then none else some (View.pair ⟨g, t⟩ a).toNat) = false) ∧
      (∀ e ∈ s.mem.tlb, e.hit ((View.val ⟨g, t⟩ b).toNat % 2 ^ 16) (if (View.val ⟨g, t⟩ b).getLsbD 16 then none else some (View.pair ⟨g, t⟩ a).toNat) = false →
        e ∈ s'.mem.tlb) ∧
      ∀ w ∈ s'.mem.walks, w.ctx = (View.val ⟨g, t⟩ b).toNat % 2 ^ 16 →
        (View.val ⟨g, t⟩ b).getLsbD 16 = false ∧ w.vpart ≠ (View.pair ⟨g, t⟩ a).toNat / 2 ^ (12 + 11 * w.lvl))

/-! The issue logic, the walker, the distributor. -/

/-- R135, R136, R309, R322, R323: ISSUE_SELECT and QUEUE_THREAD_ISSUE choose a group's issue group: the ready threads
passed over 64 times, or else all ready ones, are the candidates; the candidate with the lowest PC leads, in the lowest
lane among those, and every candidate at its PC with its source tags and hints issues with it. Their pass-over counts
become 0, and those of the other ready threads rise by one. GROUP_SWAP admits the pending group that has been ready
longest, or exchanges it for a waiting one. How ties fall, the order among ready groups, and which group leaves where
none waits are the model's (log entries 75, 80, 121). -/
def Obligations.IssueLogicChooses : Prop :=
  (∀ s core quad g, s.cur = none → s.choose core quad = some g → (s.markReady core quad).issueGroup g ≠ [] →
    ∃ s', exec (.issueSelect core quad) s = .next s' ∧ s'.cur = some ⟨g.key, (s.markReady core quad).issueGroup g⟩ ∧ s' = { s with cur := s'.cur, groups := s'.groups, dist := s'.dist } ∧
      (∀ tid t, s.thread? g.key tid = some t →
        (tid ∈ (s.markReady core quad).issueGroup g → s'.thread? g.key tid = some { t with passOver := 0 }) ∧
        (tid ∉ (s.markReady core quad).issueGroup g → (∃ u ∈ g.threads, u.tid = tid ∧ (s.markReady core quad).threadReady g u = true) →
          s'.thread? g.key tid = some { t with passOver := t.passOver + 1 }) ∧
        ((∀ u ∈ g.threads, u.tid = tid → (s.markReady core quad).threadReady g u = false) → tid ∉ (s.markReady core quad).issueGroup g ∧ s'.thread? g.key tid = some t)) ∧
      Store.get 0 s'.dist.lastGroup (4 * core + quad) = g.resid) ∧
  (∀ s qcore i g, s.cur = none → (s.coreQueue qcore).filter (fun x => s.groupReady x.2) = [(i, g)] → s.issueGroup g ≠ [] → qcore < s.dist.lastQt.length →
    ∃ s', exec (.queueThreadIssue qcore) s = .next s' ∧ s'.cur = some ⟨g.key, s.issueGroup g⟩ ∧ nth s'.dist.lastQt qcore 7 = i ∧ s'.mem = s.mem) ∧
  (∀ s s1 core quad p, s1 = s.markReady core quad → s1.pendingReady core quad = some p →
    (((s1.quadGroups core quad).filter Group.active).length < 8 →
      ∃ s' p', exec (.groupSwap core quad) s = .next s' ∧ s'.group? p.key = some p' ∧ p'.active = true ∧ s' = { s with groups := s'.groups, dist := s'.dist }) ∧
    (∀ g, 8 ≤ ((s1.quadGroups core quad).filter Group.active).length → g.key ≠ p.key →
      let act := (s1.quadGroups core quad).filter Group.active
      (act.find? s1.waiting = some g ∨ ((∀ x ∈ act, s1.waiting x = false) ∧ act.find? s1.mayYield = some g)) →
      ∃ s' p' g', exec (.groupSwap core quad) s = .next s' ∧ s'.group? p.key = some p' ∧ p'.active = true ∧ s'.group? g.key = some g' ∧ g'.active = false) ∧
    (8 ≤ ((s1.quadGroups core quad).filter Group.active).length → (∀ x ∈ (s1.quadGroups core quad).filter Group.active, s1.waiting x = false ∧ s1.mayYield x = false) →
      exec (.groupSwap core quad) s = .next s1)) ∧
  (∀ (s : State) core quad p, s.pendingReady core quad = some p → p ∈ s.quadGroups core quad ∧ p.active = false ∧ s.groupReady p = true ∧
    ∀ q ∈ s.quadGroups core quad, q.active = false → s.groupReady q = true → p.readyAt.getD s.dist.order ≤ q.readyAt.getD s.dist.order) ∧
  (∀ (s : State) (g : Group), ((∀ t ∈ g.threads, s.threadReady g t = false) → s.issueGroup g = []) ∧
    ((g.threads.map Thread.tid).Nodup → (∃ t ∈ g.threads, s.threadReady g t = true) → ∃ t, Leads s g t ∧
      ∀ x ∈ g.threads, x.tid ∈ s.issueGroup g ↔ Candidate s g x ∧ x.pc = t.pc ∧ s.sourceTags g x = s.sourceTags g t ∧ x.hints.payload = t.hints.payload))

/-- R283 to R285: a walk, from the root or from the deepest pointer entry that the walk cache holds, that finds a
leaf gives the TLB its translation and sets A in the entry, and no other word of the device changes; one that fails changes
nothing outside the walk cache but where lines stand in L2; a walk waits while a line of its tables is being moved (R287).
An address whose translation the TLB holds, and one of no context, are not walked. Which entry of a full set leaves is the
model's choice (log entry 91). -/
def Obligations.WalkFillsTheTranslation : Prop :=
  ∀ (s : State) (tlb ctx : Nat) (va : BitVec 64), tlb < 10 → va.toNat < 2 ^ 56 →
    ((s.tlbFind tlb ctx va.toNat).isSome = true ∨ s.ctx? ctx = none → exec (.translationWalk tlb ctx va) s = .next s) ∧
    (s.tlbFind tlb ctx va.toNat = none → ∀ c n table, s.ctx? ctx = some c → s.walkStart tlb ctx va.toNat c.ptRoot = (n, table) →
      (s.walkWaits va.toNat n table = true → exec (.translationWalk tlb ctx va) s = .next s) ∧
      (s.walkWaits va.toNat n table = false →
        (∀ l, s.walk va.toNat n table = .ok l → l.leafAt % 8 = 0 → s.fwd l.leafAt < hostBit → ∃ s' e, exec (.translationWalk tlb ctx va) s = .next s' ∧
          s' = { s with mem := s'.mem, coh := s'.coh } ∧ s'.tlbFind tlb ctx va.toNat = some e ∧ e.pte = l.pte ∧ e.leafAt = l.leafAt ∧ e.dirty = pteD l.pte ∧
          s'.peek (s.fwd l.leafAt) = s.peek (s.fwd l.leafAt) ||| 0x100#32 ∧ s'.mem.tile = s.mem.tile ∧
          (s.fwd l.leafAt % 4 = 0 → ∀ pa, pa < hostBit → pa % 4 = 0 → pa ≠ s.fwd l.leafAt → s'.peek pa = s.peek pa)) ∧
        (∀ e, s.walk va.toNat n table = .error e →
          ∃ s', exec (.translationWalk tlb ctx va) s = .next s' ∧ s' = { s with mem := s'.mem, coh := s'.coh } ∧ CachesMove s { s' with mem := { s'.mem with walks := s.mem.walks } })))

/-- R312, R316 to R319, R221, R291: DISPATCH_STEP serves, of the heads that fit, one of the highest priority that the
draft share leaves, the first in turn; a team that is placed runs, or stages its regions, with a thread at the entry in
each lane; a grid with a grid barrier is placed whole; STAGING_COMPLETE lets a team run; PREEMPT_STARVATION asks for
teams of lower priority, the lowest and of those the latest dispatched first, until the head fits. The placement is the
event's argument (log entry 13), and no choice of it turns a grid away that another places; regions go to the lower
half of a pair (log entry 27). -/
def Obligations.TeamsAreDispatched : Prop :=
  (∀ s choice h s1, s.nextHead = some h → s.placeStep h.g choice = some s1 → s.prioOf h.q < s1.dist.lastServed.length →
    ∃ s', exec (.dispatchStep choice) s = .next s' ∧ nth s'.dist.lastServed (s.prioOf h.q) 63 = h.q ∧ s'.teams = s1.teams ∧ s'.groups = s1.groups ∧ s'.mem = s1.mem) ∧
  (∀ s : State, (s.nextHead = none ↔ ∀ q g, ¬FitHead s q g) ∧
    ∀ h, s.nextHead = some h ↔ TopHead s h.q h.g ∧ ShareKeeps s h.q h.g ∧
      ∀ r g, TopHead s r g → ShareKeeps s r g → turnFirst (nth s.dist.lastServed (s.prioOf h.q) 63) h.q r) ∧
  (∀ (s : State) (g : Grid) (choice other : Nat), (s.placeStep g choice).isSome = (s.placeStep g other).isSome) ∧
  (∀ (s : State) (g : Grid) choice s1, g.rcd.dbars ≠ 0 → s.grid? g.ctx g.handle.toNat = some g → g.nextTmid ≤ g.rcd.teams → s.savedTeams g = [] →
    s.placeStep g choice = some s1 → ∃ g1, s1.grid? g.ctx g.handle.toNat = some g1 ∧ g1.nextTmid = g.rcd.teams ∧ g1.rcd = g.rcd) ∧
  (∀ (s : State) (g : Grid) (p : Spot) (s1 : State), s.dispatchTeam g p = some s1 → s.grid? g.ctx g.handle.toNat = some g →
    let key : TKey := ⟨g.ctx, g.handle.toNat, g.nextTmid⟩
    s.team? key = none → ∃ t g', s1.team? key = some t ∧ t.phase = (if g.rcd.regions = [] then .running else .staging) ∧ t.shared = [] ∧ t.core = p.core ∧
      s1.grid? g.ctx g.handle.toNat = some g' ∧ g'.nextTmid = g.nextTmid + 1 ∧ g'.rcd = g.rcd ∧
      ∀ gid, gid < g.rcd.groups → ∀ lane, lane < g.rcd.width → s.group? (.kernel g.ctx g.handle.toNat g.nextTmid gid) = none →
        s1.thread? (.kernel g.ctx g.handle.toNat g.nextTmid gid) (g.rcd.width * gid + lane) = some (newThread (g.rcd.width * gid + lane) lane g.rcd.entry)) ∧
  (∀ s (k : TKey) x x1 gr g s1 n, s.team? k = some x → s.grid? k.ctx k.grid = some gr → (s.teamGroups k).head? = some g → x.phase = .staging →
    s.stageAll g x gr.rcd.regions 0 = (.ok s1, n) → s1.team? k = some x1 → (s1.modTeam k (fun x => { x with phase := .running })).unwanted x = false →
    ∃ s', exec (.stagingComplete k) s = .next s' ∧ s'.team? k = some { x1 with phase := .running } ∧ s'.mem = s1.mem) ∧
  (∀ s q g, s.head q = some g → s.fits g = false → s.noDie = false → s.noFit g.rcd = false → ∃ s', exec (.preemptStarvation q) s = .next s' ∧
    ∀ k ∈ s.starve g (s.prioOf q) s.teams.length (s.asSaved ((s.teams.filter (fun t => t.req.isSome)).map Team.key)) [], ∀ x, s'.team? k = some x → x.phase = .running → x.req.isSome = true) ∧
  (∀ (s : State) below, (s.victim below = none ↔ ∀ t, ¬Preemptible s below t) ∧
    ∀ t, s.victim below = some t → Preemptible s below t ∧
      ∀ u, Preemptible s below u → s.teamPrio t < s.teamPrio u ∨ (s.teamPrio t = s.teamPrio u ∧ u.order ≤ t.order)) ∧
  (∀ s q g trial, s.head q = some g → s.fits g = false → s.noDie = false → s.noFit g.rcd = false →
    trial = s.asSaved ((s.teams.filter (fun t => t.req.isSome)).map Team.key) →
    (trial.fits g = true → exec (.preemptStarvation q) s = .next s) ∧
    (∀ t, trial.fits g = false → trial.victim (s.prioOf q) = some t → s.team? t.key = some t →
      ∃ s' x, exec (.preemptStarvation q) s = .next s' ∧ s'.team? t.key = some x ∧ x.req.isSome = true) ∧
    ∃ s', exec (.preemptStarvation q) s = .next s' ∧ ∀ k x x', s.team? k = some x → x.req = none → s'.team? k = some x' → x'.req.isSome = true →
      ∃ v ∈ s.teams, s.teamPrio v < s.prioOf q ∧ k ∈ s.together v.key)

/-- R222, R225, R228, R300, R302: GRID_COMPLETE gives a grid whose teams have all ended its completion word, writes its
record of sixteen words where it has been found to go, gives each queue thread that waits the word, and frees the slot
of a grid that is autofree or was waited for; SPILLWAY_RECLAIM drops the copies of dead versions of its base die and no
other, those of a commit still to be merged not among them. Dead copies wait for SPILLWAY_RECLAIM (log entry 21), and a
record for a line that is being moved (log entry 125). -/
def Obligations.GridsCompleteAndCopiesAreReclaimed : Prop :=
  (∀ s ctx grid g, s.grid? ctx grid = some g → g.done = none → g.nextTmid = g.rcd.teams → (∀ t ∈ s.teams, ¬(t.key.ctx = ctx ∧ t.key.grid = grid)) → s.recordWaits ctx g.rcd.compl = false →
    let code := match g.endCode with | some c => c | none => if g.trapped = 0 then 0 else 0x11
    (g.rcd.autofree = true → ∃ s', exec (.gridComplete ctx grid) s = .next s' ∧ s'.grid? ctx grid = none) ∧
    (g.rcd.autofree = false → g.waiters = [] → ∃ s' g', exec (.gridComplete ctx grid) s = .next s' ∧ s'.grid? ctx grid = some g' ∧
      g'.done = some (sysWord code (Nat.min g.retired (2 ^ 24 - 1))) ∧ g'.retired = g.retired) ∧
    ((g.waiters.map Prod.fst).Nodup → g.waiters ≠ [] → ∃ s', exec (.gridComplete ctx grid) s = .next s' ∧ s'.grid? ctx grid = none ∧
      ∀ q d t, (q, d) ∈ g.waiters → s.thread? (.queue q) 0 = some t → t.block = some .waitg →
        s'.thread? (.queue q) 0 = some { (t.result d ⟨g.word code, .nat⟩).advance with block := none }) ∧
    (∀ s1 pa, s.recordDirty g.ctx g.rcd.compl = (s1, some pa) → pa % 64 = 0 → pa < hostBit → LinesOk s1 →
      (∀ x ∈ s1.coh.copies, x.line ≠ lineOf pa) → (∀ x ∈ s1.coh.self, x.line ≠ lineOf pa) →
      ∃ s', exec (.gridComplete ctx grid) s = .next s' ∧ s'.peek pa = g.word code ∧
        s'.peek (pa + 4) = BitVec.ofNat 32 (g.handle.toNat + 2 ^ 16 * g.rcd.vtag.toNat) ∧ s'.peek (pa + 8) = BitVec.ofNat 32 g.rcd.teams ∧
        s'.peek (pa + 12) = BitVec.ofNat 32 g.retired ∧ s'.peek (pa + 16) = BitVec.ofNat 32 g.trapped ∧ s'.peek (pa + 20) = BitVec.ofNat 32 g.notRun ∧
        s'.peek (pa + 24) = g.firstFault.getD 0xFFFFFFFF ∧ ∀ i, 7 ≤ i → i < 16 → s'.peek (pa + 4 * i) = 0)) ∧
  (∀ s base, ∃ s', exec (.spillwayReclaim base) s = .next s' ∧ s' = { s with mem := { s.mem with copies := s'.mem.copies, l2 := s'.mem.l2 } } ∧
    ∀ c, c ∈ s'.mem.copies ↔ c ∈ s.mem.copies ∧ ¬(baseDie c.line = base ∧ c.src = none ∧ s.live c.ctx c.tag = false ∧ s.commitMerging c.ctx c.tag = false))

/-- R30, R316, R320, R327 to R331: TEAM_SAVE takes a parked team off its cores, with all that are saved together with it
parked too, once its record is written; TEAM_MIGRATE moves a saved team, or a saved grid with a grid barrier whole, and
counts each team that changes its die, and asks for a running team of a die that cannot hold its teams (R319); the two
limits turn the request into one that every thread can meet. Where the record stands, and which teams a die holds before
they are dispatched, are the model's choices (log entries 14, 120). -/
def Obligations.TeamsAreSavedAndMoved : Prop :=
  (∀ s (k : TKey) x gr kind s0 s1 off, s.team? k = some x → x.key = k → s.grid? k.ctx k.grid = some gr → x.req = some kind → x.phase = .running →
    s.saveReady k = true → (∀ m ∈ s.together k, s.saveReady m = true) → s0 = s.teamThrough x →
    s0.saveRecord (dieOf x.core) k.ctx (s0.teamRecord x gr kind) = .ok s1 off → s1.teams = s.teams →
    ∃ s' x', exec (.teamSave k) s = .next s' ∧ s'.team? k = some x' ∧ x'.phase = .saved kind ∧ x'.req = none ∧ x'.savedAt = off ∧ x'.shared = x.shared ∧
      s'.teamGroups k = [] ∧ x'.frozen.map Group.key = (s1.teamGroups k).map Group.key ∧ s'.mem = s1.mem) ∧
  (∀ s (k : TKey) x r kind die, s.team? k = some x → s.teamRec x = some r → s.together k = [k] → x.phase = .saved kind → s.online die = true → x.die ≠ die →
    (∃ p ∈ s.oldSpots x r, p.die = die) →
    ∃ s', exec (.teamMigrate k die) s = .next s' ∧ s'.team? k = some { x with die := die, migrations := x.migrations + 1 } ∧ s'.groups = s.groups) ∧
  (∀ s (k : TKey) x die, s.team? k = some x → s.online die = true → x.die ≠ die → (s.together k).Nodup → k ∈ s.together k →
    (∀ m ∈ s.together k, ∃ y kind, s.team? m = some y ∧ y.phase = .saved kind) →
    State.roomOn die (((s.together k).filterMap s.team?).filter (fun y => decide (y.die ≠ die))) s = true →
    ∃ s', exec (.teamMigrate k die) s = .next s' ∧ s'.groups = s.groups ∧ ∀ m ∈ s.together k, ∀ y, s.team? m = some y →
      s'.team? m = some (if y.die = die then y else { y with die := die, migrations := y.migrations + 1 })) ∧
  (∀ s (k : TKey) x die, s.team? k = some x → x.phase = .running → x.req = none → s.online die = true → x.die ≠ die →
    State.roomOn die (((s.together k).filterMap s.team?).filter (fun y => decide (y.die ≠ die))) s = true → s.overfull x.die = true →
    ∃ s' x', exec (.teamMigrate k die) s = .next s' ∧ s'.team? k = some x' ∧ x'.req.isSome = true ∧ x'.phase = .running) ∧
  (∀ s (k : TKey) x c, s.team? k = some x → s.ctx? k.ctx = some c → x.req = some .idempotent → x.phase = .running → s.allParked k = false → c.preempt.getLsbD 16 = false →
    ∃ s' x', exec (.deferralLimit k) s = .next s' ∧ s'.team? k = some x' ∧ x'.req = some (if c.trapVec.getLsbD 0 then .handler else .full) ∧ x'.phase = .running) ∧
  (∀ s (k : TKey) x, s.team? k = some x → x.req = some .handler → x.phase = .running →
    ∃ s' x', exec (.trapSaveTimeout k) s = .next s' ∧ s'.team? k = some x' ∧ x'.req = some .full ∧
      ∀ g t, g ∈ s.teamGroups k → s.group? g.key = some g → g.thread? t.tid = some t → t.exited = false →
        ∃ t', s'.thread? g.key t.tid = some t' ∧ t'.parked = true ∧ t'.pc = t.pc ∧ t'.hints = t.hints ∧ t'.regs = t.regs)

/-- R286, R287: a line move of a migrating page puts the line's words at its place in the new frame, and
goes on to the next line. -/
def Obligations.MigrationMovesALine : Prop :=
  ∀ s ctx va m, s.migrOf ctx va = some m → m.running = true → m.toNew = true → Store.get false m.there m.next = false → 128 * (m.next + 1) < m.size →
    let src := m.old + 128 * m.next
    let dst := m.new + 128 * m.next
    src % 128 = 0 → dst % 128 = 0 → src ≠ dst → src < hostBit → dst < hostBit → s.migrReady src false = true → s.migrReady dst true = true → s.lock? src = none →
    (∀ x ∈ s.coh.copies, x.line ≠ src ∧ x.line ≠ dst) → (∀ x ∈ s.coh.self, x.line ≠ src) → s.lineBad src = false →
    ∃ s', exec (.migrationLineMove ctx va) s = .next s' ∧ s'.migrOf ctx va = some { m with there := Store.set false m.there m.next true, next := m.next + 1 } ∧
      (∀ i, i < 32 → s'.peek (dst + 4 * i) = s.peek (src + 4 * i)) ∧ s'.groups = s.groups.map (fun g => g.moveLock src dst) ∧ s'.pends = s.pends

/-! Coherence. -/

/-- R342: what the home slice does with RDS, RDX and UPG in every state of the line, which is E for the reader of a
line in I, but S for that of a host half that the host has not left to the device (R344); a request for a busy line
waits. That the grant of an UPG is a DATA message with the words that the die holds already is the model's reading (log
entry 34). -/
def Obligations.HomeServesRequests : Prop :=
  (∀ s die line, Wants s die line false false →
    (s.lineIs line .i none [] → s.unitExcl line = true →
      ∃ s', exec (.rds die line) s = .next s' ∧ TakenUp s s' die line false [homeDataMsg s die line .e 0] ⟨line, .e, some die, [], some die, []⟩) ∧
    (s.lineIs line .i none [] → s.unitExcl line = false →
      ∃ s', exec (.rds die line) s = .next s' ∧ TakenUp s s' die line false [homeDataMsg s die line .s 0] ⟨line, .s, none, [die], some die, []⟩) ∧
    (∀ sh, s.lineIs line .s none sh → ∃ s', exec (.rds die line) s = .next s' ∧ TakenUp s s' die line false [homeDataMsg s die line .s 0] ⟨line, .s, none, sh ++ [die], some die, []⟩) ∧
    (∀ st o sh, (st = .e ∨ st = .m ∨ st = .o) → s.lineIs line st (some o) sh → ∃ s', exec (.rds die line) s = .next s' ∧
      TakenUp s s' die line false [{ kind := .fwdS, die := o, line := line, req := die }] ⟨line, if st = .e then .e else .o, some o, sh ++ [die], some die, []⟩)) ∧
  (∀ s die line, Wants s die line true false →
    (s.lineIs line .i none [] → ∃ s', exec (.rdx die line) s = .next s' ∧ TakenUp s s' die line true [homeDataMsg s die line .m 0] ⟨line, .m, some die, [], some die, []⟩) ∧
    (∀ sh, s.lineIs line .s none sh → die ∉ sh → ∃ s', exec (.rdx die line) s = .next s' ∧
      TakenUp s s' die line true (homeDataMsg s die line .m sh.length :: sh.map (fun d => { kind := .inv, die := d, line := line, req := die })) ⟨line, .m, some die, [], some die, []⟩) ∧
    (∀ st o sh, (st = .e ∨ st = .m ∨ st = .o) → s.lineIs line st (some o) sh → die ∉ sh → ∃ s', exec (.rdx die line) s = .next s' ∧
      TakenUp s s' die line true ({ kind := .fwdX, die := o, line := line, req := die, acks := sh.length } :: sh.map (fun d => { kind := .inv, die := d, line := line, req := die }))
        ⟨line, .m, some die, [], some die, []⟩)) ∧
  (∀ s die line c st owner sh, Wants s die line true true → s.coh.copy? die line = some c → (st = .s ∨ st = .o) → s.lineIs line st owner sh →
    let others := (sh ++ owner.toList).filter (fun x => decide (x ≠ die))
    ∃ s' d, exec (.upg die line) s = .next s' ∧ d.kind = .data ∧ d.die = die ∧ d.grant = .m ∧ d.words = c.words ∧ d.acks = others.length ∧
      TakenUp s s' die line true (d :: others.map (fun x => { kind := .inv, die := x, line := line, req := die })) ⟨line, .m, some die, [], some die, []⟩) ∧
  (∀ s die line b, Wants s die line false false → (s.coh.entry line).busy = some b → (s.coh.entry line).line = line →
    ∃ s' m, exec (.rds die line) s = .next s' ∧ s'.coh.msgs.filter (fun x => decide (x.line = line)) = s.coh.msgs.filter (fun x => decide (x.line = line)) ∧ s'.coh.entry line = { s.coh.entry line with waiting := (s.coh.entry line).waiting ++ [m] } ∧ m.kind = .rds ∧ m.die = die)

/-- R342, R343: WB of a dirty copy puts its words in memory, EVC of a clean one does not; BINV takes the copy of
either kind, and when the last die has answered the line is in I; the die holds the line no more, and the entry goes
on with the holders that remain: I, or S if sharers do. -/
def Obligations.DiesGiveUpLines : Prop :=
  ∀ s die line x, s.coh.copy? die line = some x → (∀ e ∈ s.coh.miss, e.line ≠ line) → (∀ m ∈ s.coh.msgs, m.line = line → m.kind ≠ .data) →
    line % 128 = 0 → line < hostBit →
    let dirty := x.st = .m ∨ x.st = .o
    let alone := ∀ y ∈ s.coh.copies, y.line = line → y.st ≠ .s → y.die = die
    (s.coh.busy line = false → (∀ m ∈ s.coh.msgs, m.line = line → m.kind ≠ .binv) →
      (dirty → alone →
        ∃ s', exec (.wb die line) s = .next s' ∧ s'.coh.copy? die line = none ∧ (∀ k, k < 32 → s'.peek (line + 4 * k) = Store.get 0 x.words k) ∧ s'.groups = s.groups ∧
          ((s.coh.entry line).st ≠ .i → (s.coh.entry line).owner = some die →
            ((s.coh.entry line).sharers = [] → (s'.coh.entry line).st = .i) ∧
            (∀ sh, (s.coh.entry line).sharers = sh → sh ≠ [] → die ∉ sh → s'.coh.entry line = { s.coh.entry line with st := .s, owner := none }))) ∧
      (¬dirty → (s.coh.entry line).st ≠ .i →
        ∃ s', exec (.evc die line) s = .next s' ∧ s'.coh.copy? die line = none ∧ s'.mem = s.mem ∧ s'.groups = s.groups ∧ s'.coh.entry line = (s.coh.entry line).without die)) ∧
    (∀ m, s.msg? .binv die line = some m → s.stale m = false → (s.coh.entry line).busy = some 8 → (∀ e ∈ s.coh.dir, e.waiting = []) → s.coh.broken = [] →
      ∃ s', exec (.binv die line) s = .next s' ∧ s'.coh.copy? die line = none ∧ s'.groups = s.groups ∧ s'.coh.msgs = s.coh.msgs.erase m ∧
        (dirty → alone → ∀ k, k < 32 → s'.peek (line + 4 * k) = Store.get 0 x.words k) ∧ (¬dirty → s'.mem = s.mem) ∧
        ((∃ y ∈ s.coh.msgs.erase m, y.kind = .binv ∧ y.line = line) → s'.coh.entry line = (s.coh.entry line).without die) ∧
        ((∀ y ∈ s.coh.msgs.erase m, y.kind = .binv → y.line ≠ line) → s'.coh.entry line = ⟨line, .i, none, [], none, []⟩))

/-- R342: FWD_S, FWD_X and INV at the die that holds the line; DATA and INVACK at the die that asked, which has
the line once it has both; FACK and DONE at the slice. DONE's moment and the words of a granted UPG are
readings (log entries 33, 34). -/
def Obligations.MessagesAreAnswered : Prop :=
  ∀ s m, Arrives s m →
    (m.kind = .fwdS → ∀ x, s.coh.copy? m.die m.line = some x → ∃ s' d f, exec (.fwdS m.die m.line) s = .next s' ∧
      s'.coh.copy? m.die m.line = some { x with st := if x.st = .e then .s else .o, writer := none } ∧ s'.coh.msgs = s.coh.msgs.erase m ++ [d, f] ∧
      d.kind = .data ∧ d.die = m.req ∧ d.grant = .s ∧ d.words = x.words ∧ f.kind = .fack ∧ f.line = m.line ∧ f.grant = (if x.st = .e then .s else .o)) ∧
    (m.kind = .fwdX → ∀ x, s.coh.copy? m.die m.line = some x → ∃ s' d, exec (.fwdX m.die m.line) s = .next s' ∧
      s'.coh.copy? m.die m.line = none ∧ s'.coh.msgs = s.coh.msgs.erase m ++ [d] ∧ d.kind = .data ∧ d.die = m.req ∧ d.grant = .m ∧ d.acks = m.acks ∧ d.words = x.words) ∧
    (m.kind = .inv → ∃ s' a, exec (.inv m.die m.line) s = .next s' ∧ s'.coh.copy? m.die m.line = none ∧ s'.coh.msgs = s.coh.msgs.erase m ++ [a] ∧
      a.kind = .invack ∧ a.die = m.req ∧ a.line = m.line ∧ s'.mem = s.mem) ∧
    (m.kind = .data → ∀ x, s.missAt m.die m.line x →
      (m.acks ≤ x.acksGot → ∃ s' d, exec (.data m.die m.line) s = .next s' ∧ Granted s' m.die m.line m.grant m.words d) ∧
      (x.acksGot < m.acks → ∃ s', exec (.data m.die m.line) s = .next s' ∧ s'.missAt m.die m.line { x with data := some (m.grant, m.words), acksNeeded := some m.acks, dirty := m.dirty, poison := m.poison } ∧
        s'.coh.copies = s.coh.copies)) ∧
    (m.kind = .invack → ∀ x, s.missAt m.die m.line x →
      (∀ p, x.data = some p → x.acksNeeded = some (x.acksGot + 1) → ∃ s' d, exec (.invack m.die m.line) s = .next s' ∧ Granted s' m.die m.line p.1 p.2 d) ∧
      (x.data = none → ∃ s', exec (.invack m.die m.line) s = .next s' ∧ s'.missAt m.die m.line { x with acksGot := x.acksGot + 1 })) ∧
    (m.kind = .fack → s.coh.msgs.find? (fun x => decide (x.kind = .fack) && decide (x.line = m.line)) = some m → m.grant ≠ .s → (s.coh.entry m.line).line = m.line →
      ∃ s', exec (.fack m.line) s = .next s' ∧ s'.coh.entry m.line = { s.coh.entry m.line with st := .o }) ∧
    (m.kind = .fack → s.coh.msgs.find? (fun x => decide (x.kind = .fack) && decide (x.line = m.line)) = some m → m.grant = .s → (s.coh.entry m.line).line = m.line →
      ∃ s', exec (.fack m.line) s = .next s' ∧
        s'.coh.entry m.line = { s.coh.entry m.line with st := .s, owner := none, sharers := (s.coh.entry m.line).sharers ++ (if m.die ∈ (s.coh.entry m.line).sharers then [] else [m.die]) }) ∧
    (m.kind = .done → s.doneReady m.die m.line = true → (s.coh.entry m.line).st ≠ .i → (∀ e ∈ s.coh.dir, e.waiting = []) → (s.coh.entry m.line).line = m.line → s.coh.broken = [] →
      (s.dieNeeds m.die m.line = true ∨ ∃ x, s.coh.copy? m.die m.line = some x ∧ x.cores ≠ []) →
      ∃ s', exec (.done m.die m.line) s = .next s' ∧ s'.coh.entry m.line = { s.coh.entry m.line with busy := none } ∧ s'.coh.copies = s.coh.copies)

/-- R344, R347, R352: the host's snoops of a half, with what L1s have written there on SELF pages, its grants, and a host
agent's access to device memory; a message of an earlier incarnation of its port is dropped and counted. Host memory is
the model's environment (log entries 10, 39). -/
def Obligations.HostReachesItsHalves : Prop :=
  (∀ s (n : HostHalf) h, HostSays s n → s.coh.held n.half = some h → s.coh.busy (64 * n.half) = false →
    (∃ s', exec (.snoopData n) s = .next s' ∧ s'.halfIs n.half .s ∧ s'.peer.reply.length = 16) ∧
    ((∀ x ∈ s.coh.self, x.line ≠ lineOf (64 * n.half)) → (∀ x ∈ s.coh.copies, x.line ≠ 64 * n.half) →
      (∃ s', exec (.snoopData n) s = .next s' ∧ s'.halfIs n.half .s ∧ s'.peer.reply = (List.range 16).map (fun i => s.peek (64 * n.half + 4 * i)) ∧
        (h.st = .m → ∀ i, i < 16 → s'.mem.ram.readWord (64 * n.half + 4 * i) = Store.get 0 h.words i)) ∧
      (s.hostHalf n.half = true → ∃ s', exec (.snoopInvalidate n) s = .next s' ∧ s'.coh.held n.half = none ∧
        s'.peer.reply = (List.range 16).map (fun i => s.peek (64 * n.half + 4 * i)) ∧
        (h.st = .m → ∀ i, i < 16 → s'.mem.ram.readWord (64 * n.half + 4 * i) = Store.get 0 h.words i))) ∧
    (∀ x, s.coh.self = [x] → x.line = lineOf (64 * n.half) → (∀ y ∈ s.coh.copies, y.line ≠ 64 * n.half) → hostBit ≤ 64 * n.half →
      ∃ s', exec (.snoopData n) s = .next s' ∧ ∀ i, i < 16 → nth s'.peer.reply i 0 =
        if x.dirty.getLsbD (16 * (n.half % 2) + i) then Store.get 0 x.words (16 * (n.half % 2) + i) else s.peek (64 * n.half + 4 * i))) ∧
  (∀ s (n : HostHalf) h, HostSays s n → s.coh.held n.half = some h → ∃ s', exec (.snoopCurrent n) s = .next s' ∧ s' = { s with peer := s'.peer } ∧
    s'.peer.reply = (List.range 16).map (fun i => s.peek (64 * n.half + 4 * i))) ∧
  (∀ s (n : HostHalf), HostSays s n → s.hostHalf n.half = true → s.coh.busy (64 * n.half) = false → ∃ s', exec (.snoopInvalidate n) s = .next s' ∧ s'.coh.held n.half = none ∧
    s'.peer.reply.length = 16 ∧ ∀ x ∈ s'.coh.copies, x.line ≠ 64 * n.half) ∧
  (∀ s (n : HostHalf) excl data, HostSays s n → s.hostHalf n.half = true → s.halfWanted n.half excl = true → s.coh.held n.half = none → n.half ∉ s.mem.lost →
    s.coh.dirtyWords (64 * n.half) = none → (s.coh.entry (64 * n.half)).waiting = [] → (∀ a ∈ s.coh.asks, 64 * n.half ∉ a.halves) →
    ∃ s', exec (.hostHalfGrant n excl data) s = .next s' ∧ s'.halfIs n.half (if excl then .e else .s) ∧
      ∀ i, i < 16 → s'.peek (64 * n.half + 4 * i) = nth data i 0) ∧
  (∀ (s : State) (n : HostHalf) p excl data, s.hostPort (64 * n.half % 2 ^ 51) = some p → (nth s.dev.ports p Port.down).inc ≠ n.inc →
    exec (.snoopData n) s = .next s.countDead ∧ exec (.snoopInvalidate n) s = .next s.countDead ∧ exec (.snoopCurrent n) s = .next s.countDead ∧
    exec (.hostHalfGrant n excl data) s = .next s.countDead) ∧
  (∀ s (a : HostAccess), s.hostFresh a = true → a.pa % 4 = 0 → a.pa + 4 ≤ 2 ^ 39 → s.lineHeld a.pa = false → s.dev.ready = true → s.fwd a.pa < 2 ^ 39 → s.fwd a.pa % 4 = 0 →
    (∀ w, ∃ s', exec (.hostAgentAccess a (some w)) s = .next s' ∧ s'.peek (s.fwd a.pa) = w ∧ s'.groups = s.groups) ∧
    ((∀ x ∈ s.coh.copies, x.line ≠ lineOf (s.fwd a.pa)) → ∃ s', exec (.hostAgentAccess a none) s = .next s' ∧ s'.peer.reply = [s.peek (s.fwd a.pa)] ∧ s'.groups = s.groups)) ∧
  (∀ (s : State) (a : HostAccess) store, (nth s.dev.ports a.port Port.down).inc ≠ a.inc → exec (.hostAgentAccess a store) s = .next s.countDead)

/-! Peers and links. -/

/-- R296, R299, R302, R247, R352: a peer's load gets the word its path gives; its store of version 0 is performed at
the home slice, one of an open tag goes into a copy, and one of a tag that is not open is dropped with a
report; its atomic changes the word by its operation and answers with the old one, a reduction's operand being what its
link carries (R57); one of an earlier incarnation of the peer is dropped and counted. The path is the
request's; dropping an atomic is a reading (log entry 47). -/
def Obligations.PeersReachThisMemory : Prop :=
  (∀ s (src : Sender) addr, Current s src → s.remoteOk src.agent addr = true → s.fwd addr < peerBit → s.fwd addr % 4 = 0 → (∀ x ∈ s.coh.copies, x.line ≠ lineOf (s.fwd addr)) →
    (∀ ctx path, ∃ s', exec (.remoteLoad src ctx path addr) s = .next s' ∧ s'.peer.reply = [s.viewRead (some src.agent) ctx path (s.fwd addr)] ∧ s'.groups = s.groups) ∧
    (∀ ctx x, ∃ s', exec (.remoteStore src ctx [] addr x) s = .next s' ∧ s'.peek (s.fwd addr) = x ∧ s'.groups = s.groups ∧
      ∀ b, s.plain b → (∀ pa, b.loc = .global pa → s.fwd pa ≠ s.fwd addr) → s'.valueAt b = s.valueAt b) ∧
    (∀ ctx v r x s1, s.tagOpen src.agent ctx v = true → s.reserve (some src.agent) ctx v (lineOf (s.fwd addr)) = some s1 →
      ∃ s', exec (.remoteStore src ctx (v :: r) addr x) s = .next s' ∧ s'.viewRead (some src.agent) ctx (v :: r) (s.fwd addr) = x ∧ s'.mem.ram = s.mem.ram) ∧
    (∀ ctx v r x, s.tagOpen src.agent ctx v = false → ∃ s', exec (.remoteStore src ctx (v :: r) addr x) s = .next s' ∧ s'.mem = s.mem ∧ s'.peer.reports = s.peer.reports ++ [(src.agent, ctx)]) ∧
    (∀ ctx op tag x, aopTag op tag = true → s.marked (s.fwd addr) = false →
      let y := if reduces op tag then overLink (s.linkOf src.agent) x else x
      ∃ s', exec (.remoteAtomic src ctx [] addr op tag x) s = .next s' ∧
        s'.peek (s.fwd addr) = aopApply op tag (s.peek (s.fwd addr)) y ∧ s'.peer.reply = [s.peek (s.fwd addr)] ∧ s'.groups = s.groups) ∧
    (∀ ctx v r op tag x, s.tagOpen src.agent ctx v = false → aopTag op tag = true → s.viewPoison (some src.agent) ctx (v :: r) (s.fwd addr) = false →
      ∃ s', exec (.remoteAtomic src ctx (v :: r) addr op tag x) s = .next s' ∧ s'.mem = s.mem ∧ s'.groups = s.groups ∧
        s'.peer = { s.peer with reports := s.peer.reports ++ [(src.agent, ctx)] })) ∧
  (∀ s (src : Sender) ctx path addr op tag x, ¬Current s src →
    exec (.remoteLoad src ctx path addr) s = .next s.countDead ∧ exec (.remoteStore src ctx path addr x) s = .next s.countDead ∧
    exec (.remoteAtomic src ctx path addr op tag x) s = .next s.countDead)

/-- R299, R300, R302, R352: notices of peers open and close tags here and are acknowledged, a commit's copies becoming
words of memory; acknowledgements of this part's own notices let its stores and its commits go on, the last one of a
commit ending it; the report of a store that was dropped on its way is counted, saturating; a message of an earlier
incarnation is dropped and counted. That a squash notice frees the copies at once is a reading (log entry 46). -/
def Obligations.NoticesOpenAndCloseTags : Prop :=
  (∀ s (src : Sender) ctx v, Current s src →
    (∃ s', exec (.openNotice src ctx v) s = .next s' ∧ s'.tagOpen src.agent ctx v = true ∧ s'.peer.acks = s.peer.acks ++ [(src.agent, ctx, v)] ∧ s' = { s with peer := s'.peer }) ∧
    (∃ s', exec (.commitNotice src ctx v) s = .next s' ∧ s'.tagOpen src.agent ctx v = false ∧ s'.peer.acks = s.peer.acks ++ [(src.agent, ctx, v)] ∧
      (∀ c ∈ s'.mem.copies, ¬(c.src = some src.agent ∧ c.ctx = ctx ∧ c.tag = v)) ∧ s'.groups = s.groups ∧
      ∀ c i, s.mem.copies = [c] → c.src = some src.agent → c.ctx = ctx → c.tag = v → c.line % 128 = 0 → c.line < peerBit → (∀ x ∈ s.coh.copies, x.line ≠ c.line) → i < 32 →
        s'.peek (c.line + 4 * i) = if c.mask.getLsbD i then Store.get 0 c.words i else s.peek (c.line + 4 * i)) ∧
    (∃ s', exec (.squashNotice src ctx v) s = .next s' ∧ s'.tagOpen src.agent ctx v = false ∧ s'.mem.ram = s.mem.ram ∧
      ∀ c, c ∈ s'.mem.copies ↔ c ∈ s.mem.copies ∧ ¬(c.src = some src.agent ∧ c.ctx = ctx ∧ c.tag = v)) ∧
    ((src.agent, ctx, v) ∈ s.peer.openSent → ∃ s', exec (.openNoticeAck src ctx v) s = .next s' ∧ (src.agent, ctx, v) ∈ s'.peer.openAcked ∧
      (src.agent, ctx, v) ∉ s'.peer.openSent ∧ s' = { s with peer := s'.peer }) ∧
    (∀ c x, (src.agent, ctx, v) ∈ s.peer.commitSent → s.ctx? ctx = some c → c.ver? v = some x →
      ∃ s' c' x', exec (.commitNoticeAck src ctx v) s = .next s' ∧ (src.agent, ctx, v) ∉ s'.peer.commitSent ∧ s'.ctx? ctx = some c' ∧ c'.ver? v = some x' ∧ src.agent ∉ x'.awaiting ∧
        (v ∈ c.merging → (∀ m ∈ x.awaiting, m = src.agent) → v ∉ c'.merging))) ∧
  (∀ s (r : DropReport) c x, Current s r.peer → s.ctx? r.ctx = some c → s.lateStore? r = some x → ∃ s', exec (.dropReport r) s = .next s' ∧
    s'.ctx? r.ctx = some { c with drops := if c.drops = 0xFFFF then c.drops else c.drops + 1 } ∧ s'.mem = s.mem ∧ s'.peer.lateStores = s.peer.lateStores.erase x) ∧
  (∀ s (src : Sender) ctx v, ¬Current s src →
    exec (.openNotice src ctx v) s = .next s.countDead ∧ exec (.openNoticeAck src ctx v) s = .next s.countDead ∧ exec (.commitNotice src ctx v) s = .next s.countDead ∧
    exec (.commitNoticeAck src ctx v) s = .next s.countDead ∧ exec (.squashNotice src ctx v) s = .next s.countDead ∧ exec (.dropReport ⟨src, ctx⟩) s = .next s.countDead)

/-- R346, R349, R351, R352, R373, R355: a refused load leaves VOID and an attributed trap; a silent peer is
declared dead; a port goes down and trains, each with its event; a protocol error of a mesh hop fails its
die and one of the hop between the base dies stops the part, a compressed block that is sound being none (R58); a
reported error waits in its thread, a corrected one is counted, an uncorrectable one of memory poisons its 64 bytes
and one of a register stands until it is read (R357, R358). Link numbers and the hop's FAILUNIT are the model's
(log entries 11, 82, 100). -/
def Obligations.LinksFailAndTrain : Prop :=
  (∀ s p n ws d tg t, s.pends.find? (fun q => decide (q.id = p.id)) = some p → p.peer = some n → p.kind = .load ws → p.dests = [(d, tg)] → d.toNat < 0xF8 →
    s.thread? p.key p.tid = some t → t.exited = false → (∀ q ∈ s.pends, ∀ m, q.kind ≠ .fence m) → (∀ x ∈ s.teams, x.phase ≠ .retired) →
    ∃ s' t', exec (.peerRefuse p.id) s = .next s' ∧ s'.pends = s.pends.filter (fun q => decide (q.id ≠ p.id)) ∧ s'.thread? p.key p.tid = some t' ∧
      t'.reg d.toNat = Reg.void ∧ ∃ a ∈ t'.attr, a.trap.cause = .ecc ∧ a.trap.sub = 5 ∧ d.toNat ∈ a.regs) ∧
  (∀ s n, s.pends.any (s.toPeer n) = true → ∃ s', exec (.peerTimeout n) s = .next s' ∧ Store.get 0 s'.peer.inc n = Store.get 0 s.peer.inc n + 1 ∧
    ∀ x ∈ s'.peer.openAcked, x.1 ≠ n) ∧
  (∀ s port, port < s.dev.ports.length → (s.port port).up = true → s.roomForEvent → (s.port port).peers = [] →
    ∃ s' e, exec (.linkDown port) s = .next s' ∧ (s'.port port).up = false ∧ Posted s s' e ∧ e.type = 9 ∧ e.unit = port ∧ s'.groups = s.groups) ∧
  (∀ s port (lanes : BitVec 6) rate offer (peers : List Nat), port < 24 → lanes.toNat ≤ (if port < 8 then 16 else 4) → s.dev.ports.length = 24 → (s.port port).up = false → (s.dev.boot = 4 ∨ s.dev.boot = 5) → s.roomForEvent →
    let inc := if port < 8 then (s.port port).inc else match peers with | [] => (s.port port).inc | n :: _ => Store.get 0 s.peer.inc n
    ∃ s' e, exec (.linkTrain port lanes rate offer peers) s = .next s' ∧
      s'.port port = ({ up := true, lanes := lanes, rate := rate, feats := agreed (portOffer port) offer, inc := inc, peers := if port < 8 then [] else peers } : Port) ∧
      Posted s s' e ∧ e.type = 10 ∧ e.unit = port ∧ e.inc = inc ∧ e.detail = (featMask (agreed (portOffer port) offer)).setWidth 32) ∧
  (∀ s die block, die < 8 → s.dieSt die ≠ .offline → blockSound block = false → exec (.linkProtocolError ⟨24 + die, block⟩) s = .next (s.failDie die)) ∧
  (∀ s block, blockSound block = false → exec (.linkProtocolError ⟨32, block⟩) s = .next (s.fatalStop Config.hopUnit)) ∧
  (∀ s link b, (expandBlock b).isSome = true → exec (.linkProtocolError ⟨link, some b⟩) s = .next s) ∧
  (∀ s k tid sub addr t, (sub = 4 ∨ sub = 6) → s.thread? k tid = some t → t.exited = false → ∃ s', exec (.reportedError (.thread k) tid sub addr) s = .next s' ∧
    s'.thread? k tid = some { t with reported := t.reported ++ [⟨.ecc, sub, addr, .reported⟩] }) ∧
  (∀ s unit entry addr, s.dev.softErrors ≠ 0xFFFFFFFF → exec (.reportedError .corrected unit entry addr) s = .next { s with dev := { s.dev with softErrors := s.dev.softErrors + 1 } }) ∧
  (∀ s port lanes rate offer peers, (if port < 8 then 16 else 4) < lanes.toNat → exec (.linkTrain port lanes rate offer peers) s = .next s) ∧
  (∀ s unit entry addr, addr.toNat < 2 ^ 39 → ∃ s', exec (.reportedError .memory unit entry addr) s = .next s' ∧
    s'.poisoned (addr.toNat / 64 * 64) = true ∧ s'.poisoned (addr.toNat / 64 * 64 + 32) = true ∧ s' = { s with mem := s'.mem } ∧ s'.mem.ram = s.mem.ram) ∧
  (∀ s k tid sel addr g t, s.group? k = some g → s.thread? k tid = some t → t.exited = false → sel < 0xF8 → allocated g.nregs sel = true → sel ∉ t.parity →
    ∃ s', exec (.reportedError (.register k) tid sel addr) s = .next s' ∧ s'.thread? k tid = some { t with parity := sel :: t.parity })

/-- R243, R363 to R370, R379: DIEOP answers a query and starts a die's way out or in where its state allows; a
die whose tile space holds a live allocation moves it away first, a 128-byte block at a time, which reads as before
(R365, R286); one that is done is offline and its incarnation one on; a die that passes its self-test is online; one that
fails is offline; zone temperatures are kept; a critical temperature is fatal. Incarnations and evacuation
are readings (log entries 36, 55). -/
def Obligations.DiesLeaveAndReturn : Prop :=
  (∀ d a s g t, Settled (.dieop d a) s g t → addrTag (View.tag ⟨g, t⟩ a) = true → g.key.isQueue = true →
    let w := (View.val ⟨g, t⟩ a).toNat
    let n := w % 8
    w < 64 → w / 8 % 2 = 0 →
    (w / 16 = 0 → GivesWord (.dieop d a) s g t d (sysWord 0 (s.dieSt n).code) (fun s' => s' = { s with cur := none, groups := s'.groups })) ∧
    (w / 16 = 1 → s.dieSt n = .online → (∃ m ∈ s.onlineDies, m ≠ n) → n < s.dev.dies.length → (∀ x ∈ s.teams, x.die ≠ n) → GivesWord (.dieop d a) s g t d (sysWord 0) (fun s' => s'.dieSt n = .goingOffline)) ∧
    (w / 16 = 2 → s.dieSt n = .offline → n < s.dev.dies.length → GivesWord (.dieop d a) s g t d (sysWord 0) (fun s' => s'.dieSt n = .comingOnline)) ∧
    (w / 16 = 2 → s.dieSt n ≠ .offline → GivesWord (.dieop d a) s g t d (sysWord 0xB) (fun s' => s'.dev = s.dev))) ∧
  (∀ s die, s.dieSt die = .goingOffline → s.dieQuiet die = true → (∀ t ∈ s.teams, t.die = die → t.resident = false) →
    (∀ v, s.mem.vaults.find? (fun v => v.going && decide (v.fromDie = die)) = some v →
      ∃ s', exec (.dieOfflineDone die) s = .next s' ∧ s' = { s with mem := { s.mem with tile := s'.mem.tile, vaults := s'.mem.vaults } } ∧
        (∀ word x, s.vaultMove? word = some x → s'.vaultMove? word = some (if x = v then { v with moved := v.moved + 1 } else x)) ∧
        (v.fromVault < 16 → v.toVault < 16 → (v.fromDie, v.fromVault) ≠ (v.toDie, v.toVault) → ∀ word, s.vaultMove? word = some v → s'.readTile word = s.readTile word)) ∧
    (∀ n x d w polder, (∀ v ∈ s.mem.vaults, v.going = true → v.fromDie ≠ die) → s.vaultLeft die = some (n, x) → s.vaultDest die = some (d, w, polder) →
      ∃ s', exec (.dieOfflineDone die) s = .next s' ∧ s'.mem.vaults.head? = some ⟨x.die, x.vault, die, n, d, w, 0⟩ ∧ s'.mem.tile = s.mem.tile ∧ s'.dieSt die = .goingOffline ∧
        s'.groups = s.groups ∧ s'.teams = s.teams)) ∧
  (∀ s die, die < s.dev.dies.length → die < s.dev.dieInc.length → s.dieSt die = .goingOffline → s.dieQuiet die = true →
    (∀ t ∈ s.teams, t.die = die → t.resident = false) → s.evacStep die = none →
    ∃ s', exec (.dieOfflineDone die) s = .next s' ∧ s'.dieSt die = .offline ∧ s'.incOf die = s.incOf die + 1 ∧ ∀ t ∈ s'.mem.tlb, tlbDie t.unit ≠ die) ∧
  (∀ s die, die < s.dev.dies.length → s.dieSt die = .comingOnline → s.roomForEvent →
    ((∀ g ∈ s.grids, g.done.isSome = true) → ∃ s' e, exec (.dieOnlineDone die true) s = .next s' ∧ s'.dieSt die = .online ∧ Posted s s' e ∧ e.type = 2 ∧ e.unit = die ∧ s'.mem.ram = s.mem.ram) ∧
    (∃ s', exec (.dieOnlineDone die false) s = .next s' ∧ s'.dieSt die = .offline ∧ s'.mem = s.mem)) ∧
  (∀ s die, die < 8 → die < s.dev.dies.length → die < s.dev.dieInc.length → s.dieSt die ≠ .offline →
    ∃ s', exec (.dieFailure die) s = .next s' ∧ s'.dieSt die = .offline ∧ s'.incOf die = s.incOf die + 1 ∧ ∀ t ∈ s'.mem.tlb, tlbDie t.unit ≠ die) ∧
  (∀ s die zones, die < s.dev.heatmap.length → ∃ s', exec (.heatmapRefresh die zones) s = .next s' ∧ nth s'.dev.heatmap die 0 = zones ∧ s' = { s with dev := s'.dev }) ∧
  (∀ s, exec .thermalThrottle s = .next { s with dev := { s.dev with throttled := true } }) ∧
  (∀ s, exec .criticalTemperature s = .next { s with dev := { s.dev with fatal := true, failUnit := 0xFE#8 } })

/-! The platform. -/

/-- R371, R372, R378: the steps of a boot, one after the other: the image's checks, the mesh, the dies as their
self-tests say, the vault split and the ports, and READY; a step that fails leaves boot code 0xF and the failing unit;
the mailbox then takes a new image, and otherwise answers. The outcome of each step is its argument, the
device reset before a second boot and the mailbox's states are readings, key, signature and domain map are
opaque (log entries 11, 12, 48). -/
def Obligations.BootAndMailbox : Prop :=
  (∀ arg host number s, s.dev.fatal = false → s.dev.boot = 1 →
    (s.dev.imageGood = true → ∃ s', exec (.boot true arg host number) s = .next s' ∧ s'.dev.boot = 2 ∧ s'.dev.image = some (s.dev.image.getD Config.flashImage) ∧ s' = { s with dev := s'.dev }) ∧
    (∀ ok, (ok = false ∨ s.dev.imageGood = false) → exec (.boot ok arg host number) s = .next { s with dev := { s.dev with boot := 0xF } })) ∧
  (∀ arg host number s, s.dev.fatal = false → s.dev.boot = 2 → ∃ s', exec (.boot true arg host number) s = .next s' ∧ s'.dev.boot = 3 ∧
    (∀ i, i < 9 → i < s.dev.hops.length → nth s'.dev.hops i [] = agreed hopOffer hopOffer) ∧ s' = { s with dev := s'.dev }) ∧
  (∀ arg host number s, s.dev.fatal = false → s.dev.boot = 3 → ∃ s', exec (.boot true arg host number) s = .next s' ∧ s'.dev.boot = 4 ∧
    (∀ i, i < 8 → s'.dieSt i = if arg.getLsbD i then .online else .offline) ∧ s' = { s with dev := s'.dev } ∧
    (∀ d, d < 8 → (∀ i, i < 8 → arg.getLsbD i = decide (i ≠ d)) → s.roomForEvent → ∃ e, Posted s s' e ∧ e.type = 3 ∧ e.unit = d)) ∧
  (∀ arg host number s, s.dev.fatal = false → s.dev.boot = 4 → ∃ s', exec (.boot true arg host number) s = .next s' ∧ s'.dev.boot = 5 ∧ s'.dev.ready = true ∧
    s'.dev.vaultSplit.length = 8 ∧ (∀ i, i < 8 → nth s'.dev.vaultSplit i 0 = Nat.min 16 (arg.toNat / 2 ^ (5 * i) % 32)) ∧
    s'.dev.hostBytes = host ∧ s'.dev.number = number ∧ s' = { s with dev := s'.dev } ∧ ∀ p ∈ s'.dev.hostPorts, p < s.dev.ports.length → (s'.port p).up = true) ∧
  (∀ arg host number s, s.dev.fatal = false → (s.dev.boot = 2 ∨ s.dev.boot = 3 ∨ s.dev.boot = 4) →
    exec (.boot false arg host number) s = .next { s with dev := { s.dev with boot := 0xF, failUnit := arg.extractLsb' 56 8 } }) ∧
  (∀ ok arg host number s, (s.dev.fatal = true ∨ s.dev.boot = 5 ∨ s.dev.boot = 0xF) → ∃ s', exec (.boot ok arg host number) s = .next s' ∧ s'.ctxs = [] ∧ s'.groups = [] ∧ s'.teams = [] ∧
    s'.dev.fatal = false ∧ s'.dev.boot = 1 ∧ s'.dev.ready = false ∧ s'.mem.ram = s.mem.ram ∧ s'.mem.tile = []) ∧
  (∀ image s, s.dev.boot = 0xF → ∃ s', exec (.mailboxRecovery image) s = .next s' ∧ s'.dev.image = some image ∧ s'.dev.boot = 1 ∧ s' = { s with dev := s'.dev }) ∧
  (∀ s, s.dev.boot ≠ 0xF → exec .mailboxIdentity s = .next { s with dev := { s.dev with reply := Config.identityKey.toList ++ Config.certChain } }) ∧
  (∀ nonce s, s.dev.boot ≠ 0xF → ∃ s', exec (.mailboxAttestation nonce) s = .next s' ∧ s'.dev.reply.length = 1472 ∧ s'.dev.reply.take 4 = [0x47, 0x41, 0x54, 0x31] ∧ s' = { s with dev := s'.dev } ∧
    (s'.dev.reply.drop 152).take 32 = bytesLe 32 nonce.toNat) ∧
  (∀ s, s.dev.boot ≠ 0xF → exec .mailboxDomainMap s = .next { s with dev := { s.dev with reply := Config.domainMap ((s.dev.ports.drop 8).map Port.peers) } })

/-- R333 to R336, R376: the context commands, by what the block names: a context is created with the block's
fields and the lowest free identifier, switched out, in, and torn down, each command ending with its status
word and its event. The moments of teardown and switch-out are readings (log entries 50, 51). -/
def Obligations.ContextCommands : Prop :=
  (∀ s block id, s.blockOk block 1 = true → createBad (s.blockWords block) = false → s.freeId = some id → s.roomForEvent →
    ∃ s' c, exec (.ctxCreate block) s = .next s' ∧ s'.ctx? id = some c ∧ c.status = .active ∧ c.ptRoot = recDword (s.blockWords block) 8 ∧
      c.saveBase = recDword (s.blockWords block) 16 ∧ c.faultBase = recDword (s.blockWords block) 32 ∧ c.codeBase = BitVec.ofNat 64 (recDword (s.blockWords block) 48) ∧
      c.trapMask = 1 ∧ c.preempt = 0x100 ∧ c.quota = 0x40 ∧ Ended s' block 0) ∧
  (∀ s block c, BlockFor s block 2 c → ∃ s' c', exec (.ctxTeardown block) s = .next s' ∧ s'.ctx? c.id = some c' ∧ c'.status = .tearing block) ∧
  (∀ s ctx c block, s.ctx? ctx = some c → c.status = .tearing block → block % 64 = 0 → block + 64 ≤ 2 ^ 39 → s.roomForEvent →
    ∃ s', exec (.ctxTeardownDone ctx) s = .next s' ∧ s'.ctx? ctx = none ∧ (∀ g ∈ s'.grids, g.ctx ≠ ctx) ∧ (∀ t ∈ s'.mem.tlb, t.ctx ≠ ctx) ∧ Ended s' block 0) ∧
  (∀ s block c, BlockFor s block 3 c → c.status = .active → ∃ s' c', exec (.ctxSwitchOut block) s = .next s' ∧ s'.ctx? c.id = some c' ∧ c'.status = .switchingOut block) ∧
  (∀ s ctx c block, s.ctx? ctx = some c → c.status = .switchingOut block → s.queueRuns ctx = true → s.slotsQuiet ctx = false → exec (.ctxSwitchOutDone ctx) s = .next s) ∧
  (∀ s ctx c block, s.ctx? ctx = some c → c.status = .switchingOut block → s.queueRuns ctx = false → s.teamsSaved ctx = false → exec (.ctxSwitchOutDone ctx) s = .next s) ∧
  (∀ s ctx c block, s.ctx? ctx = some c → c.status = .switchingOut block → s.queueRuns ctx = false → s.teamsSaved ctx = true → block % 64 = 0 → block + 64 ≤ 2 ^ 39 → s.roomForEvent →
    ∃ s' c', exec (.ctxSwitchOutDone ctx) s = .next s' ∧ s'.ctx? ctx = some c' ∧ c'.status = .out ∧ Ended s' block 0) ∧
  (∀ s block c, BlockFor s block 4 c → c.status = .out → ∃ s' c', exec (.ctxSwitchIn block) s = .next s' ∧ s'.ctx? c.id = some c' ∧ c'.status = .active ∧ c'.savedQ = [] ∧
    Ended s' block 0 ∧ ∀ x ∈ c.savedQ, ∃ y ∈ s'.groups, y.key = x.1.key)

/-- R374 to R378, R233, R311: a queue thread starts at its entry, stops, and has its fields written; counters
are cleared; a register write is the access of its offset; an event goes into the ring and the tail moves
on; a write of a vector's entry stands, and one that leaves the vector unmasked sends the message that was pending. Writes need READY, and the ring is written directly:
readings (log entries 53, 56). -/
def Obligations.HostControlsThePart : Prop :=
  (∀ s slot x, s.startOk slot (qtOf x .running) = true → slot < s.dev.qtctl.length → ∃ s' g, exec (.qtStart slot x) s = .next s' ∧ s'.qt slot = qtOf x .running ∧
    s'.group? (.queue slot) = some g ∧ g.priv = x.getLsbD 58 ∧ g.qctx = (x.extractLsb' 32 16).toNat ∧ g.threads = [newThread 0 0 (x.extractLsb' 0 32)]) ∧
  (∀ s slot, slot < s.dev.qtctl.length → ((s.qt slot).st = .running ∨ (s.qt slot).st = .held) → ∃ s', exec (.qtStop slot) s = .next s' ∧ (s'.qt slot).st = .idle ∧
    s'.group? (.queue slot) = none) ∧
  (∀ s slot x, slot < s.dev.qtctl.length → s.dev.ready = true → ((s.qt slot).st = .idle ∨ (s.qt slot).st = .trapped ∨ (s.qt slot).st = .lost) →
    ∃ s', exec (.qtctlSetFields slot x) s = .next s' ∧ s'.qt slot = qtOf x (s.qt slot).st ∧ s'.groups = s.groups) ∧
  (∀ s, exec .errcntClear s = .next { s with dev := { s.dev with softErrors := 0, deadMsgs := 0, dropped := 0 } }) ∧
  (∀ s x, s.dev.ready = true → ∃ s', exec (.hostRegisterWrite 0x200 8 x) s = .next s' ∧ s'.dev.evqBase = x ∧ s'.hostRead 0x200 8 = x) ∧
  (∀ s x q, s.dev.ready = true → q < 64 → s.dist.prio.length = 64 → s.dist.cls.length = 64 → ∃ s', exec (.hostRegisterWrite (0x2000 + 8 * q) 8 x) s = .next s' ∧
    s'.hostRead (0x2000 + 8 * q) 8 = (x.extractLsb' 0 6).setWidth 64 ∧ ∀ r, r ≠ q → nth s'.dist.prio r 0 = nth s.dist.prio r 0) ∧
  (∀ s offset bytes x, bytes ≠ 8 ∨ offset % 8 ≠ 0 → exec (.hostRegisterWrite offset bytes x) s = .next s) ∧
  (∀ s e n r, s.dev.heldEvents = (e, n) :: r → s.ringRoom = true → s.coh.halves = [] → ∃ s', exec .eventPost s = .next s' ∧ s'.dev.heldEvents = r ∧
    s'.dev.evqTail.toNat = (s.dev.evqTail.toNat + 1) % s.dev.ringLen ∧ ∀ i, i < 4 → s'.peek (hostBit + s.dev.ringSlot + 4 * i) = nth (e.words n) i 0) ∧
  (∀ s vec (x : MsixEntry), vec < 2048 → ∃ s', exec (.msixVectorUnmask ⟨vec, x⟩) s = .next s' ∧ Store.get MsixEntry.reset s'.dev.msix vec = x ∧
    (∀ v, v ≠ vec → Store.get MsixEntry.reset s'.dev.msix v = Store.get MsixEntry.reset s.dev.msix v) ∧ s' = { s with dev := s'.dev } ∧
    (x.masked = true → s'.dev.msixPending = s.dev.msixPending ∧ s'.dev.msixSent = s.dev.msixSent) ∧
    (x.masked = false → vec ∉ s'.dev.msixPending ∧ (∀ v, v ≠ vec → (v ∈ s'.dev.msixPending ↔ v ∈ s.dev.msixPending)) ∧
      s'.dev.msixSent = if vec ∈ s.dev.msixPending then s.dev.msixSent ++ [(vec, x.addr, x.data)] else s.dev.msixSent))
end

