-- ==== Sys2Proof/Laws/Dispatch.lean ====
section
/-! SUPPORT. `exec` at each constructor: the meaning that its arm calls. -/

namespace Sys2Proof.Machine

theorem exec_add (s : State) {d a b} : exec (.add d a b) s = execAdd d a b s := rfl
theorem exec_sub (s : State) {d a b} : exec (.sub d a b) s = execSub d a b s := rfl
theorem exec_mul (s : State) {d a b} : exec (.mul d a b) s = execMul d a b s := rfl
theorem exec_fma (s : State) {d a b} : exec (.fma d a b) s = execFma d a b s := rfl
theorem exec_min (s : State) {d a b} : exec (.min d a b) s = execMin d a b s := rfl
theorem exec_max (s : State) {d a b} : exec (.max d a b) s = execMax d a b s := rfl
theorem exec_abs (s : State) {d a} : exec (.abs d a) s = execAbs d a s := rfl
theorem exec_neg (s : State) {d a} : exec (.neg d a) s = execNeg d a s := rfl
theorem exec_sadd (s : State) {d a b} : exec (.sadd d a b) s = execSadd d a b s := rfl
theorem exec_ssub (s : State) {d a b} : exec (.ssub d a b) s = execSsub d a b s := rfl
theorem exec_cpsgn (s : State) {d a b} : exec (.cpsgn d a b) s = execCpsgn d a b s := rfl
theorem exec_addi (s : State) {d a imm} : exec (.addi d a imm) s = execAddi d a imm s := rfl
theorem exec_muli (s : State) {d a imm} : exec (.muli d a imm) s = execMuli d a imm s := rfl
theorem exec_mini (s : State) {d a imm} : exec (.mini d a imm) s = execMini d a imm s := rfl
theorem exec_maxi (s : State) {d a imm} : exec (.maxi d a imm) s = execMaxi d a imm s := rfl
theorem exec_mulhi (s : State) {d a b} : exec (.mulhi d a b) s = execMulhi d a b s := rfl
theorem exec_mulhn (s : State) {d a b} : exec (.mulhn d a b) s = execMulhn d a b s := rfl
theorem exec_div (s : State) {d a b} : exec (.div d a b) s = execDiv d a b s := rfl
theorem exec_rem (s : State) {d a b} : exec (.rem d a b) s = execRem d a b s := rfl
theorem exec_divn (s : State) {d a b} : exec (.divn d a b) s = execDivn d a b s := rfl
theorem exec_remn (s : State) {d a b} : exec (.remn d a b) s = execRemn d a b s := rfl
theorem exec_shl (s : State) {d a b} : exec (.shl d a b) s = execShl d a b s := rfl
theorem exec_shr (s : State) {d a b} : exec (.shr d a b) s = execShr d a b s := rfl
theorem exec_sra (s : State) {d a b} : exec (.sra d a b) s = execSra d a b s := rfl
theorem exec_rol (s : State) {d a b} : exec (.rol d a b) s = execRol d a b s := rfl
theorem exec_shli (s : State) {d a imm} : exec (.shli d a imm) s = execShli d a imm s := rfl
theorem exec_shri (s : State) {d a imm} : exec (.shri d a imm) s = execShri d a imm s := rfl
theorem exec_srai (s : State) {d a imm} : exec (.srai d a imm) s = execSrai d a imm s := rfl
theorem exec_clz (s : State) {d a} : exec (.clz d a) s = execClz d a s := rfl
theorem exec_popc (s : State) {d a} : exec (.popc d a) s = execPopc d a s := rfl
theorem exec_brev (s : State) {d a} : exec (.brev d a) s = execBrev d a s := rfl
theorem exec_and (s : State) {d a b} : exec (.and d a b) s = execAnd d a b s := rfl
theorem exec_or (s : State) {d a b} : exec (.or d a b) s = execOr d a b s := rfl
theorem exec_xor (s : State) {d a b} : exec (.xor d a b) s = execXor d a b s := rfl
theorem exec_andn (s : State) {d a b} : exec (.andn d a b) s = execAndn d a b s := rfl
theorem exec_orn (s : State) {d a b} : exec (.orn d a b) s = execOrn d a b s := rfl
theorem exec_not (s : State) {d a} : exec (.not d a) s = execNot d a s := rfl
theorem exec_andi (s : State) {d a imm} : exec (.andi d a imm) s = execAndi d a imm s := rfl
theorem exec_ori (s : State) {d a imm} : exec (.ori d a imm) s = execOri d a imm s := rfl
theorem exec_xori (s : State) {d a imm} : exec (.xori d a imm) s = execXori d a imm s := rfl
theorem exec_sel (s : State) {d a b} : exec (.sel d a b) s = execSel d a b s := rfl
theorem exec_bfx (s : State) {d a b} : exec (.bfx d a b) s = execBfx d a b s := rfl
theorem exec_bfi (s : State) {d a b} : exec (.bfi d a b) s = execBfi d a b s := rfl
theorem exec_prmb (s : State) {d a b} : exec (.prmb d a b) s = execPrmb d a b s := rfl
theorem exec_lui (s : State) {d imm} : exec (.lui d imm) s = execLui d imm s := rfl
theorem exec_lli (s : State) {d imm} : exec (.lli d imm) s = execLli d imm s := rfl
theorem exec_mov (s : State) {d a} : exec (.mov d a) s = execMov d a s := rfl
theorem exec_divf (s : State) {d a b} : exec (.divf d a b) s = execDivf d a b s := rfl
theorem exec_rcp (s : State) {d a} : exec (.rcp d a) s = execRcp d a s := rfl
theorem exec_rsq (s : State) {d a} : exec (.rsq d a) s = execRsq d a s := rfl
theorem exec_sqrt (s : State) {d a} : exec (.sqrt d a) s = execSqrt d a s := rfl
theorem exec_exp2 (s : State) {d a} : exec (.exp2 d a) s = execExp2 d a s := rfl
theorem exec_log2 (s : State) {d a} : exec (.log2 d a) s = execLog2 d a s := rfl
theorem exec_sin (s : State) {d a} : exec (.sin d a) s = execSin d a s := rfl
theorem exec_cos (s : State) {d a} : exec (.cos d a) s = execCos d a s := rfl
theorem exec_tanh (s : State) {d a} : exec (.tanh d a) s = execTanh d a s := rfl
theorem exec_rint (s : State) {d a} : exec (.rint d a) s = execRint d a s := rfl
theorem exec_scalb (s : State) {d a b} : exec (.scalb d a b) s = execScalb d a b s := rfl
theorem exec_fcls (s : State) {d a} : exec (.fcls d a) s = execFcls d a s := rfl
theorem exec_ceq (s : State) {d a b} : exec (.ceq d a b) s = execCeq d a b s := rfl
theorem exec_cne (s : State) {d a b} : exec (.cne d a b) s = execCne d a b s := rfl
theorem exec_clt (s : State) {d a b} : exec (.clt d a b) s = execClt d a b s := rfl
theorem exec_cle (s : State) {d a b} : exec (.cle d a b) s = execCle d a b s := rfl
theorem exec_cuno (s : State) {d a b} : exec (.cuno d a b) s = execCuno d a b s := rfl
theorem exec_ctag (s : State) {d a imm} : exec (.ctag d a imm) s = execCtag d a imm s := rfl
theorem exec_ceqi (s : State) {d a imm} : exec (.ceqi d a imm) s = execCeqi d a imm s := rfl
theorem exec_cnei (s : State) {d a imm} : exec (.cnei d a imm) s = execCnei d a imm s := rfl
theorem exec_clti (s : State) {d a imm} : exec (.clti d a imm) s = execClti d a imm s := rfl
theorem exec_clei (s : State) {d a imm} : exec (.clei d a imm) s = execClei d a imm s := rfl
theorem exec_cgti (s : State) {d a imm} : exec (.cgti d a imm) s = execCgti d a imm s := rfl
theorem exec_cgei (s : State) {d a imm} : exec (.cgei d a imm) s = execCgei d a imm s := rfl
theorem exec_cvt (s : State) {d a imm} : exec (.cvt d a imm) s = execCvt d a imm s := rfl
theorem exec_tagr (s : State) {d a imm} : exec (.tagr d a imm) s = execTagr d a imm s := rfl
theorem exec_tagq (s : State) {d a} : exec (.tagq d a) s = execTagq d a s := rfl
theorem exec_pack (s : State) {d a b} : exec (.pack d a b) s = execPack d a b s := rfl
theorem exec_unpkl (s : State) {d a imm} : exec (.unpkl d a imm) s = execUnpkl d a imm s := rfl
theorem exec_unpkh (s : State) {d a imm} : exec (.unpkh d a imm) s = execUnpkh d a imm s := rfl
theorem exec_sclc (s : State) {d a b} : exec (.sclc d a b) s = execSclc d a b s := rfl
theorem exec_qnt (s : State) {d a b} : exec (.qnt d a b) s = execQnt d a b s := rfl
theorem exec_dqnt (s : State) {d a b} : exec (.dqnt d a b) s = execDqnt d a b s := rfl
theorem exec_hadm (s : State) {d a imm} : exec (.hadm d a imm) s = execHadm d a imm s := rfl
theorem exec_trpk (s : State) {d a b} : exec (.trpk d a b) s = execTrpk d a b s := rfl
theorem exec_trex (s : State) {d a imm} : exec (.trex d a imm) s = execTrex d a imm s := rfl
theorem exec_lutx (s : State) {d a b} : exec (.lutx d a b) s = execLutx d a b s := rfl
theorem exec_shfl (s : State) {d a b} : exec (.shfl d a b) s = execShfl d a b s := rfl
theorem exec_shflx (s : State) {d a imm} : exec (.shflx d a imm) s = execShflx d a imm s := rfl
theorem exec_shflu (s : State) {d a imm} : exec (.shflu d a imm) s = execShflu d a imm s := rfl
theorem exec_shfld (s : State) {d a imm} : exec (.shfld d a imm) s = execShfld d a imm s := rfl
theorem exec_bcst (s : State) {d a imm} : exec (.bcst d a imm) s = execBcst d a imm s := rfl
theorem exec_vall (s : State) {d a} : exec (.vall d a) s = execVall d a s := rfl
theorem exec_vany (s : State) {d a} : exec (.vany d a) s = execVany d a s := rfl
theorem exec_ballot (s : State) {d a} : exec (.ballot d a) s = execBallot d a s := rfl
theorem exec_rdadd (s : State) {d a} : exec (.rdadd d a) s = execRdadd d a s := rfl
theorem exec_rdmax (s : State) {d a} : exec (.rdmax d a) s = execRdmax d a s := rfl
theorem exec_rdmin (s : State) {d a} : exec (.rdmin d a) s = execRdmin d a s := rfl
theorem exec_scan (s : State) {d a} : exec (.scan d a) s = execScan d a s := rfl
theorem exec_cmpct (s : State) {d a b} : exec (.cmpct d a b) s = execCmpct d a b s := rfl
theorem exec_rank (s : State) {d a} : exec (.rank d a) s = execRank d a s := rfl
theorem exec_matchAny (s : State) {d a} : exec (.matchAny d a) s = execMatchAny d a s := rfl
theorem exec_br (s : State) {off} : exec (.br off) s = execBr off s := rfl
theorem exec_bnz (s : State) {a off} : exec (.bnz a off) s = execBnz a off s := rfl
theorem exec_bz (s : State) {a off} : exec (.bz a off) s = execBz a off s := rfl
theorem exec_brx (s : State) {a} : exec (.brx a) s = execBrx a s := rfl
theorem exec_call (s : State) {a off} : exec (.call a off) s = execCall a off s := rfl
theorem exec_callx (s : State) {d a} : exec (.callx d a) s = execCallx d a s := rfl
theorem exec_ret (s : State) {a} : exec (.ret a) s = execRet a s := rfl
theorem exec_exit (s : State) : exec .exit s = execExit s := rfl
theorem exec_yield (s : State) : exec .yield s = execYield s := rfl
theorem exec_nop (s : State) : exec .nop s = execNop s := rfl
theorem exec_idem (s : State) {imm} : exec (.idem imm) s = execIdem imm s := rfl
theorem exec_pause (s : State) : exec .pause s = execPause s := rfl
theorem exec_lds (s : State) {d a st t} : exec (.lds d a st t) s = execLds d a st t s := rfl
theorem exec_lds2 (s : State) {d a st t} : exec (.lds2 d a st t) s = execLds2 d a st t s := rfl
theorem exec_lds4 (s : State) {d a st t} : exec (.lds4 d a st t) s = execLds4 d a st t s := rfl
theorem exec_ldse (s : State) {d a st t} : exec (.ldse d a st t) s = execLdse d a st t s := rfl
theorem exec_ldsc (s : State) {d a st t} : exec (.ldsc d a st t) s = execLdsc d a st t s := rfl
theorem exec_ldt (s : State) {d a st t} : exec (.ldt d a st t) s = execLdt d a st t s := rfl
theorem exec_ldt2 (s : State) {d a st t} : exec (.ldt2 d a st t) s = execLdt2 d a st t s := rfl
theorem exec_ldt4 (s : State) {d a st t} : exec (.ldt4 d a st t) s = execLdt4 d a st t s := rfl
theorem exec_ldg (s : State) {d a st t} : exec (.ldg d a st t) s = execLdg d a st t s := rfl
theorem exec_ldg2 (s : State) {d a st t} : exec (.ldg2 d a st t) s = execLdg2 d a st t s := rfl
theorem exec_ldg4 (s : State) {d a st t} : exec (.ldg4 d a st t) s = execLdg4 d a st t s := rfl
theorem exec_ldga (s : State) {d a st t} : exec (.ldga d a st t) s = execLdga d a st t s := rfl
theorem exec_ldp (s : State) {d a st t} : exec (.ldp d a st t) s = execLdp d a st t s := rfl
theorem exec_ldta (s : State) {d a st t} : exec (.ldta d a st t) s = execLdta d a st t s := rfl
theorem exec_sts (s : State) {d a st pol} : exec (.sts d a st pol) s = execSts d a st pol s := rfl
theorem exec_sts2 (s : State) {d a st pol} : exec (.sts2 d a st pol) s = execSts2 d a st pol s := rfl
theorem exec_sts4 (s : State) {d a st pol} : exec (.sts4 d a st pol) s = execSts4 d a st pol s := rfl
theorem exec_stsf (s : State) {d a st pol} : exec (.stsf d a st pol) s = execStsf d a st pol s := rfl
theorem exec_stt (s : State) {d a st pol} : exec (.stt d a st pol) s = execStt d a st pol s := rfl
theorem exec_stt2 (s : State) {d a st pol} : exec (.stt2 d a st pol) s = execStt2 d a st pol s := rfl
theorem exec_stt4 (s : State) {d a st pol} : exec (.stt4 d a st pol) s = execStt4 d a st pol s := rfl
theorem exec_stg (s : State) {d a st pol} : exec (.stg d a st pol) s = execStg d a st pol s := rfl
theorem exec_stg2 (s : State) {d a st pol} : exec (.stg2 d a st pol) s = execStg2 d a st pol s := rfl
theorem exec_stg4 (s : State) {d a st pol} : exec (.stg4 d a st pol) s = execStg4 d a st pol s := rfl
theorem exec_stgr (s : State) {d a st pol} : exec (.stgr d a st pol) s = execStgr d a st pol s := rfl
theorem exec_sttr (s : State) {d a st pol} : exec (.sttr d a st pol) s = execSttr d a st pol s := rfl
theorem exec_atg (s : State) {d a st op} : exec (.atg d a st op) s = execAtg d a st op s := rfl
theorem exec_atgr (s : State) {d a st op} : exec (.atgr d a st op) s = execAtgr d a st op s := rfl
theorem exec_casg (s : State) {d a st} : exec (.casg d a st) s = execCasg d a st s := rfl
theorem exec_ats (s : State) {d a st op} : exec (.ats d a st op) s = execAts d a st op s := rfl
theorem exec_atsr (s : State) {d a st op} : exec (.atsr d a st op) s = execAtsr d a st op s := rfl
theorem exec_cass (s : State) {d a st} : exec (.cass d a st) s = execCass d a st s := rfl
theorem exec_llock (s : State) {d a st} : exec (.llock d a st) s = execLlock d a st s := rfl
theorem exec_ltry (s : State) {d a st} : exec (.ltry d a st) s = execLtry d a st s := rfl
theorem exec_lunlk (s : State) {d a st} : exec (.lunlk d a st) s = execLunlk d a st s := rfl
theorem exec_lstat (s : State) {d a st} : exec (.lstat d a st) s = execLstat d a st s := rfl
theorem exec_fence (s : State) {sc} : exec (.fence sc) s = execFence sc s := rfl
theorem exec_fncx (s : State) {sc mask} : exec (.fncx sc mask) s = execFncx sc mask s := rfl
theorem exec_barv (s : State) {d imm} : exec (.barv d imm) s = execBarv d imm s := rfl
theorem exec_barvReg (s : State) {d a} : exec (.barvReg d a) s = execBarvReg d a s := rfl
theorem exec_barw (s : State) {d imm} : exec (.barw d imm) s = execBarw d imm s := rfl
theorem exec_barwReg (s : State) {d a} : exec (.barwReg d a) s = execBarwReg d a s := rfl
theorem exec_bars (s : State) {d imm} : exec (.bars d imm) s = execBars d imm s := rfl
theorem exec_barsReg (s : State) {d a} : exec (.barsReg d a) s = execBarsReg d a s := rfl
theorem exec_barq (s : State) {d imm} : exec (.barq d imm) s = execBarq d imm s := rfl
theorem exec_barqReg (s : State) {d a} : exec (.barqReg d a) s = execBarqReg d a s := rfl
theorem exec_cpy (s : State) {d a b} : exec (.cpy d a b) s = execCpy d a b s := rfl
theorem exec_bcpy (s : State) {d a b} : exec (.bcpy d a b) s = execBcpy d a b s := rfl
theorem exec_tcpy (s : State) {d a b} : exec (.tcpy d a b) s = execTcpy d a b s := rfl
theorem exec_kvapp (s : State) {d a b} : exec (.kvapp d a b) s = execKvapp d a b s := rfl
theorem exec_pfg (s : State) {a st pol} : exec (.pfg a st pol) s = execPfg a st pol s := rfl
theorem exec_sinv (s : State) {a b} : exec (.sinv a b) s = execSinv a b s := rfl
theorem exec_sflsh (s : State) {a b} : exec (.sflsh a b) s = execSflsh a b s := rfl
theorem exec_selt (s : State) {d a b} : exec (.selt d a b) s = execSelt d a b s := rfl
theorem exec_dld (s : State) {d a b} : exec (.dld d a b) s = execDld d a b s := rfl
theorem exec_dldl (s : State) {d a b} : exec (.dldl d a b) s = execDldl d a b s := rfl
theorem exec_dswap (s : State) : exec .dswap s = execDswap s := rfl
theorem exec_dstr (s : State) {d a b} : exec (.dstr d a b) s = execDstr d a b s := rfl
theorem exec_dstrn (s : State) {d a b} : exec (.dstrn d a b) s = execDstrn d a b s := rfl
theorem exec_dzro (s : State) {imm} : exec (.dzro imm) s = execDzro imm s := rfl
theorem exec_ddrn (s : State) {d a b} : exec (.ddrn d a b) s = execDdrn d a b s := rfl
theorem exec_ddrq (s : State) {d a b} : exec (.ddrq d a b) s = execDdrq d a b s := rfl
theorem exec_dgang (s : State) {d a} : exec (.dgang d a) s = execDgang d a s := rfl
theorem exec_dwait (s : State) {d} : exec (.dwait d) s = execDwait d s := rfl
theorem exec_dpass (s : State) {d a} : exec (.dpass d a) s = execDpass d a s := rfl
theorem exec_spgm (s : State) {d a} : exec (.spgm d a) s = execSpgm d a s := rfl
theorem exec_dscr (s : State) {d a b} : exec (.dscr d a b) s = execDscr d a b s := rfl
theorem exec_smrg (s : State) {d a b} : exec (.smrg d a b) s = execSmrg d a b s := rfl
theorem exec_lnch (s : State) {d a} : exec (.lnch d a) s = execLnch d a s := rfl
theorem exec_lnchs (s : State) {d a b} : exec (.lnchs d a b) s = execLnchs d a b s := rfl
theorem exec_rslv (s : State) {d a b} : exec (.rslv d a b) s = execRslv d a b s := rfl
theorem exec_vsq (s : State) {d a} : exec (.vsq d a) s = execVsq d a s := rfl
theorem exec_vqry (s : State) {d a} : exec (.vqry d a) s = execVqry d a s := rfl
theorem exec_waitg (s : State) {d a} : exec (.waitg d a) s = execWaitg d a s := rfl
theorem exec_loc (s : State) {d} : exec (.loc d) s = execLoc d s := rfl
theorem exec_hosti (s : State) {d a} : exec (.hosti d a) s = execHosti d a s := rfl
theorem exec_srd (s : State) {d imm} : exec (.srd d imm) s = execSrd d imm s := rfl
theorem exec_swr (s : State) {d imm} : exec (.swr d imm) s = execSwr d imm s := rfl
theorem exec_trap (s : State) {imm} : exec (.trap imm) s = execTrap imm s := rfl
theorem exec_eret (s : State) : exec .eret s = execEret s := rfl
theorem exec_tlwr (s : State) {d a b} : exec (.tlwr d a b) s = execTlwr d a b s := rfl
theorem exec_kvfrk (s : State) {d a b} : exec (.kvfrk d a b) s = execKvfrk d a b s := rfl
theorem exec_migr (s : State) {d a b} : exec (.migr d a b) s = execMigr d a b s := rfl
theorem exec_ptinv (s : State) {a b} : exec (.ptinv a b) s = execPtinv a b s := rfl
theorem exec_dieop (s : State) {d a} : exec (.dieop d a) s = execDieop d a s := rfl
theorem exec_himm (s : State) {p} : exec (.himm p) s = execHimm p s := rfl
theorem exec_hsrc (s : State) {src} : exec (.hsrc src) s = execHsrc src s := rfl
theorem exec_hrnd (s : State) {m} : exec (.hrnd m) s = execHrnd m s := rfl
theorem exec_hord (s : State) {f u sc} : exec (.hord f u sc) s = execHord f u sc s := rfl
theorem exec_hpol (s : State) {pol} : exec (.hpol pol) s = execHpol pol s := rfl
theorem exec_hsch (s : State) {c} : exec (.hsch c) s = execHsch c s := rfl
theorem exec_hoff (s : State) {off} : exec (.hoff off) s = execHoff off s := rfl
theorem exec_issueSelect (s : State) {core quad} : exec (.issueSelect core quad) s = execIssueSelect core quad s := rfl
theorem exec_groupSwap (s : State) {core quad} : exec (.groupSwap core quad) s = execGroupSwap core quad s := rfl
theorem exec_queueThreadIssue (s : State) {qcore} : exec (.queueThreadIssue qcore) s = execQueueThreadIssue qcore s := rfl
theorem exec_arrayOpStart (s : State) {core pipe} : exec (.arrayOpStart core pipe) s = execArrayOpStart core pipe s := rfl
theorem exec_arrayOpComplete (s : State) {core pipe} : exec (.arrayOpComplete core pipe) s = execArrayOpComplete core pipe s := rfl
theorem exec_engineCommandComplete (s : State) {id} : exec (.engineCommandComplete id) s = execEngineCommandComplete id s := rfl
theorem exec_loadComplete (s : State) {id} : exec (.loadComplete id) s = execLoadComplete id s := rfl
theorem exec_pauseEnd (s : State) {k tid} : exec (.pauseEnd k tid) s = execPauseEnd k tid s := rfl
theorem exec_translationWalk (s : State) {tlb ctx va} : exec (.translationWalk tlb ctx va) s = execTranslationWalk tlb ctx va s := rfl
theorem exec_lockTimeout (s : State) {line k} : exec (.lockTimeout line k) s = execLockTimeout line k s := rfl
theorem exec_deadlockBroken (s : State) {k} : exec (.deadlockBroken k) s = execDeadlockBroken k s := rfl
theorem exec_dispatchStep (s : State) {choice} : exec (.dispatchStep choice) s = execDispatchStep choice s := rfl
theorem exec_stagingComplete (s : State) {t} : exec (.stagingComplete t) s = execStagingComplete t s := rfl
theorem exec_preemptStarvation (s : State) {queue} : exec (.preemptStarvation queue) s = execPreemptStarvation queue s := rfl
theorem exec_deferralLimit (s : State) {t} : exec (.deferralLimit t) s = execDeferralLimit t s := rfl
theorem exec_trapSaveTimeout (s : State) {t} : exec (.trapSaveTimeout t) s = execTrapSaveTimeout t s := rfl
theorem exec_teamSave (s : State) {t} : exec (.teamSave t) s = execTeamSave t s := rfl
theorem exec_teamMigrate (s : State) {t die} : exec (.teamMigrate t die) s = execTeamMigrate t die s := rfl
theorem exec_gridComplete (s : State) {ctx grid} : exec (.gridComplete ctx grid) s = execGridComplete ctx grid s := rfl
theorem exec_spillwayReclaim (s : State) {base} : exec (.spillwayReclaim base) s = execSpillwayReclaim base s := rfl
theorem exec_migrationLineMove (s : State) {ctx va} : exec (.migrationLineMove ctx va) s = execMigrationLineMove ctx va s := rfl
theorem exec_rds (s : State) {die line} : exec (.rds die line) s = execRds die line s := rfl
theorem exec_rdx (s : State) {die line} : exec (.rdx die line) s = execRdx die line s := rfl
theorem exec_upg (s : State) {die line} : exec (.upg die line) s = execUpg die line s := rfl
theorem exec_wb (s : State) {die line} : exec (.wb die line) s = execWb die line s := rfl
theorem exec_evc (s : State) {die line} : exec (.evc die line) s = execEvc die line s := rfl
theorem exec_fwdS (s : State) {die line} : exec (.fwdS die line) s = execFwdS die line s := rfl
theorem exec_fwdX (s : State) {die line} : exec (.fwdX die line) s = execFwdX die line s := rfl
theorem exec_inv (s : State) {die line} : exec (.inv die line) s = execInv die line s := rfl
theorem exec_data (s : State) {die line} : exec (.data die line) s = execData die line s := rfl
theorem exec_invack (s : State) {die line} : exec (.invack die line) s = execInvack die line s := rfl
theorem exec_fack (s : State) {line} : exec (.fack line) s = execFack line s := rfl
theorem exec_done (s : State) {die line} : exec (.done die line) s = execDone die line s := rfl
theorem exec_binv (s : State) {die line} : exec (.binv die line) s = execBinv die line s := rfl
theorem exec_snoopData (s : State) {half} : exec (.snoopData half) s = execSnoopData half s := rfl
theorem exec_snoopInvalidate (s : State) {half} : exec (.snoopInvalidate half) s = execSnoopInvalidate half s := rfl
theorem exec_snoopCurrent (s : State) {half} : exec (.snoopCurrent half) s = execSnoopCurrent half s := rfl
theorem exec_hostHalfGrant (s : State) {half excl data} : exec (.hostHalfGrant half excl data) s = execHostHalfGrant half excl data s := rfl
theorem exec_hostAgentAccess (s : State) {a store} : exec (.hostAgentAccess a store) s = execHostAgentAccess a store s := rfl
theorem exec_remoteLoad (s : State) {src ctx path addr} : exec (.remoteLoad src ctx path addr) s = execRemoteLoad src ctx path addr s := rfl
theorem exec_remoteStore (s : State) {src ctx path addr x} : exec (.remoteStore src ctx path addr x) s = execRemoteStore src ctx path addr x s := rfl
theorem exec_remoteAtomic (s : State) {src ctx path addr op tag x} : exec (.remoteAtomic src ctx path addr op tag x) s = execRemoteAtomic src ctx path addr op tag x s := rfl
theorem exec_openNotice (s : State) {src ctx v} : exec (.openNotice src ctx v) s = execOpenNotice src ctx v s := rfl
theorem exec_openNoticeAck (s : State) {peer ctx v} : exec (.openNoticeAck peer ctx v) s = execOpenNoticeAck peer ctx v s := rfl
theorem exec_commitNotice (s : State) {src ctx v} : exec (.commitNotice src ctx v) s = execCommitNotice src ctx v s := rfl
theorem exec_commitNoticeAck (s : State) {peer ctx v} : exec (.commitNoticeAck peer ctx v) s = execCommitNoticeAck peer ctx v s := rfl
theorem exec_squashNotice (s : State) {src ctx v} : exec (.squashNotice src ctx v) s = execSquashNotice src ctx v s := rfl
theorem exec_dropReport (s : State) {ctx} : exec (.dropReport ctx) s = execDropReport ctx s := rfl
theorem exec_peerRefuse (s : State) {id} : exec (.peerRefuse id) s = execPeerRefuse id s := rfl
theorem exec_peerTimeout (s : State) {peer} : exec (.peerTimeout peer) s = execPeerTimeout peer s := rfl
theorem exec_linkDown (s : State) {port} : exec (.linkDown port) s = execLinkDown port s := rfl
theorem exec_linkTrain (s : State) {port lanes rate offer peers} : exec (.linkTrain port lanes rate offer peers) s = execLinkTrain port lanes rate offer peers s := rfl
theorem exec_linkProtocolError (s : State) {e} : exec (.linkProtocolError e) s = execLinkProtocolError e s := rfl
theorem exec_dieOfflineDone (s : State) {die} : exec (.dieOfflineDone die) s = execDieOfflineDone die s := rfl
theorem exec_dieOnlineDone (s : State) {die ok} : exec (.dieOnlineDone die ok) s = execDieOnlineDone die ok s := rfl
theorem exec_dieFailure (s : State) {die} : exec (.dieFailure die) s = execDieFailure die s := rfl
theorem exec_reportedError (s : State) {e unit entry addr} : exec (.reportedError e unit entry addr) s = execReportedError e unit entry addr s := rfl
theorem exec_heatmapRefresh (s : State) {die zones} : exec (.heatmapRefresh die zones) s = execHeatmapRefresh die zones s := rfl
theorem exec_thermalThrottle (s : State) : exec .thermalThrottle s = execThermalThrottle s := rfl
theorem exec_criticalTemperature (s : State) : exec .criticalTemperature s = execCriticalTemperature s := rfl
theorem exec_boot (s : State) {ok arg host number} : exec (.boot ok arg host number) s = execBoot ok arg host number s := rfl
theorem exec_mailboxRecovery (s : State) {image} : exec (.mailboxRecovery image) s = execMailboxRecovery image s := rfl
theorem exec_mailboxIdentity (s : State) : exec .mailboxIdentity s = execMailboxIdentity s := rfl
theorem exec_mailboxAttestation (s : State) {nonce} : exec (.mailboxAttestation nonce) s = execMailboxAttestation nonce s := rfl
theorem exec_mailboxDomainMap (s : State) : exec .mailboxDomainMap s = execMailboxDomainMap s := rfl
theorem exec_ctxCreate (s : State) {block} : exec (.ctxCreate block) s = execCtxCreate block s := rfl
theorem exec_ctxTeardown (s : State) {block} : exec (.ctxTeardown block) s = execCtxTeardown block s := rfl
theorem exec_ctxTeardownDone (s : State) {ctx} : exec (.ctxTeardownDone ctx) s = execCtxTeardownDone ctx s := rfl
theorem exec_ctxSwitchOut (s : State) {block} : exec (.ctxSwitchOut block) s = execCtxSwitchOut block s := rfl
theorem exec_ctxSwitchOutDone (s : State) {ctx} : exec (.ctxSwitchOutDone ctx) s = execCtxSwitchOutDone ctx s := rfl
theorem exec_ctxSwitchIn (s : State) {block} : exec (.ctxSwitchIn block) s = execCtxSwitchIn block s := rfl
theorem exec_qtStart (s : State) {slot x} : exec (.qtStart slot x) s = execQtStart slot x s := rfl
theorem exec_qtStop (s : State) {slot} : exec (.qtStop slot) s = execQtStop slot s := rfl
theorem exec_qtctlSetFields (s : State) {slot x} : exec (.qtctlSetFields slot x) s = execQtctlSetFields slot x s := rfl
theorem exec_errcntClear (s : State) : exec .errcntClear s = execErrcntClear s := rfl
theorem exec_hostRegisterWrite (s : State) {offset bytes x} : exec (.hostRegisterWrite offset bytes x) s = execHostRegisterWrite offset bytes x s := rfl
theorem exec_eventPost (s : State) : exec .eventPost s = execEventPost s := rfl
theorem exec_storePerformed (s : State) {id} : exec (.storePerformed id) s = execStorePerformed id s := rfl
theorem exec_msixVectorUnmask (s : State) {vec} : exec (.msixVectorUnmask vec) s = execMsixVectorUnmask vec s := rfl

end Sys2Proof.Machine
end

