-- ==== Sys2Proof/Laws/Engines.lean ====
section
/-! SUPPORT. Translations that a core's TLB holds, and the words that an engine command names through them. -/

namespace Sys2Proof.Machine

/-- A translation that the TLB of a unit holds changes nothing (R285). -/
theorem State.translate_held {s : State} {unit ctx va : Nat} {need : Need} {e : TlbEnt} (h : s.tlbFind unit ctx va = some e) :
    s.translate unit ctx need va = (s, if need.allowed e.pte then .ok e.pte (leafBase e.pte + (va - e.vbase)) else .prot) := by
  simp [State.translate, State.tlbFill, h]

/-- Words of pages that one held translation covers. -/
theorem State.engXlat_held {s : State} {g : Group} {need : Need} {e : TlbEnt} {l : List Nat} (h : ∀ a ∈ l, s.tlbFind g.tlbUnit g.ctx a = some e)
    (hn : need.allowed e.pte = true) : s.engXlat g need l = (s, .ok (l.map (fun a => accOf e.pte (leafBase e.pte + (a - e.vbase))))) := by
  induction l with
  | nil => rfl
  | cons a r ih =>
    rw [State.engXlat, State.translate_held (h a (by simp)), hn]
    simp [ih (fun b hb => h b (by simp [hb]))]

/-- A run of global words under one held translation. -/
theorem State.engAccs_held {s : State} {g : Group} {need : Need} {addr n : Nat} {e : TlbEnt}
    (h : ∀ a ∈ (List.range n).map (engAddr .global addr), s.tlbFind g.tlbUnit g.ctx a = some e) (hn : need.allowed e.pte = true) :
    s.engAccs g .global need addr n = (s, .ok (((List.range n).map (engAddr .global addr)).map (fun a => accOf e.pte (leafBase e.pte + (a - e.vbase))))) :=
  State.engXlat_held h hn

/-- No live version owns a tile word where every grid is of version 0. -/
theorem State.tileOwner_none {s : State} (h : ∀ g ∈ s.grids, g.rcd.vtag = 0) (c x : Nat) : s.tileOwner c x = none := by
  unfold State.tileOwner
  split
  · rfl
  · split
    · rfl
    · rename_i g hg
      rw [State.grid?] at hg
      simp [h g (List.mem_of_find?_eq_some hg)]

end Sys2Proof.Machine
end

