-- ==== Sys2Proof/Laws/Memory.lean ====
section
/-! SUPPORT. The laws of sparse stores and of byte memory: read after write, the canonical form, and
little-endian words. -/

namespace Sys2Proof.Machine

variable {α : Type} [DecidableEq α]

omit [DecidableEq α] in
theorem Store.get_erase_same {d : α} (m : Store α) (k : Nat) : Store.get d (Store.erase m k) k = d := by
  induction m with
  | nil => rfl
  | cons p r ih =>
    simp only [Store.erase]
    split
    · exact ih
    · rename_i h
      simp only [Store.get]
      rw [if_neg (fun e => h e.symm)]
      exact ih

omit [DecidableEq α] in
theorem Store.get_erase_other {d : α} (m : Store α) {k k' : Nat} (hk : k' ≠ k) :
    Store.get d (Store.erase m k) k' = Store.get d m k' := by
  induction m with
  | nil => rfl
  | cons p r ih =>
    simp only [Store.erase]
    split
    · rename_i h
      simp only [Store.get]
      rw [if_neg (fun e => hk (e.trans h))]
      exact ih
    · simp only [Store.get]
      split <;> simp_all

/-- Reading back what was written. -/
theorem Store.get_set_same {d : α} (m : Store α) (k : Nat) (v : α) : Store.get d (Store.set d m k v) k = v := by
  induction m with
  | nil =>
    by_cases hv : v = d <;> simp [Store.set, Store.get, hv]
  | cons p r ih =>
    obtain ⟨k', v'⟩ := p
    simp only [Store.set]
    split
    · split
      · rename_i hv
        rw [Store.get_erase_same, hv]
      · simp [Store.get]
    · split
      · split
        · rename_i hv
          rw [Store.get_erase_same, hv]
        · simp [Store.get]
      · rename_i h
        simp only [Store.get]
        rw [if_neg h]
        exact ih

/-- A write leaves every other key alone. -/
theorem Store.get_set_other {d : α} {m : Store α} {k k' : Nat} (v : α) (hk : k' ≠ k) :
    Store.get d (Store.set d m k v) k' = Store.get d m k' := by
  induction m with
  | nil =>
    simp only [Store.set]
    split <;> simp [Store.get, hk]
  | cons p r ih =>
    obtain ⟨a, b⟩ := p
    simp only [Store.set]
    split
    · split
      · exact Store.get_erase_other _ hk
      · simp [Store.get, hk]
    · split
      · rename_i heq
        subst heq
        split
        · rw [Store.get_erase_other _ hk]
          simp [Store.get, hk]
        · simp [Store.get, hk]
      · simp only [Store.get]
        split <;> simp_all

theorem Store.wfFrom_mono {d : α} {m : Store α} {lo lo' : Nat} (h : Store.wfFrom d lo m = true) (hl : lo' ≤ lo) :
    Store.wfFrom d lo' m = true := by
  cases m with
  | nil => rfl
  | cons p r =>
    obtain ⟨a, b⟩ := p
    simp only [Store.wfFrom, Bool.and_eq_true, decide_eq_true_eq] at h ⊢
    exact ⟨⟨by omega, h.1.2⟩, h.2⟩

theorem Store.wfFrom_erase {d : α} {m : Store α} {k lo : Nat} (h : Store.wfFrom d lo m = true) :
    Store.wfFrom d lo (Store.erase m k) = true := by
  induction m generalizing lo with
  | nil => rfl
  | cons p r ih =>
    obtain ⟨a, b⟩ := p
    simp only [Store.wfFrom, Bool.and_eq_true, decide_eq_true_eq] at h
    simp only [Store.erase]
    split
    · exact Store.wfFrom_mono (ih h.2) (by omega)
    · simp only [Store.wfFrom, Bool.and_eq_true, decide_eq_true_eq]
      exact ⟨h.1, ih h.2⟩

theorem Store.wfFrom_set {d : α} {m : Store α} {k lo : Nat} (v : α) (hlo : lo ≤ k) (h : Store.wfFrom d lo m = true) :
    Store.wfFrom d lo (Store.set d m k v) = true := by
  induction m generalizing lo with
  | nil =>
    simp only [Store.set]
    split <;> simp_all [Store.wfFrom]
  | cons p r ih =>
    obtain ⟨a, b⟩ := p
    have h' := h
    simp only [Store.wfFrom, Bool.and_eq_true, decide_eq_true_eq] at h
    obtain ⟨⟨h1, h2⟩, h3⟩ := h
    simp only [Store.set]
    split
    · split
      · exact Store.wfFrom_erase h'
      · rename_i hlt hv
        simp [Store.wfFrom, hlo, hv, h2, h3, Nat.succ_le_of_lt hlt]
    · split
      · rename_i hlt heq
        subst heq
        split
        · exact Store.wfFrom_mono (Store.wfFrom_erase h3) (by omega)
        · rename_i hv
          simp [Store.wfFrom, hlo, hv, h3]
      · simp only [Store.wfFrom, Bool.and_eq_true, decide_eq_true_eq]
        exact ⟨⟨h1, h2⟩, ih (by omega) h3⟩

/-- A write keeps the canonical form. -/
theorem Store.wf_set {d : α} {m : Store α} {k : Nat} (v : α) (h : Store.wf d m = true) : Store.wf d (Store.set d m k v) = true :=
  Store.wfFrom_set v (Nat.zero_le _) h

theorem Memory.wf_nil : Memory.wf [] = true := rfl

/-- A byte write keeps the canonical form. -/
theorem Memory.wf_write {m : Memory} {a : Nat} {b : Byte} (h : Memory.wf m = true) : Memory.wf (m.write a b) = true :=
  Store.wf_set b h

/-- A word write keeps the canonical form. -/
theorem Memory.wf_writeWord {m : Memory} {a : Nat} {w : Word} (h : Memory.wf m = true) : Memory.wf (m.writeWord a w) = true :=
  Memory.wf_write (Memory.wf_write (Memory.wf_write (Memory.wf_write h)))

/-- A write of words keeps the canonical form. -/
theorem Memory.wf_writeWords {m : Memory} {a : Nat} {l : List Word} (h : Memory.wf m = true) : Memory.wf (m.writeWords a l) = true := by
  induction l generalizing m a with
  | nil => exact h
  | cons w r ih => exact ih (Memory.wf_writeWord h)

/-- A byte read after a byte write. -/
theorem Memory.read_write (m : Memory) (a x : Nat) (b : Byte) : (m.write a b).read x = if x = a then b else m.read x := by
  split
  · rename_i hx; subst hx; exact Store.get_set_same m x b
  · rename_i hx; exact Store.get_set_other b hx

/-- A byte read outside a written word. -/
theorem Memory.read_writeWord_other {m : Memory} {a x : Nat} {w : Word} (hx : x < a ∨ a + 4 ≤ x) :
    (m.writeWord a w).read x = m.read x := by
  unfold Memory.writeWord Memory.write Memory.read
  rw [Store.get_set_other _ (by omega), Store.get_set_other _ (by omega), Store.get_set_other _ (by omega), Store.get_set_other _ (by omega)]

/-- The bytes of a written word, little-endian (R3). -/
theorem Memory.read_writeWord_at (m : Memory) (a : Nat) (w : Word) :
    (m.writeWord a w).read a = w.extractLsb' 0 8 ∧ (m.writeWord a w).read (a + 1) = w.extractLsb' 8 8 ∧
    (m.writeWord a w).read (a + 2) = w.extractLsb' 16 8 ∧ (m.writeWord a w).read (a + 3) = w.extractLsb' 24 8 := by
  unfold Memory.writeWord
  simp [Memory.read_write]

/-- A word of its four bytes. -/
theorem wordOfBytes_bytes (w : Word) :
    wordOfBytes (w.extractLsb' 0 8) (w.extractLsb' 8 8) (w.extractLsb' 16 8) (w.extractLsb' 24 8) = w := by
  unfold wordOfBytes
  ext i hi
  simp only [BitVec.getElem_append, BitVec.getElem_extractLsb']
  (repeat' split) <;> (rw [← BitVec.getLsbD_eq_getElem]; congr 1; omega)

/-- A word read after a word write to the same address. -/
theorem Memory.readWord_writeWord_same (m : Memory) (a : Nat) (w : Word) : (m.writeWord a w).readWord a = w := by
  obtain ⟨h0, h1, h2, h3⟩ := Memory.read_writeWord_at m a w
  unfold Memory.readWord
  rw [h0, h1, h2, h3]
  exact wordOfBytes_bytes w

/-- A word read apart from a written word. -/
theorem Memory.readWord_writeWord_other {m : Memory} {a x : Nat} {w : Word} (hx : x + 4 ≤ a ∨ a + 4 ≤ x) :
    (m.writeWord a w).readWord x = m.readWord x := by
  unfold Memory.readWord
  rw [Memory.read_writeWord_other (by omega), Memory.read_writeWord_other (by omega), Memory.read_writeWord_other (by omega),
    Memory.read_writeWord_other (by omega)]

end Sys2Proof.Machine
end

