-- ==== Sys2Proof/Laws/State.lean ====
section
/-! SUPPORT. What each named update of the state leaves alone, one lemma per field, and what it does to
the field it changes. -/

namespace Sys2Proof.Machine

@[simp] theorem State.setGroup_cur (s : State) (x : Group) : (s.setGroup x).cur = s.cur := rfl
@[simp] theorem State.setGroup_agenda (s : State) (x : Group) : (s.setGroup x).agenda = s.agenda := rfl
@[simp] theorem State.setGroup_turn (s : State) (x : Group) : (s.setGroup x).turn = s.turn := rfl
@[simp] theorem State.setGroup_free (s : State) (x : Group) : (s.setGroup x).free = s.free := rfl
@[simp] theorem State.setGroup_next (s : State) (x : Group) : (s.setGroup x).next = s.next := rfl
@[simp] theorem State.setGroup_ctxs (s : State) (x : Group) : (s.setGroup x).ctxs = s.ctxs := rfl
@[simp] theorem State.setGroup_grids (s : State) (x : Group) : (s.setGroup x).grids = s.grids := rfl
@[simp] theorem State.setGroup_teams (s : State) (x : Group) : (s.setGroup x).teams = s.teams := rfl
@[simp] theorem State.setGroup_arrs (s : State) (x : Group) : (s.setGroup x).arrs = s.arrs := rfl
@[simp] theorem State.setGroup_pends (s : State) (x : Group) : (s.setGroup x).pends = s.pends := rfl
@[simp] theorem State.setGroup_locks (s : State) (x : Group) : (s.setGroup x).locks = s.locks := rfl
@[simp] theorem State.setGroup_scopes (s : State) (x : Group) : (s.setGroup x).scopes = s.scopes := rfl
@[simp] theorem State.setGroup_mem (s : State) (x : Group) : (s.setGroup x).mem = s.mem := rfl
@[simp] theorem State.setGroup_coh (s : State) (x : Group) : (s.setGroup x).coh = s.coh := rfl
@[simp] theorem State.setGroup_dev (s : State) (x : Group) : (s.setGroup x).dev = s.dev := rfl
@[simp] theorem State.setGroup_dist (s : State) (x : Group) : (s.setGroup x).dist = s.dist := rfl
@[simp] theorem State.setGroup_peer (s : State) (x : Group) : (s.setGroup x).peer = s.peer := rfl

@[simp] theorem State.modGroup_cur (s : State) (k : GKey) (f : Group → Group) : (s.modGroup k f).cur = s.cur := rfl
@[simp] theorem State.modGroup_agenda (s : State) (k : GKey) (f : Group → Group) : (s.modGroup k f).agenda = s.agenda := rfl
@[simp] theorem State.modGroup_turn (s : State) (k : GKey) (f : Group → Group) : (s.modGroup k f).turn = s.turn := rfl
@[simp] theorem State.modGroup_free (s : State) (k : GKey) (f : Group → Group) : (s.modGroup k f).free = s.free := rfl
@[simp] theorem State.modGroup_next (s : State) (k : GKey) (f : Group → Group) : (s.modGroup k f).next = s.next := rfl
@[simp] theorem State.modGroup_ctxs (s : State) (k : GKey) (f : Group → Group) : (s.modGroup k f).ctxs = s.ctxs := rfl
@[simp] theorem State.modGroup_grids (s : State) (k : GKey) (f : Group → Group) : (s.modGroup k f).grids = s.grids := rfl
@[simp] theorem State.modGroup_teams (s : State) (k : GKey) (f : Group → Group) : (s.modGroup k f).teams = s.teams := rfl
@[simp] theorem State.modGroup_arrs (s : State) (k : GKey) (f : Group → Group) : (s.modGroup k f).arrs = s.arrs := rfl
@[simp] theorem State.modGroup_pends (s : State) (k : GKey) (f : Group → Group) : (s.modGroup k f).pends = s.pends := rfl
@[simp] theorem State.modGroup_locks (s : State) (k : GKey) (f : Group → Group) : (s.modGroup k f).locks = s.locks := rfl
@[simp] theorem State.modGroup_scopes (s : State) (k : GKey) (f : Group → Group) : (s.modGroup k f).scopes = s.scopes := rfl
@[simp] theorem State.modGroup_mem (s : State) (k : GKey) (f : Group → Group) : (s.modGroup k f).mem = s.mem := rfl
@[simp] theorem State.modGroup_coh (s : State) (k : GKey) (f : Group → Group) : (s.modGroup k f).coh = s.coh := rfl
@[simp] theorem State.modGroup_dev (s : State) (k : GKey) (f : Group → Group) : (s.modGroup k f).dev = s.dev := rfl
@[simp] theorem State.modGroup_dist (s : State) (k : GKey) (f : Group → Group) : (s.modGroup k f).dist = s.dist := rfl
@[simp] theorem State.modGroup_peer (s : State) (k : GKey) (f : Group → Group) : (s.modGroup k f).peer = s.peer := rfl

@[simp] theorem State.modThread_cur (s : State) (k : GKey) (i : Nat) (f : Thread → Thread) : (s.modThread k i f).cur = s.cur := rfl
@[simp] theorem State.modThread_agenda (s : State) (k : GKey) (i : Nat) (f : Thread → Thread) : (s.modThread k i f).agenda = s.agenda := rfl
@[simp] theorem State.modThread_turn (s : State) (k : GKey) (i : Nat) (f : Thread → Thread) : (s.modThread k i f).turn = s.turn := rfl
@[simp] theorem State.modThread_free (s : State) (k : GKey) (i : Nat) (f : Thread → Thread) : (s.modThread k i f).free = s.free := rfl
@[simp] theorem State.modThread_next (s : State) (k : GKey) (i : Nat) (f : Thread → Thread) : (s.modThread k i f).next = s.next := rfl
@[simp] theorem State.modThread_ctxs (s : State) (k : GKey) (i : Nat) (f : Thread → Thread) : (s.modThread k i f).ctxs = s.ctxs := rfl
@[simp] theorem State.modThread_grids (s : State) (k : GKey) (i : Nat) (f : Thread → Thread) : (s.modThread k i f).grids = s.grids := rfl
@[simp] theorem State.modThread_teams (s : State) (k : GKey) (i : Nat) (f : Thread → Thread) : (s.modThread k i f).teams = s.teams := rfl
@[simp] theorem State.modThread_arrs (s : State) (k : GKey) (i : Nat) (f : Thread → Thread) : (s.modThread k i f).arrs = s.arrs := rfl
@[simp] theorem State.modThread_pends (s : State) (k : GKey) (i : Nat) (f : Thread → Thread) : (s.modThread k i f).pends = s.pends := rfl
@[simp] theorem State.modThread_locks (s : State) (k : GKey) (i : Nat) (f : Thread → Thread) : (s.modThread k i f).locks = s.locks := rfl
@[simp] theorem State.modThread_scopes (s : State) (k : GKey) (i : Nat) (f : Thread → Thread) : (s.modThread k i f).scopes = s.scopes := rfl
@[simp] theorem State.modThread_mem (s : State) (k : GKey) (i : Nat) (f : Thread → Thread) : (s.modThread k i f).mem = s.mem := rfl
@[simp] theorem State.modThread_coh (s : State) (k : GKey) (i : Nat) (f : Thread → Thread) : (s.modThread k i f).coh = s.coh := rfl
@[simp] theorem State.modThread_dev (s : State) (k : GKey) (i : Nat) (f : Thread → Thread) : (s.modThread k i f).dev = s.dev := rfl
@[simp] theorem State.modThread_dist (s : State) (k : GKey) (i : Nat) (f : Thread → Thread) : (s.modThread k i f).dist = s.dist := rfl
@[simp] theorem State.modThread_peer (s : State) (k : GKey) (i : Nat) (f : Thread → Thread) : (s.modThread k i f).peer = s.peer := rfl

@[simp] theorem State.modThreads_cur (s : State) (k : GKey) (l : List Nat) (f : Thread → Thread) : (s.modThreads k l f).cur = s.cur := rfl
@[simp] theorem State.modThreads_agenda (s : State) (k : GKey) (l : List Nat) (f : Thread → Thread) : (s.modThreads k l f).agenda = s.agenda := rfl
@[simp] theorem State.modThreads_turn (s : State) (k : GKey) (l : List Nat) (f : Thread → Thread) : (s.modThreads k l f).turn = s.turn := rfl
@[simp] theorem State.modThreads_free (s : State) (k : GKey) (l : List Nat) (f : Thread → Thread) : (s.modThreads k l f).free = s.free := rfl
@[simp] theorem State.modThreads_next (s : State) (k : GKey) (l : List Nat) (f : Thread → Thread) : (s.modThreads k l f).next = s.next := rfl
@[simp] theorem State.modThreads_ctxs (s : State) (k : GKey) (l : List Nat) (f : Thread → Thread) : (s.modThreads k l f).ctxs = s.ctxs := rfl
@[simp] theorem State.modThreads_grids (s : State) (k : GKey) (l : List Nat) (f : Thread → Thread) : (s.modThreads k l f).grids = s.grids := rfl
@[simp] theorem State.modThreads_teams (s : State) (k : GKey) (l : List Nat) (f : Thread → Thread) : (s.modThreads k l f).teams = s.teams := rfl
@[simp] theorem State.modThreads_arrs (s : State) (k : GKey) (l : List Nat) (f : Thread → Thread) : (s.modThreads k l f).arrs = s.arrs := rfl
@[simp] theorem State.modThreads_pends (s : State) (k : GKey) (l : List Nat) (f : Thread → Thread) : (s.modThreads k l f).pends = s.pends := rfl
@[simp] theorem State.modThreads_locks (s : State) (k : GKey) (l : List Nat) (f : Thread → Thread) : (s.modThreads k l f).locks = s.locks := rfl
@[simp] theorem State.modThreads_scopes (s : State) (k : GKey) (l : List Nat) (f : Thread → Thread) : (s.modThreads k l f).scopes = s.scopes := rfl
@[simp] theorem State.modThreads_mem (s : State) (k : GKey) (l : List Nat) (f : Thread → Thread) : (s.modThreads k l f).mem = s.mem := rfl
@[simp] theorem State.modThreads_coh (s : State) (k : GKey) (l : List Nat) (f : Thread → Thread) : (s.modThreads k l f).coh = s.coh := rfl
@[simp] theorem State.modThreads_dev (s : State) (k : GKey) (l : List Nat) (f : Thread → Thread) : (s.modThreads k l f).dev = s.dev := rfl
@[simp] theorem State.modThreads_dist (s : State) (k : GKey) (l : List Nat) (f : Thread → Thread) : (s.modThreads k l f).dist = s.dist := rfl
@[simp] theorem State.modThreads_peer (s : State) (k : GKey) (l : List Nat) (f : Thread → Thread) : (s.modThreads k l f).peer = s.peer := rfl

@[simp] theorem State.modTeam_cur (s : State) (k : TKey) (f : Team → Team) : (s.modTeam k f).cur = s.cur := rfl
@[simp] theorem State.modTeam_agenda (s : State) (k : TKey) (f : Team → Team) : (s.modTeam k f).agenda = s.agenda := rfl
@[simp] theorem State.modTeam_turn (s : State) (k : TKey) (f : Team → Team) : (s.modTeam k f).turn = s.turn := rfl
@[simp] theorem State.modTeam_free (s : State) (k : TKey) (f : Team → Team) : (s.modTeam k f).free = s.free := rfl
@[simp] theorem State.modTeam_next (s : State) (k : TKey) (f : Team → Team) : (s.modTeam k f).next = s.next := rfl
@[simp] theorem State.modTeam_ctxs (s : State) (k : TKey) (f : Team → Team) : (s.modTeam k f).ctxs = s.ctxs := rfl
@[simp] theorem State.modTeam_grids (s : State) (k : TKey) (f : Team → Team) : (s.modTeam k f).grids = s.grids := rfl
@[simp] theorem State.modTeam_groups (s : State) (k : TKey) (f : Team → Team) : (s.modTeam k f).groups = s.groups := rfl
@[simp] theorem State.modTeam_arrs (s : State) (k : TKey) (f : Team → Team) : (s.modTeam k f).arrs = s.arrs := rfl
@[simp] theorem State.modTeam_pends (s : State) (k : TKey) (f : Team → Team) : (s.modTeam k f).pends = s.pends := rfl
@[simp] theorem State.modTeam_locks (s : State) (k : TKey) (f : Team → Team) : (s.modTeam k f).locks = s.locks := rfl
@[simp] theorem State.modTeam_scopes (s : State) (k : TKey) (f : Team → Team) : (s.modTeam k f).scopes = s.scopes := rfl
@[simp] theorem State.modTeam_mem (s : State) (k : TKey) (f : Team → Team) : (s.modTeam k f).mem = s.mem := rfl
@[simp] theorem State.modTeam_coh (s : State) (k : TKey) (f : Team → Team) : (s.modTeam k f).coh = s.coh := rfl
@[simp] theorem State.modTeam_dev (s : State) (k : TKey) (f : Team → Team) : (s.modTeam k f).dev = s.dev := rfl
@[simp] theorem State.modTeam_dist (s : State) (k : TKey) (f : Team → Team) : (s.modTeam k f).dist = s.dist := rfl
@[simp] theorem State.modTeam_peer (s : State) (k : TKey) (f : Team → Team) : (s.modTeam k f).peer = s.peer := rfl

@[simp] theorem State.modGrid_cur (s : State) (c h : Nat) (f : Grid → Grid) : (s.modGrid c h f).cur = s.cur := rfl
@[simp] theorem State.modGrid_agenda (s : State) (c h : Nat) (f : Grid → Grid) : (s.modGrid c h f).agenda = s.agenda := rfl
@[simp] theorem State.modGrid_turn (s : State) (c h : Nat) (f : Grid → Grid) : (s.modGrid c h f).turn = s.turn := rfl
@[simp] theorem State.modGrid_free (s : State) (c h : Nat) (f : Grid → Grid) : (s.modGrid c h f).free = s.free := rfl
@[simp] theorem State.modGrid_next (s : State) (c h : Nat) (f : Grid → Grid) : (s.modGrid c h f).next = s.next := rfl
@[simp] theorem State.modGrid_ctxs (s : State) (c h : Nat) (f : Grid → Grid) : (s.modGrid c h f).ctxs = s.ctxs := rfl
@[simp] theorem State.modGrid_teams (s : State) (c h : Nat) (f : Grid → Grid) : (s.modGrid c h f).teams = s.teams := rfl
@[simp] theorem State.modGrid_groups (s : State) (c h : Nat) (f : Grid → Grid) : (s.modGrid c h f).groups = s.groups := rfl
@[simp] theorem State.modGrid_arrs (s : State) (c h : Nat) (f : Grid → Grid) : (s.modGrid c h f).arrs = s.arrs := rfl
@[simp] theorem State.modGrid_pends (s : State) (c h : Nat) (f : Grid → Grid) : (s.modGrid c h f).pends = s.pends := rfl
@[simp] theorem State.modGrid_locks (s : State) (c h : Nat) (f : Grid → Grid) : (s.modGrid c h f).locks = s.locks := rfl
@[simp] theorem State.modGrid_scopes (s : State) (c h : Nat) (f : Grid → Grid) : (s.modGrid c h f).scopes = s.scopes := rfl
@[simp] theorem State.modGrid_mem (s : State) (c h : Nat) (f : Grid → Grid) : (s.modGrid c h f).mem = s.mem := rfl
@[simp] theorem State.modGrid_coh (s : State) (c h : Nat) (f : Grid → Grid) : (s.modGrid c h f).coh = s.coh := rfl
@[simp] theorem State.modGrid_dev (s : State) (c h : Nat) (f : Grid → Grid) : (s.modGrid c h f).dev = s.dev := rfl
@[simp] theorem State.modGrid_dist (s : State) (c h : Nat) (f : Grid → Grid) : (s.modGrid c h f).dist = s.dist := rfl
@[simp] theorem State.modGrid_peer (s : State) (c h : Nat) (f : Grid → Grid) : (s.modGrid c h f).peer = s.peer := rfl

@[simp] theorem State.modCtx_cur (s : State) (c : Nat) (f : Ctx → Ctx) : (s.modCtx c f).cur = s.cur := rfl
@[simp] theorem State.modCtx_agenda (s : State) (c : Nat) (f : Ctx → Ctx) : (s.modCtx c f).agenda = s.agenda := rfl
@[simp] theorem State.modCtx_turn (s : State) (c : Nat) (f : Ctx → Ctx) : (s.modCtx c f).turn = s.turn := rfl
@[simp] theorem State.modCtx_free (s : State) (c : Nat) (f : Ctx → Ctx) : (s.modCtx c f).free = s.free := rfl
@[simp] theorem State.modCtx_next (s : State) (c : Nat) (f : Ctx → Ctx) : (s.modCtx c f).next = s.next := rfl
@[simp] theorem State.modCtx_grids (s : State) (c : Nat) (f : Ctx → Ctx) : (s.modCtx c f).grids = s.grids := rfl
@[simp] theorem State.modCtx_teams (s : State) (c : Nat) (f : Ctx → Ctx) : (s.modCtx c f).teams = s.teams := rfl
@[simp] theorem State.modCtx_groups (s : State) (c : Nat) (f : Ctx → Ctx) : (s.modCtx c f).groups = s.groups := rfl
@[simp] theorem State.modCtx_arrs (s : State) (c : Nat) (f : Ctx → Ctx) : (s.modCtx c f).arrs = s.arrs := rfl
@[simp] theorem State.modCtx_pends (s : State) (c : Nat) (f : Ctx → Ctx) : (s.modCtx c f).pends = s.pends := rfl
@[simp] theorem State.modCtx_locks (s : State) (c : Nat) (f : Ctx → Ctx) : (s.modCtx c f).locks = s.locks := rfl
@[simp] theorem State.modCtx_scopes (s : State) (c : Nat) (f : Ctx → Ctx) : (s.modCtx c f).scopes = s.scopes := rfl
@[simp] theorem State.modCtx_mem (s : State) (c : Nat) (f : Ctx → Ctx) : (s.modCtx c f).mem = s.mem := rfl
@[simp] theorem State.modCtx_coh (s : State) (c : Nat) (f : Ctx → Ctx) : (s.modCtx c f).coh = s.coh := rfl
@[simp] theorem State.modCtx_dev (s : State) (c : Nat) (f : Ctx → Ctx) : (s.modCtx c f).dev = s.dev := rfl
@[simp] theorem State.modCtx_dist (s : State) (c : Nat) (f : Ctx → Ctx) : (s.modCtx c f).dist = s.dist := rfl
@[simp] theorem State.modCtx_peer (s : State) (c : Nat) (f : Ctx → Ctx) : (s.modCtx c f).peer = s.peer := rfl

@[simp] theorem State.setArr_cur (s : State) (a : Arr) : (s.setArr a).cur = s.cur := rfl
@[simp] theorem State.setArr_agenda (s : State) (a : Arr) : (s.setArr a).agenda = s.agenda := rfl
@[simp] theorem State.setArr_turn (s : State) (a : Arr) : (s.setArr a).turn = s.turn := rfl
@[simp] theorem State.setArr_free (s : State) (a : Arr) : (s.setArr a).free = s.free := rfl
@[simp] theorem State.setArr_next (s : State) (a : Arr) : (s.setArr a).next = s.next := rfl
@[simp] theorem State.setArr_ctxs (s : State) (a : Arr) : (s.setArr a).ctxs = s.ctxs := rfl
@[simp] theorem State.setArr_grids (s : State) (a : Arr) : (s.setArr a).grids = s.grids := rfl
@[simp] theorem State.setArr_teams (s : State) (a : Arr) : (s.setArr a).teams = s.teams := rfl
@[simp] theorem State.setArr_groups (s : State) (a : Arr) : (s.setArr a).groups = s.groups := rfl
@[simp] theorem State.setArr_pends (s : State) (a : Arr) : (s.setArr a).pends = s.pends := rfl
@[simp] theorem State.setArr_locks (s : State) (a : Arr) : (s.setArr a).locks = s.locks := rfl
@[simp] theorem State.setArr_scopes (s : State) (a : Arr) : (s.setArr a).scopes = s.scopes := rfl
@[simp] theorem State.setArr_mem (s : State) (a : Arr) : (s.setArr a).mem = s.mem := rfl
@[simp] theorem State.setArr_coh (s : State) (a : Arr) : (s.setArr a).coh = s.coh := rfl
@[simp] theorem State.setArr_dev (s : State) (a : Arr) : (s.setArr a).dev = s.dev := rfl
@[simp] theorem State.setArr_dist (s : State) (a : Arr) : (s.setArr a).dist = s.dist := rfl
@[simp] theorem State.setArr_peer (s : State) (a : Arr) : (s.setArr a).peer = s.peer := rfl

@[simp] theorem State.push_cur (s : State) (p : Pend) : (s.push p).cur = s.cur := rfl
@[simp] theorem State.push_agenda (s : State) (p : Pend) : (s.push p).agenda = s.agenda := rfl
@[simp] theorem State.push_turn (s : State) (p : Pend) : (s.push p).turn = s.turn := rfl
@[simp] theorem State.push_free (s : State) (p : Pend) : (s.push p).free = s.free := rfl
@[simp] theorem State.push_ctxs (s : State) (p : Pend) : (s.push p).ctxs = s.ctxs := rfl
@[simp] theorem State.push_grids (s : State) (p : Pend) : (s.push p).grids = s.grids := rfl
@[simp] theorem State.push_teams (s : State) (p : Pend) : (s.push p).teams = s.teams := rfl
@[simp] theorem State.push_groups (s : State) (p : Pend) : (s.push p).groups = s.groups := rfl
@[simp] theorem State.push_arrs (s : State) (p : Pend) : (s.push p).arrs = s.arrs := rfl
@[simp] theorem State.push_locks (s : State) (p : Pend) : (s.push p).locks = s.locks := rfl
@[simp] theorem State.push_scopes (s : State) (p : Pend) : (s.push p).scopes = s.scopes := rfl
@[simp] theorem State.push_mem (s : State) (p : Pend) : (s.push p).mem = s.mem := rfl
@[simp] theorem State.push_coh (s : State) (p : Pend) : (s.push p).coh = s.coh := rfl
@[simp] theorem State.push_dev (s : State) (p : Pend) : (s.push p).dev = s.dev := rfl
@[simp] theorem State.push_dist (s : State) (p : Pend) : (s.push p).dist = s.dist := rfl
@[simp] theorem State.push_peer (s : State) (p : Pend) : (s.push p).peer = s.peer := rfl

@[simp] theorem State.writeTile_cur (s : State) (a : Nat) (w : Word) : (s.writeTile a w).cur = s.cur := rfl
@[simp] theorem State.writeTile_agenda (s : State) (a : Nat) (w : Word) : (s.writeTile a w).agenda = s.agenda := rfl
@[simp] theorem State.writeTile_turn (s : State) (a : Nat) (w : Word) : (s.writeTile a w).turn = s.turn := rfl
@[simp] theorem State.writeTile_free (s : State) (a : Nat) (w : Word) : (s.writeTile a w).free = s.free := rfl
@[simp] theorem State.writeTile_next (s : State) (a : Nat) (w : Word) : (s.writeTile a w).next = s.next := rfl
@[simp] theorem State.writeTile_ctxs (s : State) (a : Nat) (w : Word) : (s.writeTile a w).ctxs = s.ctxs := rfl
@[simp] theorem State.writeTile_grids (s : State) (a : Nat) (w : Word) : (s.writeTile a w).grids = s.grids := rfl
@[simp] theorem State.writeTile_teams (s : State) (a : Nat) (w : Word) : (s.writeTile a w).teams = s.teams := rfl
@[simp] theorem State.writeTile_groups (s : State) (a : Nat) (w : Word) : (s.writeTile a w).groups = s.groups := rfl
@[simp] theorem State.writeTile_arrs (s : State) (a : Nat) (w : Word) : (s.writeTile a w).arrs = s.arrs := rfl
@[simp] theorem State.writeTile_pends (s : State) (a : Nat) (w : Word) : (s.writeTile a w).pends = s.pends := rfl
@[simp] theorem State.writeTile_locks (s : State) (a : Nat) (w : Word) : (s.writeTile a w).locks = s.locks := rfl
@[simp] theorem State.writeTile_scopes (s : State) (a : Nat) (w : Word) : (s.writeTile a w).scopes = s.scopes := rfl
@[simp] theorem State.writeTile_coh (s : State) (a : Nat) (w : Word) : (s.writeTile a w).coh = s.coh := rfl
@[simp] theorem State.writeTile_dev (s : State) (a : Nat) (w : Word) : (s.writeTile a w).dev = s.dev := rfl
@[simp] theorem State.writeTile_dist (s : State) (a : Nat) (w : Word) : (s.writeTile a w).dist = s.dist := rfl
@[simp] theorem State.writeTile_peer (s : State) (a : Nat) (w : Word) : (s.writeTile a w).peer = s.peer := rfl

@[simp] theorem State.discard_cur (s : State) (k : GKey) (l : List Nat) : (s.discard k l).cur = s.cur := rfl
@[simp] theorem State.discard_agenda (s : State) (k : GKey) (l : List Nat) : (s.discard k l).agenda = s.agenda := rfl
@[simp] theorem State.discard_turn (s : State) (k : GKey) (l : List Nat) : (s.discard k l).turn = s.turn := rfl
@[simp] theorem State.discard_free (s : State) (k : GKey) (l : List Nat) : (s.discard k l).free = s.free := rfl
@[simp] theorem State.discard_next (s : State) (k : GKey) (l : List Nat) : (s.discard k l).next = s.next := rfl
@[simp] theorem State.discard_ctxs (s : State) (k : GKey) (l : List Nat) : (s.discard k l).ctxs = s.ctxs := rfl
@[simp] theorem State.discard_grids (s : State) (k : GKey) (l : List Nat) : (s.discard k l).grids = s.grids := rfl
@[simp] theorem State.discard_teams (s : State) (k : GKey) (l : List Nat) : (s.discard k l).teams = s.teams := rfl
@[simp] theorem State.discard_groups (s : State) (k : GKey) (l : List Nat) : (s.discard k l).groups = s.groups := rfl
@[simp] theorem State.discard_locks (s : State) (k : GKey) (l : List Nat) : (s.discard k l).locks = s.locks := rfl
@[simp] theorem State.discard_scopes (s : State) (k : GKey) (l : List Nat) : (s.discard k l).scopes = s.scopes := rfl
@[simp] theorem State.discard_mem (s : State) (k : GKey) (l : List Nat) : (s.discard k l).mem = s.mem := rfl
@[simp] theorem State.discard_coh (s : State) (k : GKey) (l : List Nat) : (s.discard k l).coh = s.coh := rfl
@[simp] theorem State.discard_dev (s : State) (k : GKey) (l : List Nat) : (s.discard k l).dev = s.dev := rfl
@[simp] theorem State.discard_dist (s : State) (k : GKey) (l : List Nat) : (s.discard k l).dist = s.dist := rfl
@[simp] theorem State.discard_peer (s : State) (k : GKey) (l : List Nat) : (s.discard k l).peer = s.peer := rfl

@[simp] theorem State.setQt_cur (s : State) (i : Nat) (q : QtState) : (s.setQt i q).cur = s.cur := rfl
@[simp] theorem State.setQt_agenda (s : State) (i : Nat) (q : QtState) : (s.setQt i q).agenda = s.agenda := rfl
@[simp] theorem State.setQt_turn (s : State) (i : Nat) (q : QtState) : (s.setQt i q).turn = s.turn := rfl
@[simp] theorem State.setQt_free (s : State) (i : Nat) (q : QtState) : (s.setQt i q).free = s.free := rfl
@[simp] theorem State.setQt_next (s : State) (i : Nat) (q : QtState) : (s.setQt i q).next = s.next := rfl
@[simp] theorem State.setQt_ctxs (s : State) (i : Nat) (q : QtState) : (s.setQt i q).ctxs = s.ctxs := rfl
@[simp] theorem State.setQt_grids (s : State) (i : Nat) (q : QtState) : (s.setQt i q).grids = s.grids := rfl
@[simp] theorem State.setQt_teams (s : State) (i : Nat) (q : QtState) : (s.setQt i q).teams = s.teams := rfl
@[simp] theorem State.setQt_groups (s : State) (i : Nat) (q : QtState) : (s.setQt i q).groups = s.groups := rfl
@[simp] theorem State.setQt_arrs (s : State) (i : Nat) (q : QtState) : (s.setQt i q).arrs = s.arrs := rfl
@[simp] theorem State.setQt_pends (s : State) (i : Nat) (q : QtState) : (s.setQt i q).pends = s.pends := rfl
@[simp] theorem State.setQt_locks (s : State) (i : Nat) (q : QtState) : (s.setQt i q).locks = s.locks := rfl
@[simp] theorem State.setQt_scopes (s : State) (i : Nat) (q : QtState) : (s.setQt i q).scopes = s.scopes := rfl
@[simp] theorem State.setQt_mem (s : State) (i : Nat) (q : QtState) : (s.setQt i q).mem = s.mem := rfl
@[simp] theorem State.setQt_coh (s : State) (i : Nat) (q : QtState) : (s.setQt i q).coh = s.coh := rfl
@[simp] theorem State.setQt_dist (s : State) (i : Nat) (q : QtState) : (s.setQt i q).dist = s.dist := rfl
@[simp] theorem State.setQt_peer (s : State) (i : Nat) (q : QtState) : (s.setQt i q).peer = s.peer := rfl

/-! A write at the serialisation point changes memory and the copies only. -/

@[simp] theorem State.poke_cur (s : State) (a : Nat) (w : Word) : (s.poke a w).cur = s.cur := by unfold State.poke; dsimp only; split <;> rfl
@[simp] theorem State.poke_agenda (s : State) (a : Nat) (w : Word) : (s.poke a w).agenda = s.agenda := by unfold State.poke; dsimp only; split <;> rfl
@[simp] theorem State.poke_turn (s : State) (a : Nat) (w : Word) : (s.poke a w).turn = s.turn := by unfold State.poke; dsimp only; split <;> rfl
@[simp] theorem State.poke_free (s : State) (a : Nat) (w : Word) : (s.poke a w).free = s.free := by unfold State.poke; dsimp only; split <;> rfl
@[simp] theorem State.poke_next (s : State) (a : Nat) (w : Word) : (s.poke a w).next = s.next := by unfold State.poke; dsimp only; split <;> rfl
@[simp] theorem State.poke_ctxs (s : State) (a : Nat) (w : Word) : (s.poke a w).ctxs = s.ctxs := by unfold State.poke; dsimp only; split <;> rfl
@[simp] theorem State.poke_grids (s : State) (a : Nat) (w : Word) : (s.poke a w).grids = s.grids := by unfold State.poke; dsimp only; split <;> rfl
@[simp] theorem State.poke_teams (s : State) (a : Nat) (w : Word) : (s.poke a w).teams = s.teams := by unfold State.poke; dsimp only; split <;> rfl
@[simp] theorem State.poke_groups (s : State) (a : Nat) (w : Word) : (s.poke a w).groups = s.groups := by unfold State.poke; dsimp only; split <;> rfl
@[simp] theorem State.poke_arrs (s : State) (a : Nat) (w : Word) : (s.poke a w).arrs = s.arrs := by unfold State.poke; dsimp only; split <;> rfl
@[simp] theorem State.poke_pends (s : State) (a : Nat) (w : Word) : (s.poke a w).pends = s.pends := by unfold State.poke; dsimp only; split <;> rfl
@[simp] theorem State.poke_locks (s : State) (a : Nat) (w : Word) : (s.poke a w).locks = s.locks := by unfold State.poke; dsimp only; split <;> rfl
@[simp] theorem State.poke_scopes (s : State) (a : Nat) (w : Word) : (s.poke a w).scopes = s.scopes := by unfold State.poke; dsimp only; split <;> rfl
@[simp] theorem State.poke_dev (s : State) (a : Nat) (w : Word) : (s.poke a w).dev = s.dev := by unfold State.poke; dsimp only; split <;> rfl
@[simp] theorem State.poke_dist (s : State) (a : Nat) (w : Word) : (s.poke a w).dist = s.dist := by unfold State.poke; dsimp only; split <;> rfl
@[simp] theorem State.poke_peer (s : State) (a : Nat) (w : Word) : (s.poke a w).peer = s.peer := by unfold State.poke; dsimp only; split <;> rfl

@[simp] theorem State.pokes_cur (s : State) (a : Nat) (l : List Word) : (s.pokes a l).cur = s.cur := by
  induction l generalizing s a with
  | nil => rfl
  | cons w r ih => exact (ih (s.poke a w) (a + 4)).trans (State.poke_cur s a w)
@[simp] theorem State.pokes_agenda (s : State) (a : Nat) (l : List Word) : (s.pokes a l).agenda = s.agenda := by
  induction l generalizing s a with
  | nil => rfl
  | cons w r ih => exact (ih (s.poke a w) (a + 4)).trans (State.poke_agenda s a w)
@[simp] theorem State.pokes_turn (s : State) (a : Nat) (l : List Word) : (s.pokes a l).turn = s.turn := by
  induction l generalizing s a with
  | nil => rfl
  | cons w r ih => exact (ih (s.poke a w) (a + 4)).trans (State.poke_turn s a w)
@[simp] theorem State.pokes_free (s : State) (a : Nat) (l : List Word) : (s.pokes a l).free = s.free := by
  induction l generalizing s a with
  | nil => rfl
  | cons w r ih => exact (ih (s.poke a w) (a + 4)).trans (State.poke_free s a w)
@[simp] theorem State.pokes_next (s : State) (a : Nat) (l : List Word) : (s.pokes a l).next = s.next := by
  induction l generalizing s a with
  | nil => rfl
  | cons w r ih => exact (ih (s.poke a w) (a + 4)).trans (State.poke_next s a w)
@[simp] theorem State.pokes_ctxs (s : State) (a : Nat) (l : List Word) : (s.pokes a l).ctxs = s.ctxs := by
  induction l generalizing s a with
  | nil => rfl
  | cons w r ih => exact (ih (s.poke a w) (a + 4)).trans (State.poke_ctxs s a w)
@[simp] theorem State.pokes_grids (s : State) (a : Nat) (l : List Word) : (s.pokes a l).grids = s.grids := by
  induction l generalizing s a with
  | nil => rfl
  | cons w r ih => exact (ih (s.poke a w) (a + 4)).trans (State.poke_grids s a w)
@[simp] theorem State.pokes_teams (s : State) (a : Nat) (l : List Word) : (s.pokes a l).teams = s.teams := by
  induction l generalizing s a with
  | nil => rfl
  | cons w r ih => exact (ih (s.poke a w) (a + 4)).trans (State.poke_teams s a w)
@[simp] theorem State.pokes_groups (s : State) (a : Nat) (l : List Word) : (s.pokes a l).groups = s.groups := by
  induction l generalizing s a with
  | nil => rfl
  | cons w r ih => exact (ih (s.poke a w) (a + 4)).trans (State.poke_groups s a w)
@[simp] theorem State.pokes_arrs (s : State) (a : Nat) (l : List Word) : (s.pokes a l).arrs = s.arrs := by
  induction l generalizing s a with
  | nil => rfl
  | cons w r ih => exact (ih (s.poke a w) (a + 4)).trans (State.poke_arrs s a w)
@[simp] theorem State.pokes_pends (s : State) (a : Nat) (l : List Word) : (s.pokes a l).pends = s.pends := by
  induction l generalizing s a with
  | nil => rfl
  | cons w r ih => exact (ih (s.poke a w) (a + 4)).trans (State.poke_pends s a w)
@[simp] theorem State.pokes_locks (s : State) (a : Nat) (l : List Word) : (s.pokes a l).locks = s.locks := by
  induction l generalizing s a with
  | nil => rfl
  | cons w r ih => exact (ih (s.poke a w) (a + 4)).trans (State.poke_locks s a w)
@[simp] theorem State.pokes_scopes (s : State) (a : Nat) (l : List Word) : (s.pokes a l).scopes = s.scopes := by
  induction l generalizing s a with
  | nil => rfl
  | cons w r ih => exact (ih (s.poke a w) (a + 4)).trans (State.poke_scopes s a w)
@[simp] theorem State.pokes_dev (s : State) (a : Nat) (l : List Word) : (s.pokes a l).dev = s.dev := by
  induction l generalizing s a with
  | nil => rfl
  | cons w r ih => exact (ih (s.poke a w) (a + 4)).trans (State.poke_dev s a w)
@[simp] theorem State.pokes_dist (s : State) (a : Nat) (l : List Word) : (s.pokes a l).dist = s.dist := by
  induction l generalizing s a with
  | nil => rfl
  | cons w r ih => exact (ih (s.poke a w) (a + 4)).trans (State.poke_dist s a w)
@[simp] theorem State.pokes_peer (s : State) (a : Nat) (l : List Word) : (s.pokes a l).peer = s.peer := by
  induction l generalizing s a with
  | nil => rfl
  | cons w r ih => exact (ih (s.poke a w) (a + 4)).trans (State.poke_peer s a w)

@[simp] theorem State.setPoison_cur (s : State) (l : List Nat) : (s.setPoison l).cur = s.cur := rfl
@[simp] theorem State.setPoison_agenda (s : State) (l : List Nat) : (s.setPoison l).agenda = s.agenda := rfl
@[simp] theorem State.setPoison_turn (s : State) (l : List Nat) : (s.setPoison l).turn = s.turn := rfl
@[simp] theorem State.setPoison_free (s : State) (l : List Nat) : (s.setPoison l).free = s.free := rfl
@[simp] theorem State.setPoison_next (s : State) (l : List Nat) : (s.setPoison l).next = s.next := rfl
@[simp] theorem State.setPoison_ctxs (s : State) (l : List Nat) : (s.setPoison l).ctxs = s.ctxs := rfl
@[simp] theorem State.setPoison_grids (s : State) (l : List Nat) : (s.setPoison l).grids = s.grids := rfl
@[simp] theorem State.setPoison_teams (s : State) (l : List Nat) : (s.setPoison l).teams = s.teams := rfl
@[simp] theorem State.setPoison_groups (s : State) (l : List Nat) : (s.setPoison l).groups = s.groups := rfl
@[simp] theorem State.setPoison_arrs (s : State) (l : List Nat) : (s.setPoison l).arrs = s.arrs := rfl
@[simp] theorem State.setPoison_pends (s : State) (l : List Nat) : (s.setPoison l).pends = s.pends := rfl
@[simp] theorem State.setPoison_locks (s : State) (l : List Nat) : (s.setPoison l).locks = s.locks := rfl
@[simp] theorem State.setPoison_scopes (s : State) (l : List Nat) : (s.setPoison l).scopes = s.scopes := rfl
@[simp] theorem State.setPoison_coh (s : State) (l : List Nat) : (s.setPoison l).coh = s.coh := rfl
@[simp] theorem State.setPoison_dev (s : State) (l : List Nat) : (s.setPoison l).dev = s.dev := rfl
@[simp] theorem State.setPoison_dist (s : State) (l : List Nat) : (s.setPoison l).dist = s.dist := rfl
@[simp] theorem State.setPoison_peer (s : State) (l : List Nat) : (s.setPoison l).peer = s.peer := rfl

@[simp] theorem State.clearPoison_cur (s : State) (l : List Nat) : (s.clearPoison l).cur = s.cur := rfl
@[simp] theorem State.clearPoison_agenda (s : State) (l : List Nat) : (s.clearPoison l).agenda = s.agenda := rfl
@[simp] theorem State.clearPoison_turn (s : State) (l : List Nat) : (s.clearPoison l).turn = s.turn := rfl
@[simp] theorem State.clearPoison_free (s : State) (l : List Nat) : (s.clearPoison l).free = s.free := rfl
@[simp] theorem State.clearPoison_next (s : State) (l : List Nat) : (s.clearPoison l).next = s.next := rfl
@[simp] theorem State.clearPoison_ctxs (s : State) (l : List Nat) : (s.clearPoison l).ctxs = s.ctxs := rfl
@[simp] theorem State.clearPoison_grids (s : State) (l : List Nat) : (s.clearPoison l).grids = s.grids := rfl
@[simp] theorem State.clearPoison_teams (s : State) (l : List Nat) : (s.clearPoison l).teams = s.teams := rfl
@[simp] theorem State.clearPoison_groups (s : State) (l : List Nat) : (s.clearPoison l).groups = s.groups := rfl
@[simp] theorem State.clearPoison_arrs (s : State) (l : List Nat) : (s.clearPoison l).arrs = s.arrs := rfl
@[simp] theorem State.clearPoison_pends (s : State) (l : List Nat) : (s.clearPoison l).pends = s.pends := rfl
@[simp] theorem State.clearPoison_locks (s : State) (l : List Nat) : (s.clearPoison l).locks = s.locks := rfl
@[simp] theorem State.clearPoison_scopes (s : State) (l : List Nat) : (s.clearPoison l).scopes = s.scopes := rfl
@[simp] theorem State.clearPoison_coh (s : State) (l : List Nat) : (s.clearPoison l).coh = s.coh := rfl
@[simp] theorem State.clearPoison_dev (s : State) (l : List Nat) : (s.clearPoison l).dev = s.dev := rfl
@[simp] theorem State.clearPoison_dist (s : State) (l : List Nat) : (s.clearPoison l).dist = s.dist := rfl
@[simp] theorem State.clearPoison_peer (s : State) (l : List Nat) : (s.clearPoison l).peer = s.peer := rfl

@[simp] theorem State.setEntry_cur (s : State) (e : DirEnt) : (s.setEntry e).cur = s.cur := rfl
@[simp] theorem State.setEntry_agenda (s : State) (e : DirEnt) : (s.setEntry e).agenda = s.agenda := rfl
@[simp] theorem State.setEntry_turn (s : State) (e : DirEnt) : (s.setEntry e).turn = s.turn := rfl
@[simp] theorem State.setEntry_free (s : State) (e : DirEnt) : (s.setEntry e).free = s.free := rfl
@[simp] theorem State.setEntry_next (s : State) (e : DirEnt) : (s.setEntry e).next = s.next := rfl
@[simp] theorem State.setEntry_ctxs (s : State) (e : DirEnt) : (s.setEntry e).ctxs = s.ctxs := rfl
@[simp] theorem State.setEntry_grids (s : State) (e : DirEnt) : (s.setEntry e).grids = s.grids := rfl
@[simp] theorem State.setEntry_teams (s : State) (e : DirEnt) : (s.setEntry e).teams = s.teams := rfl
@[simp] theorem State.setEntry_groups (s : State) (e : DirEnt) : (s.setEntry e).groups = s.groups := rfl
@[simp] theorem State.setEntry_arrs (s : State) (e : DirEnt) : (s.setEntry e).arrs = s.arrs := rfl
@[simp] theorem State.setEntry_pends (s : State) (e : DirEnt) : (s.setEntry e).pends = s.pends := rfl
@[simp] theorem State.setEntry_locks (s : State) (e : DirEnt) : (s.setEntry e).locks = s.locks := rfl
@[simp] theorem State.setEntry_scopes (s : State) (e : DirEnt) : (s.setEntry e).scopes = s.scopes := rfl
@[simp] theorem State.setEntry_mem (s : State) (e : DirEnt) : (s.setEntry e).mem = s.mem := rfl
@[simp] theorem State.setEntry_dev (s : State) (e : DirEnt) : (s.setEntry e).dev = s.dev := rfl
@[simp] theorem State.setEntry_dist (s : State) (e : DirEnt) : (s.setEntry e).dist = s.dist := rfl
@[simp] theorem State.setEntry_peer (s : State) (e : DirEnt) : (s.setEntry e).peer = s.peer := rfl

/-! The field that an update changes. -/

@[simp] theorem State.modGroup_groups (s : State) (k : GKey) (f : Group → Group) :
    (s.modGroup k f).groups = s.groups.map (fun x => if x.key = k then f x else x) := rfl
@[simp] theorem State.modTeam_teams (s : State) (k : TKey) (f : Team → Team) :
    (s.modTeam k f).teams = s.teams.map (fun x => if x.key = k then f x else x) := rfl
@[simp] theorem State.push_pends (s : State) (p : Pend) : (s.push p).pends = s.pends ++ [p] := rfl
@[simp] theorem State.push_next (s : State) (p : Pend) : (s.push p).next = s.next + 1 := rfl

/-! Finding what an update has changed. -/

theorem find?_map_of {α : Type} (p : α → Bool) (f : α → α) (hf : ∀ x, p (f x) = p x) (l : List α) :
    (l.map f).find? p = (l.find? p).map f := by
  induction l with
  | nil => rfl
  | cons a r ih => cases h : p a <;> simp [List.find?, hf, h, ih]

/-- A group after a change of it that keeps its key. -/
theorem State.group?_modGroup_same (s : State) (k : GKey) (f : Group → Group) (hf : ∀ g, (f g).key = g.key) :
    (s.modGroup k f).group? k = (s.group? k).map f := by
  unfold State.group?
  rw [State.modGroup_groups, find?_map_of]
  · cases h : s.groups.find? (fun g => decide (g.key = k)) with
    | none => rfl
    | some g =>
      have := List.find?_some h
      simp_all
  · intro x; split <;> simp_all

/-- A group after a change of another. -/
theorem State.group?_modGroup_other (s : State) (k k' : GKey) (f : Group → Group) (hf : ∀ g, (f g).key = g.key) (hk : k' ≠ k) :
    (s.modGroup k f).group? k' = s.group? k' := by
  unfold State.group?
  rw [State.modGroup_groups, find?_map_of]
  · cases h : s.groups.find? (fun g => decide (g.key = k')) with
    | none => rfl
    | some g =>
      have h1 : g.key = k' := by simpa using List.find?_some h
      have h2 : ¬ g.key = k := by rw [h1]; exact hk
      simp [h2]
  · intro x; split <;> simp_all

/-- A thread after a change of the threads of its group that keeps their numbers. -/
theorem Group.thread?_map (g : Group) (i : Nat) (f : Thread → Thread) (hf : ∀ t, (f t).tid = t.tid) :
    Group.thread? { g with threads := g.threads.map f } i = (g.thread? i).map f := by
  unfold Group.thread?
  exact find?_map_of _ f (fun x => by simp [hf]) _

theorem Group.thread?_tid {g : Group} {i : Nat} {t : Thread} (h : g.thread? i = some t) : t.tid = i := by
  simpa using List.find?_some h

theorem State.group?_key {s : State} {k : GKey} {g : Group} (h : s.group? k = some g) : g.key = k := by
  simpa using List.find?_some h

end Sys2Proof.Machine
end

