-- ==== Sys2Proof/Laws/Ops.lean ====
section
/-! SUPPORT. What the shared operations of issue can do: an instruction that passes its encoding checks
issues; lanes that all succeed change their own threads and nothing else. -/

namespace Sys2Proof.Machine

@[simp] theorem settle_nil (s : State) : State.settle (s, []) = s := rfl

/-- The group of a chosen issue group. -/
theorem Chosen.group {i : Instr} {s : State} {g : Group} {ts : List Thread} (h : Chosen i s g ts) : s.group? g.key = some g := by
  obtain ⟨c, _, h2, _⟩ := h.ready
  rw [State.group?_key h2]; exact h2

/-- A participant is the thread that its group shows under its number. -/
theorem Issue.thread?_of_mem {c : Issue} {g : Group} {t : Thread} {ts : List Thread} (h : c.threads g = ts) (ht : t ∈ ts) :
    ∃ u, g.thread? t.tid = some u ∧ u ∈ ts := by
  subst h
  simp only [Issue.threads, List.mem_filter, decide_eq_true_eq] at ht
  obtain ⟨u, hu⟩ := Option.isSome_iff_exists.1 (List.find?_isSome (p := fun x : Thread => decide (x.tid = t.tid)).2 ⟨t, ht.1, by simp⟩)
  refine ⟨u, hu, ?_⟩
  have h1 : u.tid = t.tid := by simpa using List.find?_some hu
  simp only [Issue.threads, List.mem_filter, decide_eq_true_eq]
  exact ⟨List.mem_of_find?_eq_some hu, by rw [h1]; exact ht.2⟩

/-- An instruction that passes its encoding checks issues. -/
theorem issue_of_chosen {i : Instr} {s : State} {g : Group} {ts : List Thread} (h : Chosen i s g ts)
    (f : Group → List Thread → State → State × List Due) :
    issue i s f = .next (State.settle (f g ts { s with cur := none })) := by
  obtain ⟨⟨c, h1, h2, h3⟩, t, r, h4, h5, _⟩ := h
  unfold issue
  simp only [h1]
  have h2' : State.group? { s with cur := none } c.key = some g := h2
  rw [h2']
  simp only [h3, h4, h5]

/-- `issue` answers a next state whenever an issue group is chosen, and a fault otherwise. -/
theorem issue_next_iff (i : Instr) (s : State) (f : Group → List Thread → State → State × List Due) :
    (∃ t, issue i s f = .next t) ↔ s.cur.isSome = true := by
  unfold issue
  cases s.cur with
  | none => simp
  | some c =>
    simp only [Option.isSome_some, iff_true]
    (repeat' split) <;> exact ⟨_, rfl⟩

/-- The first thread of a number stands first among the participants too. -/
theorem Issue.threads_find {c : Issue} {g : Group} {tid : Nat} {t : Thread} (h : g.thread? tid = some t) (hc : tid ∈ c.tids) :
    (c.threads g).find? (fun u => decide (u.tid = tid)) = some t := by
  unfold Issue.threads
  unfold Group.thread? at h
  rw [List.find?_filter]
  rw [← h]
  congr 1
  funext u
  by_cases hu : u.tid = tid
  · simp [hu, hc]
  · simp [hu]

/-- A participant's number is one of the issue group's. -/
theorem Chosen.find {i : Instr} {s : State} {g : Group} {ts : List Thread} (h : Chosen i s g ts) {t : Thread} (ht : t ∈ ts)
    (hg : g.thread? t.tid = some t) : ts.find? (fun u => decide (u.tid = t.tid)) = some t := by
  obtain ⟨⟨c, _, _, h3⟩, _⟩ := h
  subst h3
  refine Issue.threads_find hg ?_
  simp only [Issue.threads, List.mem_filter, decide_eq_true_eq] at ht
  exact ht.2

/-- What the outcomes of lanes are, lane by lane. -/
theorem laneOuts_find {g : Group} {ts : List Thread} {op : View → Except Trap LaneOut} {t : Thread}
    (h : ts.find? (fun u => decide (u.tid = t.tid)) = some t) :
    (laneOuts g ts op).find? (fun o => decide (o.1 = t.tid)) = some (t.tid, op ⟨g, t⟩) := by
  induction ts with
  | nil => simp at h
  | cons u r ih =>
    simp only [List.find?] at h
    simp only [laneOuts, List.map_cons, List.find?]
    by_cases hu : u.tid = t.tid
    · simp only [hu, decide_true, Option.some.injEq] at h ⊢
      rw [h]
    · simp only [hu, decide_false] at h ⊢
      exact ih h

theorem laneOuts_none {g : Group} {ts : List Thread} {op : View → Except Trap LaneOut} {tid : Nat} (h : tid ∉ ts.map Thread.tid) :
    (laneOuts g ts op).find? (fun o => decide (o.1 = tid)) = none := by
  simp only [List.find?_eq_none, laneOuts, List.mem_map, decide_eq_true_eq]
  rintro o ⟨u, hu, rfl⟩ rfl
  exact h (List.mem_map.2 ⟨u, hu, rfl⟩)

theorem laneTraps_nil {k : GKey} {g : Group} {ts : List Thread} {op : View → Except Trap LaneOut}
    (h : ∀ t ∈ ts, ∃ o, op ⟨g, t⟩ = .ok o) : laneTraps k (laneOuts g ts op) = [] := by
  simp only [laneTraps, laneOuts, List.filterMap_eq_nil_iff, List.mem_map]
  rintro o ⟨t, ht, rfl⟩
  obtain ⟨o, ho⟩ := h t ht
  simp [ho]

@[simp] theorem Thread.setReg_tid (t : Thread) (n : Nat) (r : Reg) : (t.setReg n r).tid = t.tid := rfl

@[simp] theorem Thread.result_tid (t : Thread) (d : Sel) (r : Reg) : (t.result d r).tid = t.tid := by
  unfold Thread.result; split
  · rfl
  · split <;> rfl

@[simp] theorem Thread.raise_tid (t : Thread) (f : Fl) : (t.raise f).tid = t.tid := by
  unfold Thread.raise; split <;> rfl

@[simp] theorem Thread.advance_tid (t : Thread) : t.advance.tid = t.tid := rfl

@[simp] theorem Thread.apply_tid (t : Thread) (o : LaneOut) : (t.apply o).tid = t.tid := by
  unfold Thread.apply
  cases o.d <;> cases o.pc <;> simp [Thread.goto, Thread.advance]

@[simp] theorem Thread.applyOut_tid (outs : List (Nat × Except Trap LaneOut)) (t : Thread) : (t.applyOut outs).tid = t.tid := by
  unfold Thread.applyOut; split <;> simp

/-- The state after a change of the threads of one group, and no issue group chosen. -/
theorem onlyThreads_modGroup {s : State} {g : Group} {ts : List Thread} (f : Thread → Thread) (hg : s.group? g.key = some g)
    (hf : ∀ t, (f t).tid = t.tid) (hother : ∀ t, t.tid ∉ ts.map Thread.tid → f t = t) :
    OnlyThreads g ts s (State.modGroup { s with cur := none } g.key (fun g => { g with threads := g.threads.map f })) := by
  refine ⟨rfl, ?_, ?_, ?_⟩
  · intro k hk
    rw [State.group?_modGroup_other _ _ _ _ (by intro x; rfl) hk]; rfl
  · refine ⟨g.threads.map f, ?_⟩
    rw [State.group?_modGroup_same _ _ _ (by intro x; rfl)]
    rw [show State.group? { s with cur := none } g.key = some g from hg]; rfl
  · intro tid htid
    unfold State.thread?
    rw [State.group?_modGroup_same _ _ _ (by intro x; rfl)]
    rw [show State.group? { s with cur := none } g.key = some g from hg, hg]
    simp only [Option.map_some]
    rw [Group.thread?_map _ _ _ hf]
    cases ht : g.thread? tid with
    | none => rfl
    | some t =>
      have := Group.thread?_tid ht
      simp only [Option.map_some, Option.some.injEq]
      exact hother t (by rw [this]; exact htid)

/-- A thread after a change of the threads of its group. -/
theorem thread?_modGroup {s : State} {g : Group} (f : Thread → Thread) (hg : s.group? g.key = some g)
    (hf : ∀ t, (f t).tid = t.tid) {tid : Nat} :
    State.thread? (State.modGroup { s with cur := none } g.key (fun g => { g with threads := g.threads.map f })) g.key tid =
      (g.thread? tid).map f := by
  unfold State.thread?
  rw [State.group?_modGroup_same _ _ _ (by intro x; rfl)]
  rw [show State.group? { s with cur := none } g.key = some g from hg]
  simp only [Option.map_some]
  exact Group.thread?_map _ _ _ hf

/-- An instruction whose lanes all succeed: each participant gets its lane's outcome, and nothing else
changes. -/
theorem lanewise_of_ok {i : Instr} {s : State} {g : Group} {ts : List Thread} (h : Chosen i s g ts)
    {op : List View → View → Except Trap LaneOut} (hop : ∀ t ∈ ts, ∃ o, op (viewsOf g ts) ⟨g, t⟩ = .ok o) :
    ∃ s', lanewise i s op = .next s' ∧ OnlyThreads g ts s s' ∧
      ∀ t ∈ ts, g.thread? t.tid = some t → ∀ o, op (viewsOf g ts) ⟨g, t⟩ = .ok o → s'.thread? g.key t.tid = some (t.apply o) := by
  have hg := h.group
  unfold lanewise
  rw [issue_of_chosen h]
  simp only [show ts.map (View.mk g) = viewsOf g ts from rfl]
  rw [laneTraps_nil hop, settle_nil]
  refine ⟨_, rfl, onlyThreads_modGroup _ hg (fun t => by simp) ?_, ?_⟩
  · intro t ht
    unfold Thread.applyOut
    rw [laneOuts_none ht]
  · intro t ht htt o ho
    rw [thread?_modGroup _ hg (fun t => by simp), htt]
    simp only [Option.map_some, Option.some.injEq]
    unfold Thread.applyOut
    rw [laneOuts_find (h.find ht htt), ho]

/-- A change of every participant, the same for each. -/
theorem issue_modThreads {i : Instr} {s : State} {g : Group} {ts : List Thread} (h : Chosen i s g ts) (f : Thread → Thread)
    (hf : ∀ t, (f t).tid = t.tid) :
    ∃ s', issue i s (fun g ts s => (s.modThreads g.key (ts.map Thread.tid) f, [])) = .next s' ∧ OnlyThreads g ts s s' ∧
      ∀ t ∈ ts, g.thread? t.tid = some t → s'.thread? g.key t.tid = some (f t) := by
  have hg := h.group
  have hf' : ∀ t : Thread, (if t.tid ∈ ts.map Thread.tid then f t else t).tid = t.tid := by intro t; split <;> simp [hf]
  rw [issue_of_chosen h, settle_nil]
  refine ⟨_, rfl, onlyThreads_modGroup _ hg hf' (fun t ht => if_neg ht), ?_⟩
  intro t ht htt
  unfold State.modThreads
  rw [thread?_modGroup _ hg hf', htt]
  simp only [Option.map_some, Option.some.injEq]
  exact if_pos (List.mem_map.2 ⟨t, ht, rfl⟩)

end Sys2Proof.Machine
end

