-- ==== Sys2Proof/Laws/Lanes.lean ====
section
/-! SUPPORT. What a result does to a thread, when the value sources pass R19, and the frame of an
instruction of lanes. -/

namespace Sys2Proof.Machine

theorem Thread.reg_setReg (t : Thread) (n m : Nat) (r : Reg) : (t.setReg n r).reg m = if m = n then r else t.reg m := by
  change Store.get Reg.void (Store.set Reg.void t.regs n r) m = _
  by_cases h : m = n
  · subst h; rw [if_pos rfl]; exact Store.get_set_same _ _ _
  · rw [if_neg h]; exact Store.get_set_other _ h

/-- A result with its flags changes a thread as R14, R29 and R65 say. -/
theorem wrote_apply (t : Thread) (d : Sel) (r : Reg) (fl : Fl) : Wrote t (t.apply (LaneOut.res d r.val r.tag fl)) d r fl := by
  have hz : (0 : Fl).setWidth 64 = (0 : DWord) := by decide
  have hfl : ∀ u : Thread, (u.raise fl).flags = u.flags ||| fl.setWidth 64 := by
    intro u; unfold Thread.raise; split
    · rename_i h; rw [h, hz]; simp
    · rfl
  have hregs : ∀ u : Thread, (u.raise fl).regs = u.regs := by intro u; unfold Thread.raise; split <;> rfl
  have hpc : ∀ u : Thread, (u.raise fl).pc = u.pc := by intro u; unfold Thread.raise; split <;> rfl
  have hres : ∀ n, (t.apply (LaneOut.res d r.val r.tag fl)).reg n = (t.result d r).reg n := by
    intro n
    simp only [Thread.apply, LaneOut.res, Thread.advance, Thread.reg, hregs]
  have hreg : ∀ n, (t.result d r).reg n =
      if d.toNat < 0xF8 then (if n = 0xF8 then r else if n = d.toNat then r else t.reg n)
      else if d.toNat = 0xF8 then (if n = 0xF8 then r else t.reg n) else t.reg n := by
    intro n
    unfold Thread.result
    split
    · rw [show ({ (t.setReg d.toNat r).setReg 0xF8 r with latOwner := none } : Thread).reg n = ((t.setReg d.toNat r).setReg 0xF8 r).reg n from rfl,
        Thread.reg_setReg, Thread.reg_setReg]
    · split
      · rw [show ({ t.setReg 0xF8 r with latOwner := none } : Thread).reg n = (t.setReg 0xF8 r).reg n from rfl, Thread.reg_setReg]
      · rfl
  refine ⟨?_, ?_, ?_, ?_, ?_, ?_, ?_, ?_⟩
  · intro h; rw [hres, hreg, if_pos h, if_neg (by omega), if_pos rfl]
  · intro h
    rw [hres, hreg]
    by_cases h' : d.toNat < 0xF8
    · rw [if_pos h', if_pos rfl]
    · rw [if_neg h', if_pos (by omega), if_pos rfl]
  · intro n h1 h2
    rw [hres, hreg]
    simp [h1, h2]
  · intro h n
    rw [hres, hreg, if_neg (by omega), if_neg (by omega)]
  · simp only [Thread.apply, LaneOut.res, Thread.advance, hfl]
    unfold Thread.result; split
    · rfl
    · split <;> rfl
  · simp only [Thread.apply, LaneOut.res, Thread.advance, hpc]
    unfold Thread.result; split
    · rfl
    · split <;> rfl
  · simp only [Thread.apply, LaneOut.res, Thread.advance]
  · simp only [Thread.apply, LaneOut.res, Thread.advance]
    unfold Thread.raise Thread.result Thread.setReg
    split <;> (try split) <;> (try split) <;> rfl

/-- Value sources that carry one accepted tag pass R19. -/
theorem values_of_carries {v : View} {sl : Slots} {srcs : List Sel} {T : Tag} {accept : Tag → Bool} (hl : sl.list = srcs)
    (hne : srcs ≠ []) (hc : Carries v srcs T) (ha : accept T = true) (hv : T ≠ .void) : v.values sl accept = .ok T := by
  subst hl
  obtain ⟨h1, h2⟩ := hc
  have hcom : v.common sl.list = T := by
    unfold View.common
    cases hf : (sl.list.filter (· != 0xF9)).map v.tag with
    | nil =>
      refine (h2 ?_).symm
      intro x hx
      simp only [List.map_eq_nil_iff, List.filter_eq_nil_iff] at hf
      simpa using hf x hx
    | cons t r =>
      have hall : ∀ y ∈ t :: r, y = T := by
        intro y hy
        rw [← hf] at hy
        simp only [List.mem_map, List.mem_filter] at hy
        obtain ⟨x, ⟨hx, hx'⟩, rfl⟩ := hy
        exact h1 x hx (by simpa using hx')
      have ht := hall t (by simp)
      subst ht
      simp only
      rw [if_pos]
      simp only [List.all_eq_true, beq_iff_eq]
      intro y hy
      exact hall y (by simp [hy])
  have htag : ∀ x ∈ sl.list, v.vtag sl.list x = T := by
    intro x hx
    unfold View.vtag
    split
    · exact hcom
    · rename_i h; exact h1 x hx h
  have hmap : sl.list.map (v.vtag sl.list) = sl.list.map (fun _ => T) := List.map_congr_left htag
  unfold View.values
  simp only
  rw [hmap]
  cases hs : sl.list with
  | nil => exact absurd hs hne
  | cons x r =>
    simp only [List.map_cons, List.headD_cons, List.all_cons, beq_self_eq_true, Bool.true_and]
    rw [if_pos]
    simp [ha, hv]

/-- An instruction all of whose lanes give a result. -/
theorem gives_of_lane {i : Instr} {s : State} {g : Group} {ts : List Thread} {op : List View → View → Except Trap LaneOut}
    {d : Sel} {r : View → Reg} {fl : View → Fl} (he : exec i s = lanewise i s op) (h : Chosen i s g ts)
    (hok : ∀ t ∈ ts, op (viewsOf g ts) ⟨g, t⟩ = .ok (LaneOut.res d (r ⟨g, t⟩).val (r ⟨g, t⟩).tag (fl ⟨g, t⟩))) : Gives i s g ts d r fl := by
  obtain ⟨s', h1, h2, h3⟩ := lanewise_of_ok h (op := op) (fun t ht => ⟨_, hok t ht⟩)
  exact ⟨s', he.trans h1, h2, fun t ht htt => ⟨_, h3 t ht htt _ (hok t ht), wrote_apply _ _ _ _⟩⟩

/-- No HSRC waits for an instruction that takes none. -/
theorem Chosen.src_none {i : Instr} {s : State} {g : Group} {ts : List Thread} (h : Chosen i s g ts) (hi : takesHsrc i = false)
    (hh : ∀ (t : Thread), hintsOk t.hints i = true → t.hints.src.isNone || takesHsrc i) : ∀ t ∈ ts, t.hints.src = none := by
  obtain ⟨_, t, r, rfl, hc, hr⟩ := h
  have h0 : t.hints.src = none := by
    unfold encCheck at hc
    have : hintsOk t.hints i = true := by
      revert hc
      repeat' split
      all_goals simp_all
    have := hh t this
    rw [hi] at this
    simpa using this
  intro u hu
  rcases List.mem_cons.1 hu with rfl | hu
  · exact h0
  · have := hr u hu
    have h2 : u.hints.payload.src = t.hints.payload.src := by rw [this]
    exact h2.trans h0

end Sys2Proof.Machine
end

