-- ==== Sys2Proof/Laws/Link.lean ====
section
/-! SUPPORT. The compressed block of R57 and R58 loses nothing: what `compressBlock` makes, `expandBlock` reads
back, so that a value leaves a link as it entered. -/

namespace Sys2Proof.Machine

/-- A number comes back from its bytes. -/
theorem natLe_bytesLe (n x : Nat) : natLe (bytesLe n x) = x % 256 ^ n := by
  induction n generalizing x with
  | zero => simp [bytesLe, natLe, Nat.mod_one]
  | succ n ih =>
    simp only [bytesLe, natLe, ih, BitVec.toNat_ofNat]
    rw [show (256 : Nat) ^ (n + 1) = 256 * 256 ^ n from Nat.pow_succ', Nat.mod_mul]
    omega

/-- Codes come back from their bits. -/
theorem splitBits_joinBits (bits : Nat) (l : List Nat) (h : ∀ c ∈ l, c < 2 ^ bits) : splitBits bits l.length (joinBits bits l) = l := by
  induction l with
  | nil => rfl
  | cons c r ih =>
    have hc := h c (by simp)
    simp only [List.length_cons, splitBits, joinBits, Nat.mod_eq_of_lt hc]
    rw [Nat.add_mul_mod_self_left, Nat.mod_eq_of_lt hc, Nat.add_mul_div_left _ _ (Nat.two_pow_pos bits), Nat.div_eq_of_lt hc, Nat.zero_add,
      ih (fun c h' => h c (by simp [h']))]

theorem joinBits_lt (bits : Nat) (l : List Nat) : joinBits bits l < 2 ^ (bits * l.length) := by
  induction l with
  | nil => simp [joinBits]
  | cons c r ih =>
    simp only [joinBits, List.length_cons, Nat.mul_succ, Nat.pow_add]
    have hc : c % 2 ^ bits < 2 ^ bits := Nat.mod_lt _ (Nat.two_pow_pos bits)
    calc c % 2 ^ bits + 2 ^ bits * joinBits bits r < 2 ^ bits + 2 ^ bits * joinBits bits r := by omega
      _ = 2 ^ bits * (joinBits bits r + 1) := by rw [Nat.mul_succ, Nat.add_comm]
      _ ≤ 2 ^ bits * 2 ^ (bits * r.length) := Nat.mul_le_mul_left _ ih
      _ = _ := Nat.mul_comm _ _

theorem expField_lt (w : Word) : expField w < 256 := (w.extractLsb' 23 8).isLt

/-- The greatest of a list by folding is at least what it starts from and each element. -/
theorem foldl_max_le {α : Type} (f : α → Nat) (l : List α) (m : Nat) :
    m ≤ l.foldl (fun m w => Nat.max m (f w)) m ∧ ∀ w ∈ l, f w ≤ l.foldl (fun m w => Nat.max m (f w)) m := by
  induction l generalizing m with
  | nil => simp
  | cons x r ih =>
    obtain ⟨h1, h2⟩ := ih (Nat.max m (f x))
    have hm : m ≤ Nat.max m (f x) := Nat.le_max_left ..
    have hx : f x ≤ Nat.max m (f x) := Nat.le_max_right ..
    refine ⟨Nat.le_trans hm h1, fun w hw => ?_⟩
    rcases List.mem_cons.mp hw with h | h
    · subst h; exact Nat.le_trans hx h1
    · exact h2 w h

theorem foldl_max_lt {α : Type} (f : α → Nat) (l : List α) (m n : Nat) (hm : m < n) (h : ∀ w ∈ l, f w < n) :
    l.foldl (fun m w => Nat.max m (f w)) m < n := by
  induction l generalizing m with
  | nil => exact hm
  | cons x r ih => exact ih (Nat.max m (f x)) (Nat.max_lt.mpr ⟨hm, h x (by simp)⟩) (fun w hw => h w (by simp [hw]))

theorem lt_two_pow_bitsFor (n : Nat) : n < 2 ^ bitsFor n := by
  unfold bitsFor
  split
  · subst_vars; decide
  · exact Nat.lt_log2_self

/-- A value's field has 24 + W bits. -/
theorem packValue_lt (width base : Nat) (w : Word) (h : base - expField w < 2 ^ width) : packValue width base w < 2 ^ (24 + width) := by
  have h1 : w.toNat / 2 ^ 31 < 2 := by have := w.isLt; omega
  have h2 : w.toNat % 2 ^ 23 < 2 ^ 23 := Nat.mod_lt _ (by decide)
  unfold packValue
  rw [show 24 + width = (1 + width) + 23 by omega, Nat.pow_add 2 (1 + width) 23, show 2 ^ (1 + width) = 2 * 2 ^ width by rw [Nat.pow_add]]
  have h3 : 2 * 2 ^ width * (w.toNat % 2 ^ 23) + 2 * 2 ^ width ≤ 2 * 2 ^ width * 2 ^ 23 := by
    rw [← Nat.mul_succ]; exact Nat.mul_le_mul_left _ h2
  omega

/-- A value comes back from its field. -/
theorem unpackValue_packValue (width base : Nat) (w : Word) (hb : expField w ≤ base) (h : base - expField w < 2 ^ width) :
    unpackValue width base (packValue width base w) = some w := by
  have hw := w.isLt
  have h1 : w.toNat / 2 ^ 31 < 2 := by omega
  have hp : 2 ^ (1 + width) = 2 * 2 ^ width := by rw [Nat.pow_add]
  have hdelta : packValue width base w / 2 % 2 ^ width = base - expField w := by
    have : packValue width base w = w.toNat / 2 ^ 31 + 2 * ((base - expField w) + 2 ^ width * (w.toNat % 2 ^ 23)) := by
      unfold packValue; rw [hp, Nat.mul_add, ← Nat.mul_assoc, Nat.add_assoc]
    rw [this, Nat.add_mul_div_left _ _ (by decide), Nat.div_eq_of_lt h1, Nat.zero_add, Nat.add_mul_mod_self_left, Nat.mod_eq_of_lt h]
  have hsign : packValue width base w % 2 = w.toNat / 2 ^ 31 := by
    unfold packValue; rw [hp, Nat.mul_assoc]; omega
  have hman : packValue width base w / 2 ^ (1 + width) = w.toNat % 2 ^ 23 := by
    unfold packValue
    rw [Nat.add_mul_div_left _ _ (Nat.two_pow_pos _), Nat.div_eq_of_lt (by rw [hp]; omega), Nat.zero_add]
  simp only [unpackValue, hdelta, hsign, hman, if_neg (show ¬base < base - expField w by omega)]
  congr 1
  apply BitVec.eq_of_toNat_eq
  have he : expField w = w.toNat / 2 ^ 23 % 2 ^ 8 := by
    simp [expField, BitVec.extractLsb'_toNat, Nat.shiftRight_eq_div_pow]
  rw [BitVec.toNat_ofNat, show base - (base - expField w) = expField w by omega, he]
  omega

theorem mapM_unpackValue (width base : Nat) (ws : List Word) (hb : ∀ w ∈ ws, expField w ≤ base) (h : ∀ w ∈ ws, base - expField w < 2 ^ width) :
    (ws.map (packValue width base)).mapM (unpackValue width base) = some ws := by
  induction ws with
  | nil => rfl
  | cons w r ih =>
    simp only [List.map_cons, List.mapM_cons, unpackValue_packValue width base w (hb w (by simp)) (h w (by simp)),
      ih (fun w hw => hb w (by simp [hw])) (fun w hw => h w (by simp [hw]))]
    rfl

/-- The header's second byte, of a number below 2^16. -/
theorem bytesLe_two (x : Nat) : bytesLe 2 x = [BitVec.ofNat 8 (x % 256), BitVec.ofNat 8 (x / 256 % 256)] := rfl

/-- R57, R58: a block of sixteen values expands to the values it was made from. -/
theorem expandBlock_compressBlock (ws : List Word) (h16 : ws.length = 16) : expandBlock (compressBlock ws) = some ws := by
  have hbase : ∀ w ∈ ws, expField w ≤ blockBase ws := (foldl_max_le expField ws 0).2
  have hdelta : ∀ w ∈ ws, blockBase ws - expField w < 2 ^ bitsFor (blockDelta ws) := fun w hw =>
    Nat.lt_of_le_of_lt ((foldl_max_le (fun w => blockBase ws - expField w) ws 0).2 w hw) (lt_two_pow_bitsFor _)
  have hb : blockBase ws < 256 := foldl_max_lt expField ws 0 256 (by decide) (fun w _ => expField_lt w)
  unfold compressBlock
  by_cases hw : bitsFor (blockDelta ws) ≤ 7
  · generalize bitsFor (blockDelta ws) = width at hw hdelta
    simp only [hw, if_true, bytesLe_two]
    have hlen : (ws.map (packValue width (blockBase ws))).length = 16 := by simpa using h16
    have hj := joinBits_lt (24 + width) (ws.map (packValue width (blockBase ws)))
    have hx : joinBits (24 + width) (ws.map (packValue width (blockBase ws))) < 256 ^ (2 * (24 + width)) := by
      rw [show (256 : Nat) = 2 ^ 8 from rfl, ← Nat.pow_mul, show 8 * (2 * (24 + width)) = (24 + width) * 16 by omega]
      rwa [hlen] at hj
    have hs : splitBits (24 + width) 16 (joinBits (24 + width) (ws.map (packValue width (blockBase ws)))) = ws.map (packValue width (blockBase ws)) := by
      rw [← hlen]
      exact splitBits_joinBits _ _ (by simpa using fun w hw => packValue_lt width (blockBase ws) w (hdelta w hw))
    simp only [List.cons_append, List.nil_append, expandBlock, natLe_bytesLe, Nat.mod_eq_of_lt hx, BitVec.toNat_ofNat]
    rw [show (blockBase ws + 2 ^ 8 * width) % 256 % 2 ^ 8 = blockBase ws by omega, show (blockBase ws + 2 ^ 8 * width) / 256 % 256 % 2 ^ 8 = width by omega]
    rw [if_neg (by omega), if_neg (by omega), if_neg (by omega), show width % 16 = width by omega, hs]
    exact mapM_unpackValue width (blockBase ws) ws hbase hdelta
  · simp only [if_neg hw, bytesLe_two]
    have hlen : (ws.map BitVec.toNat).length = 16 := by simpa using h16
    have hj := joinBits_lt 32 (ws.map BitVec.toNat)
    have hx : joinBits 32 (ws.map BitVec.toNat) < 256 ^ 64 := by
      rwa [show (256 : Nat) = 2 ^ 8 from rfl, ← Nat.pow_mul, show 8 * 64 = 32 * 16 from rfl, ← hlen]
    have hs : splitBits 32 16 (joinBits 32 (ws.map BitVec.toNat)) = ws.map BitVec.toNat := by
      rw [← hlen]
      exact splitBits_joinBits _ _ (by simpa using fun (w : Word) (_ : w ∈ ws) => w.isLt)
    simp only [List.cons_append, List.nil_append, expandBlock, natLe_bytesLe, Nat.mod_eq_of_lt hx, hs, BitVec.toNat_ofNat]
    simp [Function.comp_def]

/-- R57: a value leaves a link as it entered, whatever the link has agreed. -/
@[simp] theorem overLink_eq (feats : List Feature) (x : Word) : overLink feats x = x := by
  unfold overLink
  rw [expandBlock_compressBlock (List.replicate 16 x) (by simp)]
  split <;> rfl

end Sys2Proof.Machine
end

