-- ==== Sys2Proof/Laws/PerInstr.lean ====
section
/-! SUPPORT. One lemma per instruction: a well-formed encoded instruction decodes from its word as
itself (R60, R68 to R72). An event has no word. -/

namespace Sys2Proof.Laws.Encoding

/-- A well-formed instruction decodes from its word as itself. -/
def Statement (i : Instr) : Prop :=
  ∀ (width : Nat) (w : Word), wellFormed width i = true → encode i = some w → decode w = .ok i

theorem of_word {i : Instr} {w : Word} (he : encode i = some w) (hd : decode w = .ok i) : Statement i := by
  intro _ w' _ h
  rw [he] at h
  cases h
  exact hd

theorem of_event {i : Instr} (he : encode i = none) : Statement i := by
  intro _ w _ h
  rw [he] at h
  cases h

/-! The fields of a word built from its parts. -/

theorem toNat_append {m n : Nat} (x : BitVec m) (y : BitVec n) : (x ++ y).toNat = x.toNat * 2 ^ n + y.toNat := by
  rw [BitVec.toNat_append, Nat.shiftLeft_eq, Nat.mul_comm, ← Nat.two_pow_add_eq_or_of_lt y.isLt]

theorem toNat_mkRR (op d a b : BitVec 8) : (mkRR op d a b).toNat = op.toNat * 2 ^ 24 + d.toNat * 2 ^ 16 + a.toNat * 2 ^ 8 + b.toNat := by
  simp only [mkRR, toNat_append]
  omega

theorem toNat_mkIW (op d : BitVec 8) (imm : BitVec 16) : (mkIW op d imm).toNat = op.toNat * 2 ^ 24 + d.toNat * 2 ^ 16 + imm.toNat := by
  simp only [mkIW, toNat_append]
  omega

theorem toNat_mkH (op : BitVec 8) (p : BitVec 24) : (mkH op p).toNat = op.toNat * 2 ^ 24 + p.toNat := toNat_append op p

theorem toNat_f (st t : BitVec 4) : (st ++ t : BitVec 8).toNat = st.toNat * 16 + t.toNat := toNat_append st t

theorem toNat_store (st : BitVec 4) (pol : BitVec 2) : (st ++ pol ++ 0#2 : BitVec 8).toNat = st.toNat * 16 + pol.toNat * 4 := by
  have h : (st ++ pol ++ 0#2 : BitVec 8).toNat = (st ++ pol : BitVec 6).toNat * 4 + 0 := toNat_append (st ++ pol) 0#2
  have h' : (st ++ pol : BitVec 6).toNat = st.toNat * 4 + pol.toNat := toNat_append st pol
  omega

theorem toNat_six (x : BitVec 2) : (0#6 ++ x : BitVec 8).toNat = x.toNat := by
  have h : (0#6 ++ x : BitVec 8).toNat = 0 * 4 + x.toNat := toNat_append 0#6 x
  omega

@[simp] theorem wOp_mkRR (op d a b : BitVec 8) : wOp (mkRR op d a b) = op := by
  apply BitVec.eq_of_toNat_eq; simp [wOp, toNat_mkRR, Nat.shiftRight_eq_div_pow]; omega
@[simp] theorem wD_mkRR (op d a b : BitVec 8) : wD (mkRR op d a b) = d := by
  apply BitVec.eq_of_toNat_eq; simp [wD, toNat_mkRR, Nat.shiftRight_eq_div_pow]; omega
@[simp] theorem wA_mkRR (op d a b : BitVec 8) : wA (mkRR op d a b) = a := by
  apply BitVec.eq_of_toNat_eq; simp [wA, toNat_mkRR, Nat.shiftRight_eq_div_pow]; omega
@[simp] theorem wB_mkRR (op d a b : BitVec 8) : wB (mkRR op d a b) = b := by
  apply BitVec.eq_of_toNat_eq; simp [wB, toNat_mkRR]; omega
@[simp] theorem wOp_mkIW (op d : BitVec 8) (imm : BitVec 16) : wOp (mkIW op d imm) = op := by
  apply BitVec.eq_of_toNat_eq; simp [wOp, toNat_mkIW, Nat.shiftRight_eq_div_pow]; omega
@[simp] theorem wD_mkIW (op d : BitVec 8) (imm : BitVec 16) : wD (mkIW op d imm) = d := by
  apply BitVec.eq_of_toNat_eq; simp [wD, toNat_mkIW, Nat.shiftRight_eq_div_pow]; omega
@[simp] theorem wImm16_mkIW (op d : BitVec 8) (imm : BitVec 16) : wImm16 (mkIW op d imm) = imm := by
  apply BitVec.eq_of_toNat_eq; simp [wImm16, toNat_mkIW]; omega
@[simp] theorem wOp_mkH (op : BitVec 8) (p : BitVec 24) : wOp (mkH op p) = op := by
  apply BitVec.eq_of_toNat_eq; simp [wOp, toNat_mkH, Nat.shiftRight_eq_div_pow]; omega
@[simp] theorem wPay_mkH (op : BitVec 8) (p : BitVec 24) : wPay (mkH op p) = p := by
  apply BitVec.eq_of_toNat_eq; simp [wPay, toNat_mkH]; omega

@[simp] theorem stream_of_f (st t : BitVec 4) : (st ++ t : BitVec 8).extractLsb' 4 4 = st := by
  apply BitVec.eq_of_toNat_eq; simp [toNat_f, Nat.shiftRight_eq_div_pow]; omega
@[simp] theorem low_of_f (st t : BitVec 4) : (st ++ t : BitVec 8).extractLsb' 0 4 = t := by
  apply BitVec.eq_of_toNat_eq; simp [toNat_f]; omega
@[simp] theorem stream_of_store (st : BitVec 4) (pol : BitVec 2) : (st ++ pol ++ 0#2 : BitVec 8).extractLsb' 4 4 = st := by
  apply BitVec.eq_of_toNat_eq; simp [toNat_store, Nat.shiftRight_eq_div_pow]; omega
@[simp] theorem policy_of_store (st : BitVec 4) (pol : BitVec 2) : (st ++ pol ++ 0#2 : BitVec 8).extractLsb' 2 2 = pol := by
  apply BitVec.eq_of_toNat_eq; simp [toNat_store, Nat.shiftRight_eq_div_pow]; omega
@[simp] theorem zero_of_store (st : BitVec 4) (pol : BitVec 2) : (st ++ pol ++ 0#2 : BitVec 8).extractLsb' 0 2 = 0#2 := by
  apply BitVec.eq_of_toNat_eq; simp [toNat_store]; omega
@[simp] theorem low_of_six (x : BitVec 2) : (0#6 ++ x : BitVec 8).extractLsb' 0 2 = x := by
  revert x; decide
@[simp] theorem high_of_six (x : BitVec 2) : (0#6 ++ x : BitVec 8).extractLsb' 2 6 = 0#6 := by
  revert x; decide

@[simp] theorem aopOf_code (op : AOp) : aopOf (aopCode op) = some op := by cases op <;> rfl
@[simp] theorem scopeOf_code (sc : Scope) : scopeOf ((0#5 ++ scopeCode sc : BitVec 8).extractLsb' 0 3) = some sc := by cases sc <;> rfl
@[simp] theorem zero_of_scope (sc : Scope) : (0#5 ++ scopeCode sc : BitVec 8).extractLsb' 3 5 = 0#5 := by cases sc <;> rfl
@[simp] theorem rmodeOf_code (m : RMode) : rmodeOf ((0#5 ++ rmodeCode m : BitVec 8).extractLsb' 0 3) = some m := by cases m <;> rfl
@[simp] theorem zero_of_rmode (m : RMode) : (0#5 ++ rmodeCode m : BitVec 8).extractLsb' 3 5 = 0#5 := by cases m <;> rfl

/-- The fields of HORD's payload (R72). -/
theorem hord_fields (f : Bool) (u : BitVec 2) (sc : Scope) :
    let b : BitVec 8 := 0#1 ++ bit1 f ++ u ++ 0#1 ++ scopeCode sc
    (b.extractLsb' 6 1 == 1) = f ∧ b.extractLsb' 4 2 = u ∧ scopeOf (b.extractLsb' 0 3) = some sc ∧ b.extractLsb' 7 1 = 0 ∧ b.extractLsb' 3 1 = 0 := by
  cases f <;> cases sc <;> revert u <;> decide

/-- A barrier immediate of R70 is not the mark of the register form. -/
theorem bar_imm {imm : BitVec 8} (h : barImmOk imm = true) : imm ≠ 0xC0#8 := by
  rintro rfl
  exact absurd h (by decide)

/-- The immediate form of a barrier, template T8. -/
theorem decodeBar_imm {op d : BitVec 8} {imm : BitVec 8} (h : barImmOk imm = true) (kImm : Sel → BitVec 8 → Instr) (kReg : Sel → Sel → Instr) :
    decodeBar (mkRR op d 0 imm) kImm kReg = .ok (kImm d imm) := by
  simp [decodeBar, bar_imm h, need, h]

theorem of_bar {i : Instr} {w : Word} (he : encode i = some w) (hd : barFieldOk i = true → decode w = .ok i) : Statement i := by
  intro width w' hw h
  rw [he] at h
  cases h
  refine hd ?_
  simp only [wellFormed, Bool.and_eq_true] at hw
  exact hw.1.1.2

theorem add (d a b : Sel) : Statement (.add d a b) :=
  of_word rfl (by simp [decode, decodeClass0])
theorem sub (d a b : Sel) : Statement (.sub d a b) :=
  of_word rfl (by simp [decode, decodeClass0])
theorem mul (d a b : Sel) : Statement (.mul d a b) :=
  of_word rfl (by simp [decode, decodeClass0])
theorem fma (d a b : Sel) : Statement (.fma d a b) :=
  of_word rfl (by simp [decode, decodeClass0])
theorem min (d a b : Sel) : Statement (.min d a b) :=
  of_word rfl (by simp [decode, decodeClass0])
theorem max (d a b : Sel) : Statement (.max d a b) :=
  of_word rfl (by simp [decode, decodeClass0])
theorem abs (d a : Sel) : Statement (.abs d a) :=
  of_word rfl (by simp [decode, decodeClass0, need])
theorem neg (d a : Sel) : Statement (.neg d a) :=
  of_word rfl (by simp [decode, decodeClass0, need])
theorem sadd (d a b : Sel) : Statement (.sadd d a b) :=
  of_word rfl (by simp [decode, decodeClass0])
theorem ssub (d a b : Sel) : Statement (.ssub d a b) :=
  of_word rfl (by simp [decode, decodeClass0])
theorem cpsgn (d a b : Sel) : Statement (.cpsgn d a b) :=
  of_word rfl (by simp [decode, decodeClass0])
theorem addi (d a : Sel) (imm : BitVec 8) : Statement (.addi d a imm) :=
  of_word rfl (by simp [decode, decodeClass0])
theorem muli (d a : Sel) (imm : BitVec 8) : Statement (.muli d a imm) :=
  of_word rfl (by simp [decode, decodeClass0])
theorem mini (d a : Sel) (imm : BitVec 8) : Statement (.mini d a imm) :=
  of_word rfl (by simp [decode, decodeClass0])
theorem maxi (d a : Sel) (imm : BitVec 8) : Statement (.maxi d a imm) :=
  of_word rfl (by simp [decode, decodeClass0])
theorem mulhi (d a b : Sel) : Statement (.mulhi d a b) :=
  of_word rfl (by simp [decode, decodeClass1])
theorem mulhn (d a b : Sel) : Statement (.mulhn d a b) :=
  of_word rfl (by simp [decode, decodeClass1])
theorem div (d a b : Sel) : Statement (.div d a b) :=
  of_word rfl (by simp [decode, decodeClass1])
theorem rem (d a b : Sel) : Statement (.rem d a b) :=
  of_word rfl (by simp [decode, decodeClass1])
theorem divn (d a b : Sel) : Statement (.divn d a b) :=
  of_word rfl (by simp [decode, decodeClass1])
theorem remn (d a b : Sel) : Statement (.remn d a b) :=
  of_word rfl (by simp [decode, decodeClass1])
theorem shl (d a b : Sel) : Statement (.shl d a b) :=
  of_word rfl (by simp [decode, decodeClass1])
theorem shr (d a b : Sel) : Statement (.shr d a b) :=
  of_word rfl (by simp [decode, decodeClass1])
theorem sra (d a b : Sel) : Statement (.sra d a b) :=
  of_word rfl (by simp [decode, decodeClass1])
theorem rol (d a b : Sel) : Statement (.rol d a b) :=
  of_word rfl (by simp [decode, decodeClass1])
theorem shli (d a : Sel) (imm : BitVec 8) : Statement (.shli d a imm) :=
  of_word rfl (by simp [decode, decodeClass1])
theorem shri (d a : Sel) (imm : BitVec 8) : Statement (.shri d a imm) :=
  of_word rfl (by simp [decode, decodeClass1])
theorem srai (d a : Sel) (imm : BitVec 8) : Statement (.srai d a imm) :=
  of_word rfl (by simp [decode, decodeClass1])
theorem clz (d a : Sel) : Statement (.clz d a) :=
  of_word rfl (by simp [decode, decodeClass1, need])
theorem popc (d a : Sel) : Statement (.popc d a) :=
  of_word rfl (by simp [decode, decodeClass1, need])
theorem brev (d a : Sel) : Statement (.brev d a) :=
  of_word rfl (by simp [decode, decodeClass1, need])
theorem and (d a b : Sel) : Statement (.and d a b) :=
  of_word rfl (by simp [decode, decodeClass2])
theorem or (d a b : Sel) : Statement (.or d a b) :=
  of_word rfl (by simp [decode, decodeClass2])
theorem xor (d a b : Sel) : Statement (.xor d a b) :=
  of_word rfl (by simp [decode, decodeClass2])
theorem andn (d a b : Sel) : Statement (.andn d a b) :=
  of_word rfl (by simp [decode, decodeClass2])
theorem orn (d a b : Sel) : Statement (.orn d a b) :=
  of_word rfl (by simp [decode, decodeClass2])
theorem not (d a : Sel) : Statement (.not d a) :=
  of_word rfl (by simp [decode, decodeClass2, need])
theorem andi (d a : Sel) (imm : BitVec 8) : Statement (.andi d a imm) :=
  of_word rfl (by simp [decode, decodeClass2])
theorem ori (d a : Sel) (imm : BitVec 8) : Statement (.ori d a imm) :=
  of_word rfl (by simp [decode, decodeClass2])
theorem xori (d a : Sel) (imm : BitVec 8) : Statement (.xori d a imm) :=
  of_word rfl (by simp [decode, decodeClass2])
theorem sel (d a b : Sel) : Statement (.sel d a b) :=
  of_word rfl (by simp [decode, decodeClass2])
theorem bfx (d a b : Sel) : Statement (.bfx d a b) :=
  of_word rfl (by simp [decode, decodeClass2])
theorem bfi (d a b : Sel) : Statement (.bfi d a b) :=
  of_word rfl (by simp [decode, decodeClass2])
theorem prmb (d a b : Sel) : Statement (.prmb d a b) :=
  of_word rfl (by simp [decode, decodeClass2])
theorem lui (d : Sel) (imm : BitVec 16) : Statement (.lui d imm) :=
  of_word rfl (by simp [decode, decodeClass2])
theorem lli (d : Sel) (imm : BitVec 16) : Statement (.lli d imm) :=
  of_word rfl (by simp [decode, decodeClass2])
theorem mov (d a : Sel) : Statement (.mov d a) :=
  of_word rfl (by simp [decode, decodeClass2, need])
theorem divf (d a b : Sel) : Statement (.divf d a b) :=
  of_word rfl (by simp [decode, decodeClass3])
theorem rcp (d a : Sel) : Statement (.rcp d a) :=
  of_word rfl (by simp [decode, decodeClass3, need])
theorem rsq (d a : Sel) : Statement (.rsq d a) :=
  of_word rfl (by simp [decode, decodeClass3, need])
theorem sqrt (d a : Sel) : Statement (.sqrt d a) :=
  of_word rfl (by simp [decode, decodeClass3, need])
theorem exp2 (d a : Sel) : Statement (.exp2 d a) :=
  of_word rfl (by simp [decode, decodeClass3, need])
theorem log2 (d a : Sel) : Statement (.log2 d a) :=
  of_word rfl (by simp [decode, decodeClass3, need])
theorem sin (d a : Sel) : Statement (.sin d a) :=
  of_word rfl (by simp [decode, decodeClass3, need])
theorem cos (d a : Sel) : Statement (.cos d a) :=
  of_word rfl (by simp [decode, decodeClass3, need])
theorem tanh (d a : Sel) : Statement (.tanh d a) :=
  of_word rfl (by simp [decode, decodeClass3, need])
theorem rint (d a : Sel) : Statement (.rint d a) :=
  of_word rfl (by simp [decode, decodeClass3, need])
theorem scalb (d a b : Sel) : Statement (.scalb d a b) :=
  of_word rfl (by simp [decode, decodeClass3])
theorem fcls (d a : Sel) : Statement (.fcls d a) :=
  of_word rfl (by simp [decode, decodeClass3, need])
theorem ceq (d a b : Sel) : Statement (.ceq d a b) :=
  of_word rfl (by simp [decode, decodeClass4])
theorem cne (d a b : Sel) : Statement (.cne d a b) :=
  of_word rfl (by simp [decode, decodeClass4])
theorem clt (d a b : Sel) : Statement (.clt d a b) :=
  of_word rfl (by simp [decode, decodeClass4])
theorem cle (d a b : Sel) : Statement (.cle d a b) :=
  of_word rfl (by simp [decode, decodeClass4])
theorem cuno (d a b : Sel) : Statement (.cuno d a b) :=
  of_word rfl (by simp [decode, decodeClass4])
theorem ctag (d a : Sel) (imm : BitVec 8) : Statement (.ctag d a imm) :=
  of_word rfl (by simp [decode, decodeClass4])
theorem ceqi (d a : Sel) (imm : BitVec 8) : Statement (.ceqi d a imm) :=
  of_word rfl (by simp [decode, decodeClass4])
theorem cnei (d a : Sel) (imm : BitVec 8) : Statement (.cnei d a imm) :=
  of_word rfl (by simp [decode, decodeClass4])
theorem clti (d a : Sel) (imm : BitVec 8) : Statement (.clti d a imm) :=
  of_word rfl (by simp [decode, decodeClass4])
theorem clei (d a : Sel) (imm : BitVec 8) : Statement (.clei d a imm) :=
  of_word rfl (by simp [decode, decodeClass4])
theorem cgti (d a : Sel) (imm : BitVec 8) : Statement (.cgti d a imm) :=
  of_word rfl (by simp [decode, decodeClass4])
theorem cgei (d a : Sel) (imm : BitVec 8) : Statement (.cgei d a imm) :=
  of_word rfl (by simp [decode, decodeClass4])
theorem cvt (d a : Sel) (imm : BitVec 8) : Statement (.cvt d a imm) :=
  of_word rfl (by simp [decode, decodeClass5])
theorem tagr (d a : Sel) (imm : BitVec 8) : Statement (.tagr d a imm) :=
  of_word rfl (by simp [decode, decodeClass5])
theorem tagq (d a : Sel) : Statement (.tagq d a) :=
  of_word rfl (by simp [decode, decodeClass5, need])
theorem pack (d a b : Sel) : Statement (.pack d a b) :=
  of_word rfl (by simp [decode, decodeClass5])
theorem unpkl (d a : Sel) (imm : BitVec 8) : Statement (.unpkl d a imm) :=
  of_word rfl (by simp [decode, decodeClass5])
theorem unpkh (d a : Sel) (imm : BitVec 8) : Statement (.unpkh d a imm) :=
  of_word rfl (by simp [decode, decodeClass5])
theorem sclc (d a b : Sel) : Statement (.sclc d a b) :=
  of_word rfl (by simp [decode, decodeClass5])
theorem qnt (d a b : Sel) : Statement (.qnt d a b) :=
  of_word rfl (by simp [decode, decodeClass5])
theorem dqnt (d a b : Sel) : Statement (.dqnt d a b) :=
  of_word rfl (by simp [decode, decodeClass5])
theorem hadm (d a : Sel) (imm : BitVec 8) : Statement (.hadm d a imm) :=
  of_word rfl (by simp [decode, decodeClass5])
theorem trpk (d a b : Sel) : Statement (.trpk d a b) :=
  of_word rfl (by simp [decode, decodeClass5])
theorem trex (d a : Sel) (imm : BitVec 8) : Statement (.trex d a imm) :=
  of_word rfl (by simp [decode, decodeClass5])
theorem lutx (d a b : Sel) : Statement (.lutx d a b) :=
  of_word rfl (by simp [decode, decodeClass5])
theorem shfl (d a b : Sel) : Statement (.shfl d a b) :=
  of_word rfl (by simp [decode, decodeClass6])
theorem shflx (d a : Sel) (imm : BitVec 8) : Statement (.shflx d a imm) :=
  of_word rfl (by simp [decode, decodeClass6])
theorem shflu (d a : Sel) (imm : BitVec 8) : Statement (.shflu d a imm) :=
  of_word rfl (by simp [decode, decodeClass6])
theorem shfld (d a : Sel) (imm : BitVec 8) : Statement (.shfld d a imm) :=
  of_word rfl (by simp [decode, decodeClass6])
theorem bcst (d a : Sel) (imm : BitVec 8) : Statement (.bcst d a imm) :=
  of_word rfl (by simp [decode, decodeClass6])
theorem vall (d a : Sel) : Statement (.vall d a) :=
  of_word rfl (by simp [decode, decodeClass6, need])
theorem vany (d a : Sel) : Statement (.vany d a) :=
  of_word rfl (by simp [decode, decodeClass6, need])
theorem ballot (d a : Sel) : Statement (.ballot d a) :=
  of_word rfl (by simp [decode, decodeClass6, need])
theorem rdadd (d a : Sel) : Statement (.rdadd d a) :=
  of_word rfl (by simp [decode, decodeClass6, need])
theorem rdmax (d a : Sel) : Statement (.rdmax d a) :=
  of_word rfl (by simp [decode, decodeClass6, need])
theorem rdmin (d a : Sel) : Statement (.rdmin d a) :=
  of_word rfl (by simp [decode, decodeClass6, need])
theorem scan (d a : Sel) : Statement (.scan d a) :=
  of_word rfl (by simp [decode, decodeClass6, need])
theorem cmpct (d a b : Sel) : Statement (.cmpct d a b) :=
  of_word rfl (by simp [decode, decodeClass6])
theorem rank (d a : Sel) : Statement (.rank d a) :=
  of_word rfl (by simp [decode, decodeClass6, need])
theorem matchAny (d a : Sel) : Statement (.matchAny d a) :=
  of_word rfl (by simp [decode, decodeClass6, need])
theorem br (off : BitVec 16) : Statement (.br off) :=
  of_word rfl (by simp [decode, decodeClass7, need])
theorem bnz (a : Sel) (off : BitVec 16) : Statement (.bnz a off) :=
  of_word rfl (by simp [decode, decodeClass7])
theorem bz (a : Sel) (off : BitVec 16) : Statement (.bz a off) :=
  of_word rfl (by simp [decode, decodeClass7])
theorem brx (a : Sel) : Statement (.brx a) :=
  of_word rfl (by simp [decode, decodeClass7, need])
theorem call (a : Sel) (off : BitVec 16) : Statement (.call a off) :=
  of_word rfl (by simp [decode, decodeClass7])
theorem callx (d a : Sel) : Statement (.callx d a) :=
  of_word rfl (by simp [decode, decodeClass7, need])
theorem ret (a : Sel) : Statement (.ret a) :=
  of_word rfl (by simp [decode, decodeClass7, need])
theorem exit : Statement (.exit) :=
  of_word rfl (by simp [decode, decodeClass7, need])
theorem yield : Statement (.yield) :=
  of_word rfl (by simp [decode, decodeClass7, need])
theorem nop : Statement (.nop) :=
  of_word rfl (by simp [decode, decodeClass7, need])
theorem idem (imm : BitVec 16) : Statement (.idem imm) :=
  of_word rfl (by simp [decode, decodeClass7, need])
theorem pause : Statement (.pause) :=
  of_word rfl (by simp [decode, decodeClass7, need])
theorem lds (d a : Sel) (st t : BitVec 4) : Statement (.lds d a st t) :=
  of_word rfl (by simp [decode, decodeClass8])
theorem lds2 (d a : Sel) (st t : BitVec 4) : Statement (.lds2 d a st t) :=
  of_word rfl (by simp [decode, decodeClass8])
theorem lds4 (d a : Sel) (st t : BitVec 4) : Statement (.lds4 d a st t) :=
  of_word rfl (by simp [decode, decodeClass8])
theorem ldse (d a : Sel) (st t : BitVec 4) : Statement (.ldse d a st t) :=
  of_word rfl (by simp [decode, decodeClass8])
theorem ldsc (d a : Sel) (st t : BitVec 4) : Statement (.ldsc d a st t) :=
  of_word rfl (by simp [decode, decodeClass8])
theorem ldt (d a : Sel) (st t : BitVec 4) : Statement (.ldt d a st t) :=
  of_word rfl (by simp [decode, decodeClass8])
theorem ldt2 (d a : Sel) (st t : BitVec 4) : Statement (.ldt2 d a st t) :=
  of_word rfl (by simp [decode, decodeClass8])
theorem ldt4 (d a : Sel) (st t : BitVec 4) : Statement (.ldt4 d a st t) :=
  of_word rfl (by simp [decode, decodeClass8])
theorem ldg (d a : Sel) (st t : BitVec 4) : Statement (.ldg d a st t) :=
  of_word rfl (by simp [decode, decodeClass8])
theorem ldg2 (d a : Sel) (st t : BitVec 4) : Statement (.ldg2 d a st t) :=
  of_word rfl (by simp [decode, decodeClass8])
theorem ldg4 (d a : Sel) (st t : BitVec 4) : Statement (.ldg4 d a st t) :=
  of_word rfl (by simp [decode, decodeClass8])
theorem ldga (d a : Sel) (st t : BitVec 4) : Statement (.ldga d a st t) :=
  of_word rfl (by simp [decode, decodeClass8])
theorem ldp (d a : Sel) (st t : BitVec 4) : Statement (.ldp d a st t) :=
  of_word rfl (by simp [decode, decodeClass8])
theorem ldta (d a : Sel) (st t : BitVec 4) : Statement (.ldta d a st t) :=
  of_word rfl (by simp [decode, decodeClass8])
theorem sts (d a : Sel) (st : BitVec 4) (pol : BitVec 2) : Statement (.sts d a st pol) :=
  of_word rfl (by simp [decode, decodeClass9, need])
theorem sts2 (d a : Sel) (st : BitVec 4) (pol : BitVec 2) : Statement (.sts2 d a st pol) :=
  of_word rfl (by simp [decode, decodeClass9, need])
theorem sts4 (d a : Sel) (st : BitVec 4) (pol : BitVec 2) : Statement (.sts4 d a st pol) :=
  of_word rfl (by simp [decode, decodeClass9, need])
theorem stsf (d a : Sel) (st : BitVec 4) (pol : BitVec 2) : Statement (.stsf d a st pol) :=
  of_word rfl (by simp [decode, decodeClass9, need])
theorem stt (d a : Sel) (st : BitVec 4) (pol : BitVec 2) : Statement (.stt d a st pol) :=
  of_word rfl (by simp [decode, decodeClass9, need])
theorem stt2 (d a : Sel) (st : BitVec 4) (pol : BitVec 2) : Statement (.stt2 d a st pol) :=
  of_word rfl (by simp [decode, decodeClass9, need])
theorem stt4 (d a : Sel) (st : BitVec 4) (pol : BitVec 2) : Statement (.stt4 d a st pol) :=
  of_word rfl (by simp [decode, decodeClass9, need])
theorem stg (d a : Sel) (st : BitVec 4) (pol : BitVec 2) : Statement (.stg d a st pol) :=
  of_word rfl (by simp [decode, decodeClass9, need])
theorem stg2 (d a : Sel) (st : BitVec 4) (pol : BitVec 2) : Statement (.stg2 d a st pol) :=
  of_word rfl (by simp [decode, decodeClass9, need])
theorem stg4 (d a : Sel) (st : BitVec 4) (pol : BitVec 2) : Statement (.stg4 d a st pol) :=
  of_word rfl (by simp [decode, decodeClass9, need])
theorem stgr (d a : Sel) (st : BitVec 4) (pol : BitVec 2) : Statement (.stgr d a st pol) :=
  of_word rfl (by simp [decode, decodeClass9, need])
theorem sttr (d a : Sel) (st : BitVec 4) (pol : BitVec 2) : Statement (.sttr d a st pol) :=
  of_word rfl (by simp [decode, decodeClass9, need])
theorem atg (d a : Sel) (st : BitVec 4) (op : AOp) : Statement (.atg d a st op) :=
  of_word rfl (by simp [decode, decodeClassA, needSome, need])
theorem atgr (d a : Sel) (st : BitVec 4) (op : AOp) : Statement (.atgr d a st op) :=
  of_word rfl (by simp [decode, decodeClassA, needSome, need])
theorem casg (d a : Sel) (st : BitVec 4) : Statement (.casg d a st) :=
  of_word rfl (by simp [decode, decodeClassA, need])
theorem ats (d a : Sel) (st : BitVec 4) (op : AOp) : Statement (.ats d a st op) :=
  of_word rfl (by simp [decode, decodeClassA, needSome, need])
theorem atsr (d a : Sel) (st : BitVec 4) (op : AOp) : Statement (.atsr d a st op) :=
  of_word rfl (by simp [decode, decodeClassA, needSome, need])
theorem cass (d a : Sel) (st : BitVec 4) : Statement (.cass d a st) :=
  of_word rfl (by simp [decode, decodeClassA, need])
theorem llock (d a : Sel) (st : BitVec 4) : Statement (.llock d a st) :=
  of_word rfl (by simp [decode, decodeClassA, need])
theorem ltry (d a : Sel) (st : BitVec 4) : Statement (.ltry d a st) :=
  of_word rfl (by simp [decode, decodeClassA, need])
theorem lunlk (d a : Sel) (st : BitVec 4) : Statement (.lunlk d a st) :=
  of_word rfl (by simp [decode, decodeClassA, need])
theorem lstat (d a : Sel) (st : BitVec 4) : Statement (.lstat d a st) :=
  of_word rfl (by simp [decode, decodeClassA, need])
theorem fence (sc : Scope) : Statement (.fence sc) :=
  of_word rfl (by simp [decode, decodeClassA, needSome, need])
theorem fncx (sc : Scope) (mask : BitVec 16) : Statement (.fncx sc mask) :=
  of_word rfl (by simp [decode, decodeClassA, needSome, need])
theorem barv (d : Sel) (imm : BitVec 8) : Statement (.barv d imm) :=
  of_bar rfl (fun h => by
    simp [decode, decodeClassA]
    exact decodeBar_imm h _ _)
theorem barvReg (d a : Sel) : Statement (.barvReg d a) :=
  of_word rfl (by simp [decode, decodeClassA, decodeBar])
theorem barw (d : Sel) (imm : BitVec 8) : Statement (.barw d imm) :=
  of_bar rfl (fun h => by
    simp [decode, decodeClassA]
    exact decodeBar_imm h _ _)
theorem barwReg (d a : Sel) : Statement (.barwReg d a) :=
  of_word rfl (by simp [decode, decodeClassA, decodeBar])
theorem bars (d : Sel) (imm : BitVec 8) : Statement (.bars d imm) :=
  of_bar rfl (fun h => by
    simp [decode, decodeClassA]
    exact decodeBar_imm h _ _)
theorem barsReg (d a : Sel) : Statement (.barsReg d a) :=
  of_word rfl (by simp [decode, decodeClassA, decodeBar])
theorem barq (d : Sel) (imm : BitVec 8) : Statement (.barq d imm) :=
  of_bar rfl (fun h => by
    simp [decode, decodeClassA]
    exact decodeBar_imm h _ _)
theorem barqReg (d a : Sel) : Statement (.barqReg d a) :=
  of_word rfl (by simp [decode, decodeClassA, decodeBar])
theorem cpy (d a b : Sel) : Statement (.cpy d a b) :=
  of_word rfl (by simp [decode, decodeClassB])
theorem bcpy (d a b : Sel) : Statement (.bcpy d a b) :=
  of_word rfl (by simp [decode, decodeClassB])
theorem tcpy (d a b : Sel) : Statement (.tcpy d a b) :=
  of_word rfl (by simp [decode, decodeClassB])
theorem kvapp (d a b : Sel) : Statement (.kvapp d a b) :=
  of_word rfl (by simp [decode, decodeClassB])
theorem pfg (a : Sel) (st : BitVec 4) (pol : BitVec 2) : Statement (.pfg a st pol) :=
  of_word rfl (by simp [decode, decodeClassB, need])
theorem sinv (a b : Sel) : Statement (.sinv a b) :=
  of_word rfl (by simp [decode, decodeClassB, need])
theorem sflsh (a b : Sel) : Statement (.sflsh a b) :=
  of_word rfl (by simp [decode, decodeClassB, need])
theorem selt (d a b : Sel) : Statement (.selt d a b) :=
  of_word rfl (by simp [decode, decodeClassB])
theorem dld (d a b : Sel) : Statement (.dld d a b) :=
  of_word rfl (by simp [decode, decodeClassC])
theorem dldl (d a b : Sel) : Statement (.dldl d a b) :=
  of_word rfl (by simp [decode, decodeClassC])
theorem dswap : Statement (.dswap) :=
  of_word rfl (by simp [decode, decodeClassC, need])
theorem dstr (d a b : Sel) : Statement (.dstr d a b) :=
  of_word rfl (by simp [decode, decodeClassC])
theorem dstrn (d a b : Sel) : Statement (.dstrn d a b) :=
  of_word rfl (by simp [decode, decodeClassC])
theorem dzro (imm : BitVec 16) : Statement (.dzro imm) :=
  of_word rfl (by simp [decode, decodeClassC, need])
theorem ddrn (d a b : Sel) : Statement (.ddrn d a b) :=
  of_word rfl (by simp [decode, decodeClassC])
theorem ddrq (d a b : Sel) : Statement (.ddrq d a b) :=
  of_word rfl (by simp [decode, decodeClassC])
theorem dgang (d a : Sel) : Statement (.dgang d a) :=
  of_word rfl (by simp [decode, decodeClassC, need])
theorem dwait (d : Sel) : Statement (.dwait d) :=
  of_word rfl (by simp [decode, decodeClassC, need])
theorem dpass (d a : Sel) : Statement (.dpass d a) :=
  of_word rfl (by simp [decode, decodeClassC, need])
theorem spgm (d a : Sel) : Statement (.spgm d a) :=
  of_word rfl (by simp [decode, decodeClassC, need])
theorem dscr (d a b : Sel) : Statement (.dscr d a b) :=
  of_word rfl (by simp [decode, decodeClassC])
theorem smrg (d a b : Sel) : Statement (.smrg d a b) :=
  of_word rfl (by simp [decode, decodeClassC])
theorem lnch (d a : Sel) : Statement (.lnch d a) :=
  of_word rfl (by simp [decode, decodeClassD, need])
theorem lnchs (d a b : Sel) : Statement (.lnchs d a b) :=
  of_word rfl (by simp [decode, decodeClassD])
theorem rslv (d a b : Sel) : Statement (.rslv d a b) :=
  of_word rfl (by simp [decode, decodeClassD])
theorem vsq (d a : Sel) : Statement (.vsq d a) :=
  of_word rfl (by simp [decode, decodeClassD, need])
theorem vqry (d a : Sel) : Statement (.vqry d a) :=
  of_word rfl (by simp [decode, decodeClassD, need])
theorem waitg (d a : Sel) : Statement (.waitg d a) :=
  of_word rfl (by simp [decode, decodeClassD, need])
theorem loc (d : Sel) : Statement (.loc d) :=
  of_word rfl (by simp [decode, decodeClassD, need])
theorem hosti (d a : Sel) : Statement (.hosti d a) :=
  of_word rfl (by simp [decode, decodeClassD, need])
theorem srd (d : Sel) (imm : BitVec 16) : Statement (.srd d imm) :=
  of_word rfl (by simp [decode, decodeClassE])
theorem swr (d : Sel) (imm : BitVec 16) : Statement (.swr d imm) :=
  of_word rfl (by simp [decode, decodeClassE])
theorem trap (imm : BitVec 16) : Statement (.trap imm) :=
  of_word rfl (by simp [decode, decodeClassE, need])
theorem eret : Statement (.eret) :=
  of_word rfl (by simp [decode, decodeClassE, need])
theorem tlwr (d a b : Sel) : Statement (.tlwr d a b) :=
  of_word rfl (by simp [decode, decodeClassE])
theorem kvfrk (d a b : Sel) : Statement (.kvfrk d a b) :=
  of_word rfl (by simp [decode, decodeClassE])
theorem migr (d a b : Sel) : Statement (.migr d a b) :=
  of_word rfl (by simp [decode, decodeClassE])
theorem ptinv (a b : Sel) : Statement (.ptinv a b) :=
  of_word rfl (by simp [decode, decodeClassE, need])
theorem dieop (d a : Sel) : Statement (.dieop d a) :=
  of_word rfl (by simp [decode, decodeClassE, need])
theorem himm (p : BitVec 24) : Statement (.himm p) :=
  of_word rfl (by simp [decode, decodeClassF])
theorem hsrc (src : Sel) : Statement (.hsrc src) := by
  intro width w hw h
  cases h
  have hs : src ≠ 0xFF#8 := by
    rintro rfl
    simp [wellFormed, hsrcFieldOk] at hw
  simp [decode, decodeClassF, need, hs]
theorem hrnd (m : RMode) : Statement (.hrnd m) :=
  of_word rfl (by simp [decode, decodeClassF, needSome, need])
theorem hord (f : Bool) (u : BitVec 2) (sc : Scope) : Statement (.hord f u sc) :=
  of_word rfl (by
    obtain ⟨h1, h2, h3, h4, h5⟩ := hord_fields f u sc
    simp only [decode, decodeClassF, needSome, need, wOp_mkRR, wD_mkRR, wA_mkRR, wB_mkRR, h1, h2, h3, h4, h5]
    rfl)
theorem hpol (pol : BitVec 2) : Statement (.hpol pol) :=
  of_word rfl (by simp [decode, decodeClassF, need])
theorem hsch (c : BitVec 2) : Statement (.hsch c) :=
  of_word rfl (by simp [decode, decodeClassF, need])
theorem hoff (off : BitVec 24) : Statement (.hoff off) :=
  of_word rfl (by simp [decode, decodeClassF])
theorem issueSelect (core quad : Nat) : Statement (.issueSelect core quad) := of_event rfl
theorem groupSwap (core quad : Nat) : Statement (.groupSwap core quad) := of_event rfl
theorem queueThreadIssue (qcore : Nat) : Statement (.queueThreadIssue qcore) := of_event rfl
theorem arrayOpStart (core pipe : Nat) : Statement (.arrayOpStart core pipe) := of_event rfl
theorem arrayOpComplete (core pipe : Nat) : Statement (.arrayOpComplete core pipe) := of_event rfl
theorem engineCommandComplete (id : Nat) : Statement (.engineCommandComplete id) := of_event rfl
theorem loadComplete (id : Nat) : Statement (.loadComplete id) := of_event rfl
theorem storePerformed (id : Nat) : Statement (.storePerformed id) := of_event rfl
theorem pauseEnd (k : GKey) (tid : Nat) : Statement (.pauseEnd k tid) := of_event rfl
theorem translationWalk (tlb ctx : Nat) (va : BitVec 64) : Statement (.translationWalk tlb ctx va) := of_event rfl
theorem lockTimeout (line : Nat) (k : GKey) : Statement (.lockTimeout line k) := of_event rfl
theorem deadlockBroken (k : GKey) : Statement (.deadlockBroken k) := of_event rfl
theorem dispatchStep (choice : Nat) : Statement (.dispatchStep choice) := of_event rfl
theorem stagingComplete (t : TKey) : Statement (.stagingComplete t) := of_event rfl
theorem preemptStarvation (queue : Nat) : Statement (.preemptStarvation queue) := of_event rfl
theorem deferralLimit (t : TKey) : Statement (.deferralLimit t) := of_event rfl
theorem trapSaveTimeout (t : TKey) : Statement (.trapSaveTimeout t) := of_event rfl
theorem teamSave (t : TKey) : Statement (.teamSave t) := of_event rfl
theorem teamMigrate (t : TKey) (die : Nat) : Statement (.teamMigrate t die) := of_event rfl
theorem gridComplete (ctx grid : Nat) : Statement (.gridComplete ctx grid) := of_event rfl
theorem spillwayReclaim (base : Nat) : Statement (.spillwayReclaim base) := of_event rfl
theorem migrationLineMove (ctx : Nat) (va : Nat) : Statement (.migrationLineMove ctx va) := of_event rfl
theorem rds (die line : Nat) : Statement (.rds die line) := of_event rfl
theorem rdx (die line : Nat) : Statement (.rdx die line) := of_event rfl
theorem upg (die line : Nat) : Statement (.upg die line) := of_event rfl
theorem wb (die line : Nat) : Statement (.wb die line) := of_event rfl
theorem evc (die line : Nat) : Statement (.evc die line) := of_event rfl
theorem fwdS (die line : Nat) : Statement (.fwdS die line) := of_event rfl
theorem fwdX (die line : Nat) : Statement (.fwdX die line) := of_event rfl
theorem inv (die line : Nat) : Statement (.inv die line) := of_event rfl
theorem data (die line : Nat) : Statement (.data die line) := of_event rfl
theorem invack (die line : Nat) : Statement (.invack die line) := of_event rfl
theorem fack (line : Nat) : Statement (.fack line) := of_event rfl
theorem done (die line : Nat) : Statement (.done die line) := of_event rfl
theorem binv (die line : Nat) : Statement (.binv die line) := of_event rfl
theorem snoopData (half : HostHalf) : Statement (.snoopData half) := of_event rfl
theorem snoopInvalidate (half : HostHalf) : Statement (.snoopInvalidate half) := of_event rfl
theorem snoopCurrent (half : HostHalf) : Statement (.snoopCurrent half) := of_event rfl
theorem hostHalfGrant (half : HostHalf) (excl : Bool) (data : List Word) : Statement (.hostHalfGrant half excl data) := of_event rfl
theorem hostAgentAccess (a : HostAccess) (store : Option Word) : Statement (.hostAgentAccess a store) := of_event rfl
theorem remoteLoad (src : Sender) (ctx : Nat) (path : List Tag16) (addr : Nat) : Statement (.remoteLoad src ctx path addr) := of_event rfl
theorem remoteStore (src : Sender) (ctx : Nat) (path : List Tag16) (addr : Nat) (x : Word) : Statement (.remoteStore src ctx path addr x) := of_event rfl
theorem remoteAtomic (src : Sender) (ctx : Nat) (path : List Tag16) (addr : Nat) (op : AOp) (tag : Tag) (x : Word) : Statement (.remoteAtomic src ctx path addr op tag x) := of_event rfl
theorem openNotice (src : Sender) (ctx : Nat) (v : Tag16) : Statement (.openNotice src ctx v) := of_event rfl
theorem openNoticeAck (peer : Sender) (ctx : Nat) (v : Tag16) : Statement (.openNoticeAck peer ctx v) := of_event rfl
theorem commitNotice (src : Sender) (ctx : Nat) (v : Tag16) : Statement (.commitNotice src ctx v) := of_event rfl
theorem commitNoticeAck (peer : Sender) (ctx : Nat) (v : Tag16) : Statement (.commitNoticeAck peer ctx v) := of_event rfl
theorem squashNotice (src : Sender) (ctx : Nat) (v : Tag16) : Statement (.squashNotice src ctx v) := of_event rfl
theorem dropReport (r : DropReport) : Statement (.dropReport r) := of_event rfl
theorem peerRefuse (id : Nat) : Statement (.peerRefuse id) := of_event rfl
theorem peerTimeout (peer : Nat) : Statement (.peerTimeout peer) := of_event rfl
theorem linkDown (port : Nat) : Statement (.linkDown port) := of_event rfl
theorem linkTrain (port : Nat) (lanes : BitVec 6) (rate : BitVec 8) (offer : List Feature) (peers : List Nat) : Statement (.linkTrain port lanes rate offer peers) := of_event rfl
theorem linkProtocolError (e : LinkError) : Statement (.linkProtocolError e) := of_event rfl
theorem dieOfflineDone (die : Nat) : Statement (.dieOfflineDone die) := of_event rfl
theorem dieOnlineDone (die : Nat) (ok : Bool) : Statement (.dieOnlineDone die ok) := of_event rfl
theorem dieFailure (die : Nat) : Statement (.dieFailure die) := of_event rfl
theorem reportedError (e : ErrorSite) (unit entry : Nat) (addr : BitVec 64) : Statement (.reportedError e unit entry addr) := of_event rfl
theorem heatmapRefresh (die : Nat) (zones : BitVec 64) : Statement (.heatmapRefresh die zones) := of_event rfl
theorem thermalThrottle : Statement (.thermalThrottle) := of_event rfl
theorem criticalTemperature : Statement (.criticalTemperature) := of_event rfl
theorem boot (ok : Bool) (arg : BitVec 64) (host number : Nat) : Statement (.boot ok arg host number) := of_event rfl
theorem mailboxRecovery (image : Nat) : Statement (.mailboxRecovery image) := of_event rfl
theorem mailboxIdentity : Statement (.mailboxIdentity) := of_event rfl
theorem mailboxAttestation (nonce : BitVec 256) : Statement (.mailboxAttestation nonce) := of_event rfl
theorem mailboxDomainMap : Statement (.mailboxDomainMap) := of_event rfl
theorem ctxCreate (block : Nat) : Statement (.ctxCreate block) := of_event rfl
theorem ctxTeardown (block : Nat) : Statement (.ctxTeardown block) := of_event rfl
theorem ctxTeardownDone (ctx : Nat) : Statement (.ctxTeardownDone ctx) := of_event rfl
theorem ctxSwitchOut (block : Nat) : Statement (.ctxSwitchOut block) := of_event rfl
theorem ctxSwitchOutDone (ctx : Nat) : Statement (.ctxSwitchOutDone ctx) := of_event rfl
theorem ctxSwitchIn (block : Nat) : Statement (.ctxSwitchIn block) := of_event rfl
theorem qtStart (slot : Nat) (x : BitVec 64) : Statement (.qtStart slot x) := of_event rfl
theorem qtStop (slot : Nat) : Statement (.qtStop slot) := of_event rfl
theorem qtctlSetFields (slot : Nat) (x : BitVec 64) : Statement (.qtctlSetFields slot x) := of_event rfl
theorem errcntClear : Statement (.errcntClear) := of_event rfl
theorem hostRegisterWrite (offset bytes : Nat) (x : BitVec 64) : Statement (.hostRegisterWrite offset bytes x) := of_event rfl
theorem eventPost : Statement (.eventPost) := of_event rfl
theorem msixVectorUnmask (w : MsixWrite) : Statement (.msixVectorUnmask w) := of_event rfl

end Sys2Proof.Laws.Encoding
end

