-- ==== Sys2Proof/Laws/Rows.lean ====
section
/-! SUPPORT. Every instruction of classes 0x0 to 0x6 gives what its row of Safety/Lanes.lean says. -/

namespace Sys2Proof.Machine

set_option Elab.async false
set_option linter.unusedSimpArgs false

variable {d a b : Sel} {imm : BitVec 8} {s : State} {g : Group} {ts : List Thread}

theorem withValues_of_carries {v : View} {sl : Slots} {srcs : List Sel} {T : Tag} {accept : Tag → Bool} (hl : sl.list = srcs)
    (hne : srcs ≠ []) (hc : Carries v srcs T) (ha : accept T = true) (hv : T ≠ .void) (k : Tag → LaneOut) :
    v.withValues sl accept k = .ok (k T) := by
  unfold View.withValues
  rw [values_of_carries hl hne hc ha hv]

theorem onTag_eq (v : View) (t : Tag) (iop : List Word → Word) (fop : Fmt → List Nat → Nat × Fl) (srcs : List Word) :
    onTag v t iop fop srcs = wordOrFloat t v (iop srcs) fop srcs := rfl

theorem nth_zero {α : Type} (a : α) (l : List α) (d : α) : nth (a :: l) 0 d = a := rfl
theorem nth_one {α : Type} (a b : α) (l : List α) (d : α) : nth (a :: b :: l) 1 d = b := rfl
theorem nth_two {α : Type} (a b c : α) (l : List α) (d : α) : nth (a :: b :: c :: l) 2 d = c := rfl

theorem genTag_ne {T : Tag} (h : genTag T = true) : T ≠ .void := by rintro rfl; simp [genTag] at h
theorem immTag_ne {T : Tag} (h : immTag T = true) : T ≠ .void := by rintro rfl; simp [immTag] at h
theorem fltTag_ne {T : Tag} (h : fltTag T = true) : T ≠ .void := by rintro rfl; simp [fltTag] at h
theorem satTag_ne {T : Tag} (h : satTag T = true) : T ≠ .void := by rintro rfl; simp [satTag] at h
theorem shiftTag_ne {T : Tag} (h : shiftTag T = true) : T ≠ .void := by rintro rfl; simp [shiftTag] at h
theorem eqTag_ne {T : Tag} (h : eqTag T = true) : T ≠ .void := by rintro rfl; simp [eqTag] at h
theorem oneTag_ne {T U : Tag} (hu : U ≠ .void) (h : (T == U) = true) : T ≠ .void := by rintro rfl; exact hu (eq_of_beq h).symm

theorem add_gives {row : ValueRow} {T : Thread → Tag} (hr : arithRow (.add d a b) = some row) (h : Chosen (.add d a b) s g ts)
    (hok : ∀ t ∈ ts, row.accept (T t) = true ∧ Carries ⟨g, t⟩ (row.srcs ⟨g, t⟩) (T t)) :
    Gives (.add d a b) s g ts row.d (fun v => ⟨(row.out (T v.t) v).1, row.tag (T v.t)⟩) (fun v => (row.out (T v.t) v).2) := by
  simp only [arithRow, Option.some.injEq] at hr
  subst hr
  refine gives_of_lane (op := fun _ => laneAdd d a b) (exec_add s) h (fun t ht => ?_)
  obtain ⟨ha, hc⟩ := hok t ht
  have hs := h.src_none rfl (fun t ht => by simp only [hintsOk, Bool.and_eq_true] at ht; exact ht.1.1.1.1.2) t ht
  unfold laneAdd gen2
  refine (withValues_of_carries ?_ ?_ hc ha (genTag_ne ha) _).trans ?_
  · simp [View.slots, Slots.list, hs, row1, row2]
  · simp [row1, row2]
  · simp only [onTag_eq, nth_zero, nth_one, nth_two, row2, row1, id, iopMin, iopMax, fopAdd, fopSub, fopMul] <;> rfl

theorem sub_gives {row : ValueRow} {T : Thread → Tag} (hr : arithRow (.sub d a b) = some row) (h : Chosen (.sub d a b) s g ts)
    (hok : ∀ t ∈ ts, row.accept (T t) = true ∧ Carries ⟨g, t⟩ (row.srcs ⟨g, t⟩) (T t)) :
    Gives (.sub d a b) s g ts row.d (fun v => ⟨(row.out (T v.t) v).1, row.tag (T v.t)⟩) (fun v => (row.out (T v.t) v).2) := by
  simp only [arithRow, Option.some.injEq] at hr
  subst hr
  refine gives_of_lane (op := fun _ => laneSub d a b) (exec_sub s) h (fun t ht => ?_)
  obtain ⟨ha, hc⟩ := hok t ht
  have hs := h.src_none rfl (fun t ht => by simp only [hintsOk, Bool.and_eq_true] at ht; exact ht.1.1.1.1.2) t ht
  unfold laneSub gen2
  refine (withValues_of_carries ?_ ?_ hc ha (genTag_ne ha) _).trans ?_
  · simp [View.slots, Slots.list, hs, row1, row2]
  · simp [row1, row2]
  · simp only [onTag_eq, nth_zero, nth_one, nth_two, row2, row1, id, iopMin, iopMax, fopAdd, fopSub, fopMul] <;> rfl

theorem mul_gives {row : ValueRow} {T : Thread → Tag} (hr : arithRow (.mul d a b) = some row) (h : Chosen (.mul d a b) s g ts)
    (hok : ∀ t ∈ ts, row.accept (T t) = true ∧ Carries ⟨g, t⟩ (row.srcs ⟨g, t⟩) (T t)) :
    Gives (.mul d a b) s g ts row.d (fun v => ⟨(row.out (T v.t) v).1, row.tag (T v.t)⟩) (fun v => (row.out (T v.t) v).2) := by
  simp only [arithRow, Option.some.injEq] at hr
  subst hr
  refine gives_of_lane (op := fun _ => laneMul d a b) (exec_mul s) h (fun t ht => ?_)
  obtain ⟨ha, hc⟩ := hok t ht
  have hs := h.src_none rfl (fun t ht => by simp only [hintsOk, Bool.and_eq_true] at ht; exact ht.1.1.1.1.2) t ht
  unfold laneMul gen2
  refine (withValues_of_carries ?_ ?_ hc ha (genTag_ne ha) _).trans ?_
  · simp [View.slots, Slots.list, hs, row1, row2]
  · simp [row1, row2]
  · simp only [onTag_eq, nth_zero, nth_one, nth_two, row2, row1, id, iopMin, iopMax, fopAdd, fopSub, fopMul] <;> rfl

theorem min_gives {row : ValueRow} {T : Thread → Tag} (hr : arithRow (.min d a b) = some row) (h : Chosen (.min d a b) s g ts)
    (hok : ∀ t ∈ ts, row.accept (T t) = true ∧ Carries ⟨g, t⟩ (row.srcs ⟨g, t⟩) (T t)) :
    Gives (.min d a b) s g ts row.d (fun v => ⟨(row.out (T v.t) v).1, row.tag (T v.t)⟩) (fun v => (row.out (T v.t) v).2) := by
  simp only [arithRow, Option.some.injEq] at hr
  subst hr
  refine gives_of_lane (op := fun _ => laneMin d a b) (exec_min s) h (fun t ht => ?_)
  obtain ⟨ha, hc⟩ := hok t ht
  have hs := h.src_none rfl (fun t ht => by simp only [hintsOk, Bool.and_eq_true] at ht; exact ht.1.1.1.1.2) t ht
  unfold laneMin gen2
  refine (withValues_of_carries ?_ ?_ hc ha (genTag_ne ha) _).trans ?_
  · simp [View.slots, Slots.list, hs, row1, row2]
  · simp [row1, row2]
  · simp only [onTag_eq, nth_zero, nth_one, nth_two, row2, row1, id, iopMin, iopMax, fopAdd, fopSub, fopMul] <;> rfl

theorem max_gives {row : ValueRow} {T : Thread → Tag} (hr : arithRow (.max d a b) = some row) (h : Chosen (.max d a b) s g ts)
    (hok : ∀ t ∈ ts, row.accept (T t) = true ∧ Carries ⟨g, t⟩ (row.srcs ⟨g, t⟩) (T t)) :
    Gives (.max d a b) s g ts row.d (fun v => ⟨(row.out (T v.t) v).1, row.tag (T v.t)⟩) (fun v => (row.out (T v.t) v).2) := by
  simp only [arithRow, Option.some.injEq] at hr
  subst hr
  refine gives_of_lane (op := fun _ => laneMax d a b) (exec_max s) h (fun t ht => ?_)
  obtain ⟨ha, hc⟩ := hok t ht
  have hs := h.src_none rfl (fun t ht => by simp only [hintsOk, Bool.and_eq_true] at ht; exact ht.1.1.1.1.2) t ht
  unfold laneMax gen2
  refine (withValues_of_carries ?_ ?_ hc ha (genTag_ne ha) _).trans ?_
  · simp [View.slots, Slots.list, hs, row1, row2]
  · simp [row1, row2]
  · simp only [onTag_eq, nth_zero, nth_one, nth_two, row2, row1, id, iopMin, iopMax, fopAdd, fopSub, fopMul] <;> rfl

theorem addi_gives {row : ValueRow} {T : Thread → Tag} (hr : arithRow (.addi d a imm) = some row) (h : Chosen (.addi d a imm) s g ts)
    (hok : ∀ t ∈ ts, row.accept (T t) = true ∧ Carries ⟨g, t⟩ (row.srcs ⟨g, t⟩) (T t)) :
    Gives (.addi d a imm) s g ts row.d (fun v => ⟨(row.out (T v.t) v).1, row.tag (T v.t)⟩) (fun v => (row.out (T v.t) v).2) := by
  simp only [arithRow, Option.some.injEq] at hr
  subst hr
  refine gives_of_lane (op := fun _ => laneAddi d a imm) (exec_addi s) h (fun t ht => ?_)
  obtain ⟨ha, hc⟩ := hok t ht
  have hs := h.src_none rfl (fun t ht => by simp only [hintsOk, Bool.and_eq_true] at ht; exact ht.1.1.1.1.2) t ht
  unfold laneAddi genI
  refine (withValues_of_carries ?_ ?_ hc ha (immTag_ne ha) _).trans ?_
  · simp [View.slots, Slots.list, hs, row1, row2]
  · simp [row1, row2]
  · simp only [onTag_eq, nth_zero, nth_one, nth_two, row2, row1, id, iopMin, iopMax, fopAdd, fopSub, fopMul] <;> rfl

theorem muli_gives {row : ValueRow} {T : Thread → Tag} (hr : arithRow (.muli d a imm) = some row) (h : Chosen (.muli d a imm) s g ts)
    (hok : ∀ t ∈ ts, row.accept (T t) = true ∧ Carries ⟨g, t⟩ (row.srcs ⟨g, t⟩) (T t)) :
    Gives (.muli d a imm) s g ts row.d (fun v => ⟨(row.out (T v.t) v).1, row.tag (T v.t)⟩) (fun v => (row.out (T v.t) v).2) := by
  simp only [arithRow, Option.some.injEq] at hr
  subst hr
  refine gives_of_lane (op := fun _ => laneMuli d a imm) (exec_muli s) h (fun t ht => ?_)
  obtain ⟨ha, hc⟩ := hok t ht
  have hs := h.src_none rfl (fun t ht => by simp only [hintsOk, Bool.and_eq_true] at ht; exact ht.1.1.1.1.2) t ht
  unfold laneMuli genI
  refine (withValues_of_carries ?_ ?_ hc ha (immTag_ne ha) _).trans ?_
  · simp [View.slots, Slots.list, hs, row1, row2]
  · simp [row1, row2]
  · simp only [onTag_eq, nth_zero, nth_one, nth_two, row2, row1, id, iopMin, iopMax, fopAdd, fopSub, fopMul] <;> rfl

theorem mini_gives {row : ValueRow} {T : Thread → Tag} (hr : arithRow (.mini d a imm) = some row) (h : Chosen (.mini d a imm) s g ts)
    (hok : ∀ t ∈ ts, row.accept (T t) = true ∧ Carries ⟨g, t⟩ (row.srcs ⟨g, t⟩) (T t)) :
    Gives (.mini d a imm) s g ts row.d (fun v => ⟨(row.out (T v.t) v).1, row.tag (T v.t)⟩) (fun v => (row.out (T v.t) v).2) := by
  simp only [arithRow, Option.some.injEq] at hr
  subst hr
  refine gives_of_lane (op := fun _ => laneMini d a imm) (exec_mini s) h (fun t ht => ?_)
  obtain ⟨ha, hc⟩ := hok t ht
  have hs := h.src_none rfl (fun t ht => by simp only [hintsOk, Bool.and_eq_true] at ht; exact ht.1.1.1.1.2) t ht
  unfold laneMini genI
  refine (withValues_of_carries ?_ ?_ hc ha (immTag_ne ha) _).trans ?_
  · simp [View.slots, Slots.list, hs, row1, row2]
  · simp [row1, row2]
  · simp only [onTag_eq, nth_zero, nth_one, nth_two, row2, row1, id, iopMin, iopMax, fopAdd, fopSub, fopMul] <;> rfl

theorem maxi_gives {row : ValueRow} {T : Thread → Tag} (hr : arithRow (.maxi d a imm) = some row) (h : Chosen (.maxi d a imm) s g ts)
    (hok : ∀ t ∈ ts, row.accept (T t) = true ∧ Carries ⟨g, t⟩ (row.srcs ⟨g, t⟩) (T t)) :
    Gives (.maxi d a imm) s g ts row.d (fun v => ⟨(row.out (T v.t) v).1, row.tag (T v.t)⟩) (fun v => (row.out (T v.t) v).2) := by
  simp only [arithRow, Option.some.injEq] at hr
  subst hr
  refine gives_of_lane (op := fun _ => laneMaxi d a imm) (exec_maxi s) h (fun t ht => ?_)
  obtain ⟨ha, hc⟩ := hok t ht
  have hs := h.src_none rfl (fun t ht => by simp only [hintsOk, Bool.and_eq_true] at ht; exact ht.1.1.1.1.2) t ht
  unfold laneMaxi genI
  refine (withValues_of_carries ?_ ?_ hc ha (immTag_ne ha) _).trans ?_
  · simp [View.slots, Slots.list, hs, row1, row2]
  · simp [row1, row2]
  · simp only [onTag_eq, nth_zero, nth_one, nth_two, row2, row1, id, iopMin, iopMax, fopAdd, fopSub, fopMul] <;> rfl

theorem fma_gives {row : ValueRow} {T : Thread → Tag} (hr : arithRow (.fma d a b) = some row) (h : Chosen (.fma d a b) s g ts)
    (hok : ∀ t ∈ ts, row.accept (T t) = true ∧ Carries ⟨g, t⟩ (row.srcs ⟨g, t⟩) (T t)) :
    Gives (.fma d a b) s g ts row.d (fun v => ⟨(row.out (T v.t) v).1, row.tag (T v.t)⟩) (fun v => (row.out (T v.t) v).2) := by
  simp only [arithRow, Option.some.injEq] at hr
  subst hr
  refine gives_of_lane (op := fun _ => laneFma d a b) (exec_fma s) h (fun t ht => ?_)
  obtain ⟨ha, hc⟩ := hok t ht
  unfold laneFma
  refine (withValues_of_carries ?_ ?_ hc ha (genTag_ne ha) _).trans ?_
  · simp only [View.slots, Slots.list]
    cases t.hints.src <;> rfl
  · simp [row1, row2]
  · simp only [onTag_eq, nth_zero, nth_one, nth_two, row2, row1, id, iopMin, iopMax, fopAdd, fopSub, fopMul] <;> rfl

theorem abs_gives {row : ValueRow} {T : Thread → Tag} (hr : arithRow (.abs d a) = some row) (h : Chosen (.abs d a) s g ts)
    (hok : ∀ t ∈ ts, row.accept (T t) = true ∧ Carries ⟨g, t⟩ (row.srcs ⟨g, t⟩) (T t)) :
    Gives (.abs d a) s g ts row.d (fun v => ⟨(row.out (T v.t) v).1, row.tag (T v.t)⟩) (fun v => (row.out (T v.t) v).2) := by
  simp only [arithRow, Option.some.injEq] at hr
  subst hr
  refine gives_of_lane (op := fun _ => laneAbs d a) (exec_abs s) h (fun t ht => ?_)
  obtain ⟨ha, hc⟩ := hok t ht
  have hs := h.src_none rfl (fun t ht => by simp only [hintsOk, Bool.and_eq_true] at ht; exact ht.1.1.1.1.2) t ht
  unfold laneAbs
  refine (withValues_of_carries ?_ ?_ hc ha (genTag_ne ha) _).trans ?_
  · simp [View.slots, Slots.list, hs, row1, row2]
  · simp [row1, row2]
  · simp only [onTag_eq, nth_zero, nth_one, nth_two, row2, row1, id, iopMin, iopMax, fopAdd, fopSub, fopMul] <;> rfl

theorem neg_gives {row : ValueRow} {T : Thread → Tag} (hr : arithRow (.neg d a) = some row) (h : Chosen (.neg d a) s g ts)
    (hok : ∀ t ∈ ts, row.accept (T t) = true ∧ Carries ⟨g, t⟩ (row.srcs ⟨g, t⟩) (T t)) :
    Gives (.neg d a) s g ts row.d (fun v => ⟨(row.out (T v.t) v).1, row.tag (T v.t)⟩) (fun v => (row.out (T v.t) v).2) := by
  simp only [arithRow, Option.some.injEq] at hr
  subst hr
  refine gives_of_lane (op := fun _ => laneNeg d a) (exec_neg s) h (fun t ht => ?_)
  obtain ⟨ha, hc⟩ := hok t ht
  have hs := h.src_none rfl (fun t ht => by simp only [hintsOk, Bool.and_eq_true] at ht; exact ht.1.1.1.1.2) t ht
  unfold laneNeg
  refine (withValues_of_carries ?_ ?_ hc ha (genTag_ne ha) _).trans ?_
  · simp [View.slots, Slots.list, hs, row1, row2]
  · simp [row1, row2]
  · simp only [onTag_eq, nth_zero, nth_one, nth_two, row2, row1, id, iopMin, iopMax, fopAdd, fopSub, fopMul] <;> rfl

theorem cpsgn_gives {row : ValueRow} {T : Thread → Tag} (hr : arithRow (.cpsgn d a b) = some row) (h : Chosen (.cpsgn d a b) s g ts)
    (hok : ∀ t ∈ ts, row.accept (T t) = true ∧ Carries ⟨g, t⟩ (row.srcs ⟨g, t⟩) (T t)) :
    Gives (.cpsgn d a b) s g ts row.d (fun v => ⟨(row.out (T v.t) v).1, row.tag (T v.t)⟩) (fun v => (row.out (T v.t) v).2) := by
  simp only [arithRow, Option.some.injEq] at hr
  subst hr
  refine gives_of_lane (op := fun _ => laneCpsgn d a b) (exec_cpsgn s) h (fun t ht => ?_)
  obtain ⟨ha, hc⟩ := hok t ht
  have hs := h.src_none rfl (fun t ht => by simp only [hintsOk, Bool.and_eq_true] at ht; exact ht.1.1.1.1.2) t ht
  unfold laneCpsgn
  refine (withValues_of_carries ?_ ?_ hc ha (fltTag_ne ha) _).trans ?_
  · simp [View.slots, Slots.list, hs, row1, row2]
  · simp [row1, row2]
  · simp only [onTag_eq, nth_zero, nth_one, nth_two, row2, row1, id, iopMin, iopMax, fopAdd, fopSub, fopMul] <;> rfl

theorem sadd_gives {row : ValueRow} {T : Thread → Tag} (hr : arithRow (.sadd d a b) = some row) (h : Chosen (.sadd d a b) s g ts)
    (hok : ∀ t ∈ ts, row.accept (T t) = true ∧ Carries ⟨g, t⟩ (row.srcs ⟨g, t⟩) (T t)) :
    Gives (.sadd d a b) s g ts row.d (fun v => ⟨(row.out (T v.t) v).1, row.tag (T v.t)⟩) (fun v => (row.out (T v.t) v).2) := by
  simp only [arithRow, Option.some.injEq] at hr
  subst hr
  refine gives_of_lane (op := fun _ => laneSadd d a b) (exec_sadd s) h (fun t ht => ?_)
  obtain ⟨ha, hc⟩ := hok t ht
  have hs := h.src_none rfl (fun t ht => by simp only [hintsOk, Bool.and_eq_true] at ht; exact ht.1.1.1.1.2) t ht
  unfold laneSadd
  refine (withValues_of_carries ?_ ?_ hc ha (satTag_ne ha) _).trans ?_
  · simp [View.slots, Slots.list, hs, row1, row2]
  · simp [row1, row2]
  · simp only [onTag_eq, nth_zero, nth_one, nth_two, row2, row1, id, iopMin, iopMax, fopAdd, fopSub, fopMul] <;> rfl

theorem ssub_gives {row : ValueRow} {T : Thread → Tag} (hr : arithRow (.ssub d a b) = some row) (h : Chosen (.ssub d a b) s g ts)
    (hok : ∀ t ∈ ts, row.accept (T t) = true ∧ Carries ⟨g, t⟩ (row.srcs ⟨g, t⟩) (T t)) :
    Gives (.ssub d a b) s g ts row.d (fun v => ⟨(row.out (T v.t) v).1, row.tag (T v.t)⟩) (fun v => (row.out (T v.t) v).2) := by
  simp only [arithRow, Option.some.injEq] at hr
  subst hr
  refine gives_of_lane (op := fun _ => laneSsub d a b) (exec_ssub s) h (fun t ht => ?_)
  obtain ⟨ha, hc⟩ := hok t ht
  have hs := h.src_none rfl (fun t ht => by simp only [hintsOk, Bool.and_eq_true] at ht; exact ht.1.1.1.1.2) t ht
  unfold laneSsub
  refine (withValues_of_carries ?_ ?_ hc ha (satTag_ne ha) _).trans ?_
  · simp [View.slots, Slots.list, hs, row1, row2]
  · simp [row1, row2]
  · simp only [onTag_eq, nth_zero, nth_one, nth_two, row2, row1, id, iopMin, iopMax, fopAdd, fopSub, fopMul] <;> rfl

theorem mulhi_gives {row : ValueRow} {T : Thread → Tag} (hr : integerRow (.mulhi d a b) = some row) (h : Chosen (.mulhi d a b) s g ts)
    (hok : ∀ t ∈ ts, row.accept (T t) = true ∧ Carries ⟨g, t⟩ (row.srcs ⟨g, t⟩) (T t)) :
    Gives (.mulhi d a b) s g ts row.d (fun v => ⟨(row.out (T v.t) v).1, row.tag (T v.t)⟩) (fun v => (row.out (T v.t) v).2) := by
  simp only [integerRow, Option.some.injEq] at hr
  subst hr
  refine gives_of_lane (op := fun _ => laneMulhi d a b) (exec_mulhi s) h (fun t ht => ?_)
  obtain ⟨ha, hc⟩ := hok t ht
  have hs := h.src_none rfl (fun t ht => by simp only [hintsOk, Bool.and_eq_true] at ht; exact ht.1.1.1.1.2) t ht
  unfold laneMulhi int2
  refine (withValues_of_carries ?_ ?_ hc ha ((oneTag_ne (by decide)) ha) _).trans ?_
  · simp [View.slots, Slots.list, hs, row1, row2]
  · simp [row1, row2]
  · simp only [row2, row1, id, shlWord, shrWord, sraWord] <;> rfl

theorem mulhn_gives {row : ValueRow} {T : Thread → Tag} (hr : integerRow (.mulhn d a b) = some row) (h : Chosen (.mulhn d a b) s g ts)
    (hok : ∀ t ∈ ts, row.accept (T t) = true ∧ Carries ⟨g, t⟩ (row.srcs ⟨g, t⟩) (T t)) :
    Gives (.mulhn d a b) s g ts row.d (fun v => ⟨(row.out (T v.t) v).1, row.tag (T v.t)⟩) (fun v => (row.out (T v.t) v).2) := by
  simp only [integerRow, Option.some.injEq] at hr
  subst hr
  refine gives_of_lane (op := fun _ => laneMulhn d a b) (exec_mulhn s) h (fun t ht => ?_)
  obtain ⟨ha, hc⟩ := hok t ht
  have hs := h.src_none rfl (fun t ht => by simp only [hintsOk, Bool.and_eq_true] at ht; exact ht.1.1.1.1.2) t ht
  unfold laneMulhn int2
  refine (withValues_of_carries ?_ ?_ hc ha ((oneTag_ne (by decide)) ha) _).trans ?_
  · simp [View.slots, Slots.list, hs, row1, row2]
  · simp [row1, row2]
  · simp only [row2, row1, id, shlWord, shrWord, sraWord] <;> rfl

theorem div_gives {row : ValueRow} {T : Thread → Tag} (hr : integerRow (.div d a b) = some row) (h : Chosen (.div d a b) s g ts)
    (hok : ∀ t ∈ ts, row.accept (T t) = true ∧ Carries ⟨g, t⟩ (row.srcs ⟨g, t⟩) (T t)) :
    Gives (.div d a b) s g ts row.d (fun v => ⟨(row.out (T v.t) v).1, row.tag (T v.t)⟩) (fun v => (row.out (T v.t) v).2) := by
  simp only [integerRow, Option.some.injEq] at hr
  subst hr
  refine gives_of_lane (op := fun _ => laneDiv d a b) (exec_div s) h (fun t ht => ?_)
  obtain ⟨ha, hc⟩ := hok t ht
  have hs := h.src_none rfl (fun t ht => by simp only [hintsOk, Bool.and_eq_true] at ht; exact ht.1.1.1.1.2) t ht
  unfold laneDiv int2
  refine (withValues_of_carries ?_ ?_ hc ha ((oneTag_ne (by decide)) ha) _).trans ?_
  · simp [View.slots, Slots.list, hs, row1, row2]
  · simp [row1, row2]
  · simp only [row2, row1, id, shlWord, shrWord, sraWord] <;> rfl

theorem rem_gives {row : ValueRow} {T : Thread → Tag} (hr : integerRow (.rem d a b) = some row) (h : Chosen (.rem d a b) s g ts)
    (hok : ∀ t ∈ ts, row.accept (T t) = true ∧ Carries ⟨g, t⟩ (row.srcs ⟨g, t⟩) (T t)) :
    Gives (.rem d a b) s g ts row.d (fun v => ⟨(row.out (T v.t) v).1, row.tag (T v.t)⟩) (fun v => (row.out (T v.t) v).2) := by
  simp only [integerRow, Option.some.injEq] at hr
  subst hr
  refine gives_of_lane (op := fun _ => laneRem d a b) (exec_rem s) h (fun t ht => ?_)
  obtain ⟨ha, hc⟩ := hok t ht
  have hs := h.src_none rfl (fun t ht => by simp only [hintsOk, Bool.and_eq_true] at ht; exact ht.1.1.1.1.2) t ht
  unfold laneRem int2
  refine (withValues_of_carries ?_ ?_ hc ha ((oneTag_ne (by decide)) ha) _).trans ?_
  · simp [View.slots, Slots.list, hs, row1, row2]
  · simp [row1, row2]
  · simp only [row2, row1, id, shlWord, shrWord, sraWord] <;> rfl

theorem divn_gives {row : ValueRow} {T : Thread → Tag} (hr : integerRow (.divn d a b) = some row) (h : Chosen (.divn d a b) s g ts)
    (hok : ∀ t ∈ ts, row.accept (T t) = true ∧ Carries ⟨g, t⟩ (row.srcs ⟨g, t⟩) (T t)) :
    Gives (.divn d a b) s g ts row.d (fun v => ⟨(row.out (T v.t) v).1, row.tag (T v.t)⟩) (fun v => (row.out (T v.t) v).2) := by
  simp only [integerRow, Option.some.injEq] at hr
  subst hr
  refine gives_of_lane (op := fun _ => laneDivn d a b) (exec_divn s) h (fun t ht => ?_)
  obtain ⟨ha, hc⟩ := hok t ht
  have hs := h.src_none rfl (fun t ht => by simp only [hintsOk, Bool.and_eq_true] at ht; exact ht.1.1.1.1.2) t ht
  unfold laneDivn int2
  refine (withValues_of_carries ?_ ?_ hc ha ((oneTag_ne (by decide)) ha) _).trans ?_
  · simp [View.slots, Slots.list, hs, row1, row2]
  · simp [row1, row2]
  · simp only [row2, row1, id, shlWord, shrWord, sraWord] <;> rfl

theorem remn_gives {row : ValueRow} {T : Thread → Tag} (hr : integerRow (.remn d a b) = some row) (h : Chosen (.remn d a b) s g ts)
    (hok : ∀ t ∈ ts, row.accept (T t) = true ∧ Carries ⟨g, t⟩ (row.srcs ⟨g, t⟩) (T t)) :
    Gives (.remn d a b) s g ts row.d (fun v => ⟨(row.out (T v.t) v).1, row.tag (T v.t)⟩) (fun v => (row.out (T v.t) v).2) := by
  simp only [integerRow, Option.some.injEq] at hr
  subst hr
  refine gives_of_lane (op := fun _ => laneRemn d a b) (exec_remn s) h (fun t ht => ?_)
  obtain ⟨ha, hc⟩ := hok t ht
  have hs := h.src_none rfl (fun t ht => by simp only [hintsOk, Bool.and_eq_true] at ht; exact ht.1.1.1.1.2) t ht
  unfold laneRemn int2
  refine (withValues_of_carries ?_ ?_ hc ha ((oneTag_ne (by decide)) ha) _).trans ?_
  · simp [View.slots, Slots.list, hs, row1, row2]
  · simp [row1, row2]
  · simp only [row2, row1, id, shlWord, shrWord, sraWord] <;> rfl

theorem shl_gives {row : ValueRow} {T : Thread → Tag} (hr : integerRow (.shl d a b) = some row) (h : Chosen (.shl d a b) s g ts)
    (hok : ∀ t ∈ ts, row.accept (T t) = true ∧ Carries ⟨g, t⟩ (row.srcs ⟨g, t⟩) (T t)) :
    Gives (.shl d a b) s g ts row.d (fun v => ⟨(row.out (T v.t) v).1, row.tag (T v.t)⟩) (fun v => (row.out (T v.t) v).2) := by
  simp only [integerRow, Option.some.injEq] at hr
  subst hr
  refine gives_of_lane (op := fun _ => laneShl d a b) (exec_shl s) h (fun t ht => ?_)
  obtain ⟨ha, hc⟩ := hok t ht
  have hs := h.src_none rfl (fun t ht => by simp only [hintsOk, Bool.and_eq_true] at ht; exact ht.1.1.1.1.2) t ht
  unfold laneShl int2
  refine (withValues_of_carries ?_ ?_ hc ha (shiftTag_ne ha) _).trans ?_
  · simp [View.slots, Slots.list, hs, row1, row2]
  · simp [row1, row2]
  · simp only [row2, row1, id, shlWord, shrWord, sraWord] <;> rfl

theorem shr_gives {row : ValueRow} {T : Thread → Tag} (hr : integerRow (.shr d a b) = some row) (h : Chosen (.shr d a b) s g ts)
    (hok : ∀ t ∈ ts, row.accept (T t) = true ∧ Carries ⟨g, t⟩ (row.srcs ⟨g, t⟩) (T t)) :
    Gives (.shr d a b) s g ts row.d (fun v => ⟨(row.out (T v.t) v).1, row.tag (T v.t)⟩) (fun v => (row.out (T v.t) v).2) := by
  simp only [integerRow, Option.some.injEq] at hr
  subst hr
  refine gives_of_lane (op := fun _ => laneShr d a b) (exec_shr s) h (fun t ht => ?_)
  obtain ⟨ha, hc⟩ := hok t ht
  have hs := h.src_none rfl (fun t ht => by simp only [hintsOk, Bool.and_eq_true] at ht; exact ht.1.1.1.1.2) t ht
  unfold laneShr int2
  refine (withValues_of_carries ?_ ?_ hc ha (shiftTag_ne ha) _).trans ?_
  · simp [View.slots, Slots.list, hs, row1, row2]
  · simp [row1, row2]
  · simp only [row2, row1, id, shlWord, shrWord, sraWord] <;> rfl

theorem sra_gives {row : ValueRow} {T : Thread → Tag} (hr : integerRow (.sra d a b) = some row) (h : Chosen (.sra d a b) s g ts)
    (hok : ∀ t ∈ ts, row.accept (T t) = true ∧ Carries ⟨g, t⟩ (row.srcs ⟨g, t⟩) (T t)) :
    Gives (.sra d a b) s g ts row.d (fun v => ⟨(row.out (T v.t) v).1, row.tag (T v.t)⟩) (fun v => (row.out (T v.t) v).2) := by
  simp only [integerRow, Option.some.injEq] at hr
  subst hr
  refine gives_of_lane (op := fun _ => laneSra d a b) (exec_sra s) h (fun t ht => ?_)
  obtain ⟨ha, hc⟩ := hok t ht
  have hs := h.src_none rfl (fun t ht => by simp only [hintsOk, Bool.and_eq_true] at ht; exact ht.1.1.1.1.2) t ht
  unfold laneSra int2
  refine (withValues_of_carries ?_ ?_ hc ha (shiftTag_ne ha) _).trans ?_
  · simp [View.slots, Slots.list, hs, row1, row2]
  · simp [row1, row2]
  · have hmin : (if (View.val ⟨g, t⟩ b).toNat < 32 then (View.val ⟨g, t⟩ b).toNat else 31) = min (View.val ⟨g, t⟩ b).toNat 31 := by split <;> omega
    simp only [row2, row1, id, shlWord, shrWord, sraWord, hmin]

theorem rol_gives {row : ValueRow} {T : Thread → Tag} (hr : integerRow (.rol d a b) = some row) (h : Chosen (.rol d a b) s g ts)
    (hok : ∀ t ∈ ts, row.accept (T t) = true ∧ Carries ⟨g, t⟩ (row.srcs ⟨g, t⟩) (T t)) :
    Gives (.rol d a b) s g ts row.d (fun v => ⟨(row.out (T v.t) v).1, row.tag (T v.t)⟩) (fun v => (row.out (T v.t) v).2) := by
  simp only [integerRow, Option.some.injEq] at hr
  subst hr
  refine gives_of_lane (op := fun _ => laneRol d a b) (exec_rol s) h (fun t ht => ?_)
  obtain ⟨ha, hc⟩ := hok t ht
  have hs := h.src_none rfl (fun t ht => by simp only [hintsOk, Bool.and_eq_true] at ht; exact ht.1.1.1.1.2) t ht
  unfold laneRol int2
  refine (withValues_of_carries ?_ ?_ hc ha (shiftTag_ne ha) _).trans ?_
  · simp [View.slots, Slots.list, hs, row1, row2]
  · simp [row1, row2]
  · simp only [row2, row1, id, shlWord, shrWord, sraWord] <;> rfl

theorem shli_gives {row : ValueRow} {T : Thread → Tag} (hr : integerRow (.shli d a imm) = some row) (h : Chosen (.shli d a imm) s g ts)
    (hok : ∀ t ∈ ts, row.accept (T t) = true ∧ Carries ⟨g, t⟩ (row.srcs ⟨g, t⟩) (T t)) :
    Gives (.shli d a imm) s g ts row.d (fun v => ⟨(row.out (T v.t) v).1, row.tag (T v.t)⟩) (fun v => (row.out (T v.t) v).2) := by
  simp only [integerRow, Option.some.injEq] at hr
  subst hr
  refine gives_of_lane (op := fun _ => laneShli d a imm) (exec_shli s) h (fun t ht => ?_)
  obtain ⟨ha, hc⟩ := hok t ht
  have hs := h.src_none rfl (fun t ht => by simp only [hintsOk, Bool.and_eq_true] at ht; exact ht.1.1.1.1.2) t ht
  unfold laneShli int1
  refine (withValues_of_carries ?_ ?_ hc ha (shiftTag_ne ha) _).trans ?_
  · simp [View.slots, Slots.list, hs, row1, row2]
  · simp [row1, row2]
  · simp only [row2, row1, id, shlWord, shrWord, sraWord] <;> rfl

theorem shri_gives {row : ValueRow} {T : Thread → Tag} (hr : integerRow (.shri d a imm) = some row) (h : Chosen (.shri d a imm) s g ts)
    (hok : ∀ t ∈ ts, row.accept (T t) = true ∧ Carries ⟨g, t⟩ (row.srcs ⟨g, t⟩) (T t)) :
    Gives (.shri d a imm) s g ts row.d (fun v => ⟨(row.out (T v.t) v).1, row.tag (T v.t)⟩) (fun v => (row.out (T v.t) v).2) := by
  simp only [integerRow, Option.some.injEq] at hr
  subst hr
  refine gives_of_lane (op := fun _ => laneShri d a imm) (exec_shri s) h (fun t ht => ?_)
  obtain ⟨ha, hc⟩ := hok t ht
  have hs := h.src_none rfl (fun t ht => by simp only [hintsOk, Bool.and_eq_true] at ht; exact ht.1.1.1.1.2) t ht
  unfold laneShri int1
  refine (withValues_of_carries ?_ ?_ hc ha (shiftTag_ne ha) _).trans ?_
  · simp [View.slots, Slots.list, hs, row1, row2]
  · simp [row1, row2]
  · simp only [row2, row1, id, shlWord, shrWord, sraWord] <;> rfl

theorem srai_gives {row : ValueRow} {T : Thread → Tag} (hr : integerRow (.srai d a imm) = some row) (h : Chosen (.srai d a imm) s g ts)
    (hok : ∀ t ∈ ts, row.accept (T t) = true ∧ Carries ⟨g, t⟩ (row.srcs ⟨g, t⟩) (T t)) :
    Gives (.srai d a imm) s g ts row.d (fun v => ⟨(row.out (T v.t) v).1, row.tag (T v.t)⟩) (fun v => (row.out (T v.t) v).2) := by
  simp only [integerRow, Option.some.injEq] at hr
  subst hr
  refine gives_of_lane (op := fun _ => laneSrai d a imm) (exec_srai s) h (fun t ht => ?_)
  obtain ⟨ha, hc⟩ := hok t ht
  have hs := h.src_none rfl (fun t ht => by simp only [hintsOk, Bool.and_eq_true] at ht; exact ht.1.1.1.1.2) t ht
  unfold laneSrai int1
  refine (withValues_of_carries ?_ ?_ hc ha (shiftTag_ne ha) _).trans ?_
  · simp [View.slots, Slots.list, hs, row1, row2]
  · simp [row1, row2]
  · have hmin : (if imm.toNat < 32 then imm.toNat else 31) = min imm.toNat 31 := by split <;> omega
    simp only [row2, row1, id, shlWord, shrWord, sraWord, hmin]

theorem clz_gives {row : ValueRow} {T : Thread → Tag} (hr : integerRow (.clz d a) = some row) (h : Chosen (.clz d a) s g ts)
    (hok : ∀ t ∈ ts, row.accept (T t) = true ∧ Carries ⟨g, t⟩ (row.srcs ⟨g, t⟩) (T t)) :
    Gives (.clz d a) s g ts row.d (fun v => ⟨(row.out (T v.t) v).1, row.tag (T v.t)⟩) (fun v => (row.out (T v.t) v).2) := by
  simp only [integerRow, Option.some.injEq] at hr
  subst hr
  refine gives_of_lane (op := fun _ => laneClz d a) (exec_clz s) h (fun t ht => ?_)
  obtain ⟨ha, hc⟩ := hok t ht
  have hs := h.src_none rfl (fun t ht => by simp only [hintsOk, Bool.and_eq_true] at ht; exact ht.1.1.1.1.2) t ht
  unfold laneClz int1
  refine (withValues_of_carries ?_ ?_ hc ha (shiftTag_ne ha) _).trans ?_
  · simp [View.slots, Slots.list, hs, row1, row2]
  · simp [row1, row2]
  · simp only [row2, row1, id, shlWord, shrWord, sraWord] <;> rfl

theorem popc_gives {row : ValueRow} {T : Thread → Tag} (hr : integerRow (.popc d a) = some row) (h : Chosen (.popc d a) s g ts)
    (hok : ∀ t ∈ ts, row.accept (T t) = true ∧ Carries ⟨g, t⟩ (row.srcs ⟨g, t⟩) (T t)) :
    Gives (.popc d a) s g ts row.d (fun v => ⟨(row.out (T v.t) v).1, row.tag (T v.t)⟩) (fun v => (row.out (T v.t) v).2) := by
  simp only [integerRow, Option.some.injEq] at hr
  subst hr
  refine gives_of_lane (op := fun _ => lanePopc d a) (exec_popc s) h (fun t ht => ?_)
  obtain ⟨ha, hc⟩ := hok t ht
  have hs := h.src_none rfl (fun t ht => by simp only [hintsOk, Bool.and_eq_true] at ht; exact ht.1.1.1.1.2) t ht
  unfold lanePopc int1
  refine (withValues_of_carries ?_ ?_ hc ha (shiftTag_ne ha) _).trans ?_
  · simp [View.slots, Slots.list, hs, row1, row2]
  · simp [row1, row2]
  · simp only [row2, row1, id, shlWord, shrWord, sraWord] <;> rfl

theorem brev_gives {row : ValueRow} {T : Thread → Tag} (hr : integerRow (.brev d a) = some row) (h : Chosen (.brev d a) s g ts)
    (hok : ∀ t ∈ ts, row.accept (T t) = true ∧ Carries ⟨g, t⟩ (row.srcs ⟨g, t⟩) (T t)) :
    Gives (.brev d a) s g ts row.d (fun v => ⟨(row.out (T v.t) v).1, row.tag (T v.t)⟩) (fun v => (row.out (T v.t) v).2) := by
  simp only [integerRow, Option.some.injEq] at hr
  subst hr
  refine gives_of_lane (op := fun _ => laneBrev d a) (exec_brev s) h (fun t ht => ?_)
  obtain ⟨ha, hc⟩ := hok t ht
  have hs := h.src_none rfl (fun t ht => by simp only [hintsOk, Bool.and_eq_true] at ht; exact ht.1.1.1.1.2) t ht
  unfold laneBrev int1
  refine (withValues_of_carries ?_ ?_ hc ha (shiftTag_ne ha) _).trans ?_
  · simp [View.slots, Slots.list, hs, row1, row2]
  · simp [row1, row2]
  · simp only [row2, row1, id, shlWord, shrWord, sraWord] <;> rfl

theorem divf_gives {row : ValueRow} {T : Thread → Tag} (hr : floatRow (.divf d a b) = some row) (h : Chosen (.divf d a b) s g ts)
    (hok : ∀ t ∈ ts, row.accept (T t) = true ∧ Carries ⟨g, t⟩ (row.srcs ⟨g, t⟩) (T t)) :
    Gives (.divf d a b) s g ts row.d (fun v => ⟨(row.out (T v.t) v).1, row.tag (T v.t)⟩) (fun v => (row.out (T v.t) v).2) := by
  simp only [floatRow, Option.some.injEq] at hr
  subst hr
  refine gives_of_lane (op := fun _ => laneDivf d a b) (exec_divf s) h (fun t ht => ?_)
  obtain ⟨ha, hc⟩ := hok t ht
  have hs := h.src_none rfl (fun t ht => by simp only [hintsOk, Bool.and_eq_true] at ht; exact ht.1.1.1.1.2) t ht
  unfold laneDivf flt2
  refine (withValues_of_carries ?_ ?_ hc ha ((oneTag_ne (by decide)) ha) _).trans ?_
  · simp [View.slots, Slots.list, hs, row1, row2, fltRow, fltRow2]
  · simp [row1, row2, fltRow, fltRow2]
  · rw [show T t = .flt from eq_of_beq ha]
    simp only [row2, row1, fltRow, fltRow2, id, View.fval] <;> rfl

theorem scalb_gives {row : ValueRow} {T : Thread → Tag} (hr : floatRow (.scalb d a b) = some row) (h : Chosen (.scalb d a b) s g ts)
    (hok : ∀ t ∈ ts, row.accept (T t) = true ∧ Carries ⟨g, t⟩ (row.srcs ⟨g, t⟩) (T t)) :
    Gives (.scalb d a b) s g ts row.d (fun v => ⟨(row.out (T v.t) v).1, row.tag (T v.t)⟩) (fun v => (row.out (T v.t) v).2) := by
  simp only [floatRow, Option.some.injEq] at hr
  subst hr
  refine gives_of_lane (op := fun _ => laneScalb d a b) (exec_scalb s) h (fun t ht => ?_)
  obtain ⟨ha, hc⟩ := hok t ht
  have hs := h.src_none rfl (fun t ht => by simp only [hintsOk, Bool.and_eq_true] at ht; exact ht.1.1.1.1.2) t ht
  unfold laneScalb flt2
  refine (withValues_of_carries ?_ ?_ hc ha ((oneTag_ne (by decide)) ha) _).trans ?_
  · simp [View.slots, Slots.list, hs, row1, row2, fltRow, fltRow2]
  · simp [row1, row2, fltRow, fltRow2]
  · rw [show T t = .flt from eq_of_beq ha]
    simp only [row2, row1, fltRow, fltRow2, id, View.fval] <;> rfl

theorem rcp_gives {row : ValueRow} {T : Thread → Tag} (hr : floatRow (.rcp d a) = some row) (h : Chosen (.rcp d a) s g ts)
    (hok : ∀ t ∈ ts, row.accept (T t) = true ∧ Carries ⟨g, t⟩ (row.srcs ⟨g, t⟩) (T t)) :
    Gives (.rcp d a) s g ts row.d (fun v => ⟨(row.out (T v.t) v).1, row.tag (T v.t)⟩) (fun v => (row.out (T v.t) v).2) := by
  simp only [floatRow, Option.some.injEq] at hr
  subst hr
  refine gives_of_lane (op := fun _ => laneRcp d a) (exec_rcp s) h (fun t ht => ?_)
  obtain ⟨ha, hc⟩ := hok t ht
  have hs := h.src_none rfl (fun t ht => by simp only [hintsOk, Bool.and_eq_true] at ht; exact ht.1.1.1.1.2) t ht
  unfold laneRcp flt1
  refine (withValues_of_carries ?_ ?_ hc ha ((oneTag_ne (by decide)) ha) _).trans ?_
  · simp [View.slots, Slots.list, hs, row1, row2, fltRow, fltRow2]
  · simp [row1, row2, fltRow, fltRow2]
  · rw [show T t = .flt from eq_of_beq ha]
    simp only [row2, row1, fltRow, fltRow2, id, View.fval] <;> rfl

theorem rsq_gives {row : ValueRow} {T : Thread → Tag} (hr : floatRow (.rsq d a) = some row) (h : Chosen (.rsq d a) s g ts)
    (hok : ∀ t ∈ ts, row.accept (T t) = true ∧ Carries ⟨g, t⟩ (row.srcs ⟨g, t⟩) (T t)) :
    Gives (.rsq d a) s g ts row.d (fun v => ⟨(row.out (T v.t) v).1, row.tag (T v.t)⟩) (fun v => (row.out (T v.t) v).2) := by
  simp only [floatRow, Option.some.injEq] at hr
  subst hr
  refine gives_of_lane (op := fun _ => laneRsq d a) (exec_rsq s) h (fun t ht => ?_)
  obtain ⟨ha, hc⟩ := hok t ht
  have hs := h.src_none rfl (fun t ht => by simp only [hintsOk, Bool.and_eq_true] at ht; exact ht.1.1.1.1.2) t ht
  unfold laneRsq flt1
  refine (withValues_of_carries ?_ ?_ hc ha ((oneTag_ne (by decide)) ha) _).trans ?_
  · simp [View.slots, Slots.list, hs, row1, row2, fltRow, fltRow2]
  · simp [row1, row2, fltRow, fltRow2]
  · rw [show T t = .flt from eq_of_beq ha]
    simp only [row2, row1, fltRow, fltRow2, id, View.fval] <;> rfl

theorem exp2_gives {row : ValueRow} {T : Thread → Tag} (hr : floatRow (.exp2 d a) = some row) (h : Chosen (.exp2 d a) s g ts)
    (hok : ∀ t ∈ ts, row.accept (T t) = true ∧ Carries ⟨g, t⟩ (row.srcs ⟨g, t⟩) (T t)) :
    Gives (.exp2 d a) s g ts row.d (fun v => ⟨(row.out (T v.t) v).1, row.tag (T v.t)⟩) (fun v => (row.out (T v.t) v).2) := by
  simp only [floatRow, Option.some.injEq] at hr
  subst hr
  refine gives_of_lane (op := fun _ => laneExp2 d a) (exec_exp2 s) h (fun t ht => ?_)
  obtain ⟨ha, hc⟩ := hok t ht
  have hs := h.src_none rfl (fun t ht => by simp only [hintsOk, Bool.and_eq_true] at ht; exact ht.1.1.1.1.2) t ht
  unfold laneExp2 flt1
  refine (withValues_of_carries ?_ ?_ hc ha ((oneTag_ne (by decide)) ha) _).trans ?_
  · simp [View.slots, Slots.list, hs, row1, row2, fltRow, fltRow2]
  · simp [row1, row2, fltRow, fltRow2]
  · rw [show T t = .flt from eq_of_beq ha]
    simp only [row2, row1, fltRow, fltRow2, id, View.fval] <;> rfl

theorem log2_gives {row : ValueRow} {T : Thread → Tag} (hr : floatRow (.log2 d a) = some row) (h : Chosen (.log2 d a) s g ts)
    (hok : ∀ t ∈ ts, row.accept (T t) = true ∧ Carries ⟨g, t⟩ (row.srcs ⟨g, t⟩) (T t)) :
    Gives (.log2 d a) s g ts row.d (fun v => ⟨(row.out (T v.t) v).1, row.tag (T v.t)⟩) (fun v => (row.out (T v.t) v).2) := by
  simp only [floatRow, Option.some.injEq] at hr
  subst hr
  refine gives_of_lane (op := fun _ => laneLog2 d a) (exec_log2 s) h (fun t ht => ?_)
  obtain ⟨ha, hc⟩ := hok t ht
  have hs := h.src_none rfl (fun t ht => by simp only [hintsOk, Bool.and_eq_true] at ht; exact ht.1.1.1.1.2) t ht
  unfold laneLog2 flt1
  refine (withValues_of_carries ?_ ?_ hc ha ((oneTag_ne (by decide)) ha) _).trans ?_
  · simp [View.slots, Slots.list, hs, row1, row2, fltRow, fltRow2]
  · simp [row1, row2, fltRow, fltRow2]
  · rw [show T t = .flt from eq_of_beq ha]
    simp only [row2, row1, fltRow, fltRow2, id, View.fval] <;> rfl

theorem sin_gives {row : ValueRow} {T : Thread → Tag} (hr : floatRow (.sin d a) = some row) (h : Chosen (.sin d a) s g ts)
    (hok : ∀ t ∈ ts, row.accept (T t) = true ∧ Carries ⟨g, t⟩ (row.srcs ⟨g, t⟩) (T t)) :
    Gives (.sin d a) s g ts row.d (fun v => ⟨(row.out (T v.t) v).1, row.tag (T v.t)⟩) (fun v => (row.out (T v.t) v).2) := by
  simp only [floatRow, Option.some.injEq] at hr
  subst hr
  refine gives_of_lane (op := fun _ => laneSin d a) (exec_sin s) h (fun t ht => ?_)
  obtain ⟨ha, hc⟩ := hok t ht
  have hs := h.src_none rfl (fun t ht => by simp only [hintsOk, Bool.and_eq_true] at ht; exact ht.1.1.1.1.2) t ht
  unfold laneSin flt1
  refine (withValues_of_carries ?_ ?_ hc ha ((oneTag_ne (by decide)) ha) _).trans ?_
  · simp [View.slots, Slots.list, hs, row1, row2, fltRow, fltRow2]
  · simp [row1, row2, fltRow, fltRow2]
  · rw [show T t = .flt from eq_of_beq ha]
    simp only [row2, row1, fltRow, fltRow2, id, View.fval] <;> rfl

theorem cos_gives {row : ValueRow} {T : Thread → Tag} (hr : floatRow (.cos d a) = some row) (h : Chosen (.cos d a) s g ts)
    (hok : ∀ t ∈ ts, row.accept (T t) = true ∧ Carries ⟨g, t⟩ (row.srcs ⟨g, t⟩) (T t)) :
    Gives (.cos d a) s g ts row.d (fun v => ⟨(row.out (T v.t) v).1, row.tag (T v.t)⟩) (fun v => (row.out (T v.t) v).2) := by
  simp only [floatRow, Option.some.injEq] at hr
  subst hr
  refine gives_of_lane (op := fun _ => laneCos d a) (exec_cos s) h (fun t ht => ?_)
  obtain ⟨ha, hc⟩ := hok t ht
  have hs := h.src_none rfl (fun t ht => by simp only [hintsOk, Bool.and_eq_true] at ht; exact ht.1.1.1.1.2) t ht
  unfold laneCos flt1
  refine (withValues_of_carries ?_ ?_ hc ha ((oneTag_ne (by decide)) ha) _).trans ?_
  · simp [View.slots, Slots.list, hs, row1, row2, fltRow, fltRow2]
  · simp [row1, row2, fltRow, fltRow2]
  · rw [show T t = .flt from eq_of_beq ha]
    simp only [row2, row1, fltRow, fltRow2, id, View.fval] <;> rfl

theorem tanh_gives {row : ValueRow} {T : Thread → Tag} (hr : floatRow (.tanh d a) = some row) (h : Chosen (.tanh d a) s g ts)
    (hok : ∀ t ∈ ts, row.accept (T t) = true ∧ Carries ⟨g, t⟩ (row.srcs ⟨g, t⟩) (T t)) :
    Gives (.tanh d a) s g ts row.d (fun v => ⟨(row.out (T v.t) v).1, row.tag (T v.t)⟩) (fun v => (row.out (T v.t) v).2) := by
  simp only [floatRow, Option.some.injEq] at hr
  subst hr
  refine gives_of_lane (op := fun _ => laneTanh d a) (exec_tanh s) h (fun t ht => ?_)
  obtain ⟨ha, hc⟩ := hok t ht
  have hs := h.src_none rfl (fun t ht => by simp only [hintsOk, Bool.and_eq_true] at ht; exact ht.1.1.1.1.2) t ht
  unfold laneTanh flt1
  refine (withValues_of_carries ?_ ?_ hc ha ((oneTag_ne (by decide)) ha) _).trans ?_
  · simp [View.slots, Slots.list, hs, row1, row2, fltRow, fltRow2]
  · simp [row1, row2, fltRow, fltRow2]
  · rw [show T t = .flt from eq_of_beq ha]
    simp only [row2, row1, fltRow, fltRow2, id, View.fval] <;> rfl

theorem sqrt_gives {row : ValueRow} {T : Thread → Tag} (hr : floatRow (.sqrt d a) = some row) (h : Chosen (.sqrt d a) s g ts)
    (hok : ∀ t ∈ ts, row.accept (T t) = true ∧ Carries ⟨g, t⟩ (row.srcs ⟨g, t⟩) (T t)) :
    Gives (.sqrt d a) s g ts row.d (fun v => ⟨(row.out (T v.t) v).1, row.tag (T v.t)⟩) (fun v => (row.out (T v.t) v).2) := by
  simp only [floatRow, Option.some.injEq] at hr
  subst hr
  refine gives_of_lane (op := fun _ => laneSqrt d a) (exec_sqrt s) h (fun t ht => ?_)
  obtain ⟨ha, hc⟩ := hok t ht
  have hs := h.src_none rfl (fun t ht => by simp only [hintsOk, Bool.and_eq_true] at ht; exact ht.1.1.1.1.2) t ht
  unfold laneSqrt flt1
  refine (withValues_of_carries ?_ ?_ hc ha ((oneTag_ne (by decide)) ha) _).trans ?_
  · simp [View.slots, Slots.list, hs, row1, row2, fltRow, fltRow2]
  · simp [row1, row2, fltRow, fltRow2]
  · rw [show T t = .flt from eq_of_beq ha]
    simp only [row2, row1, fltRow, fltRow2, id, View.fval] <;> rfl

theorem rint_gives {row : ValueRow} {T : Thread → Tag} (hr : floatRow (.rint d a) = some row) (h : Chosen (.rint d a) s g ts)
    (hok : ∀ t ∈ ts, row.accept (T t) = true ∧ Carries ⟨g, t⟩ (row.srcs ⟨g, t⟩) (T t)) :
    Gives (.rint d a) s g ts row.d (fun v => ⟨(row.out (T v.t) v).1, row.tag (T v.t)⟩) (fun v => (row.out (T v.t) v).2) := by
  simp only [floatRow, Option.some.injEq] at hr
  subst hr
  refine gives_of_lane (op := fun _ => laneRint d a) (exec_rint s) h (fun t ht => ?_)
  obtain ⟨ha, hc⟩ := hok t ht
  have hs := h.src_none rfl (fun t ht => by simp only [hintsOk, Bool.and_eq_true] at ht; exact ht.1.1.1.1.2) t ht
  unfold laneRint flt1
  refine (withValues_of_carries ?_ ?_ hc ha ((oneTag_ne (by decide)) ha) _).trans ?_
  · simp [View.slots, Slots.list, hs, row1, row2, fltRow, fltRow2]
  · simp [row1, row2, fltRow, fltRow2]
  · rw [show T t = .flt from eq_of_beq ha]
    simp only [row2, row1, fltRow, fltRow2, id, View.fval] <;> rfl

theorem fcls_gives {row : ValueRow} {T : Thread → Tag} (hr : floatRow (.fcls d a) = some row) (h : Chosen (.fcls d a) s g ts)
    (hok : ∀ t ∈ ts, row.accept (T t) = true ∧ Carries ⟨g, t⟩ (row.srcs ⟨g, t⟩) (T t)) :
    Gives (.fcls d a) s g ts row.d (fun v => ⟨(row.out (T v.t) v).1, row.tag (T v.t)⟩) (fun v => (row.out (T v.t) v).2) := by
  simp only [floatRow, Option.some.injEq] at hr
  subst hr
  refine gives_of_lane (op := fun _ => laneFcls d a) (exec_fcls s) h (fun t ht => ?_)
  obtain ⟨ha, hc⟩ := hok t ht
  have hs := h.src_none rfl (fun t ht => by simp only [hintsOk, Bool.and_eq_true] at ht; exact ht.1.1.1.1.2) t ht
  unfold laneFcls
  refine (withValues_of_carries ?_ ?_ hc ha ((oneTag_ne (by decide)) ha) _).trans ?_
  · simp [View.slots, Slots.list, hs, row1, row2, fltRow, fltRow2]
  · simp [row1, row2, fltRow, fltRow2]
  · simp only [row2, row1, fltRow, fltRow2, id, View.fval] <;> rfl

theorem ceq_gives {row : ValueRow} {T : Thread → Tag} (hr : compareRow (.ceq d a b) = some row) (h : Chosen (.ceq d a b) s g ts)
    (hok : ∀ t ∈ ts, row.accept (T t) = true ∧ Carries ⟨g, t⟩ (row.srcs ⟨g, t⟩) (T t)) :
    Gives (.ceq d a b) s g ts row.d (fun v => ⟨(row.out (T v.t) v).1, row.tag (T v.t)⟩) (fun v => (row.out (T v.t) v).2) := by
  simp only [compareRow, Option.some.injEq] at hr
  subst hr
  refine gives_of_lane (op := fun _ => laneCeq d a b) (exec_ceq s) h (fun t ht => ?_)
  obtain ⟨ha, hc⟩ := hok t ht
  have hs := h.src_none rfl (fun t ht => by simp only [hintsOk, Bool.and_eq_true] at ht; exact ht.1.1.1.1.2) t ht
  unfold laneCeq cmp2
  refine (withValues_of_carries ?_ ?_ hc ha (eqTag_ne ha) _).trans ?_
  · simp [View.slots, Slots.list, hs, row1, row2, cmpRow]
  · simp [row1, row2, cmpRow]
  · simp only [row2, row1, cmpRow, compareIn, relation, predWord, View.fval]
    split <;> rfl

theorem cne_gives {row : ValueRow} {T : Thread → Tag} (hr : compareRow (.cne d a b) = some row) (h : Chosen (.cne d a b) s g ts)
    (hok : ∀ t ∈ ts, row.accept (T t) = true ∧ Carries ⟨g, t⟩ (row.srcs ⟨g, t⟩) (T t)) :
    Gives (.cne d a b) s g ts row.d (fun v => ⟨(row.out (T v.t) v).1, row.tag (T v.t)⟩) (fun v => (row.out (T v.t) v).2) := by
  simp only [compareRow, Option.some.injEq] at hr
  subst hr
  refine gives_of_lane (op := fun _ => laneCne d a b) (exec_cne s) h (fun t ht => ?_)
  obtain ⟨ha, hc⟩ := hok t ht
  have hs := h.src_none rfl (fun t ht => by simp only [hintsOk, Bool.and_eq_true] at ht; exact ht.1.1.1.1.2) t ht
  unfold laneCne cmp2
  refine (withValues_of_carries ?_ ?_ hc ha (eqTag_ne ha) _).trans ?_
  · simp [View.slots, Slots.list, hs, row1, row2, cmpRow]
  · simp [row1, row2, cmpRow]
  · simp only [row2, row1, cmpRow, compareIn, relation, predWord, View.fval]
    split <;> rfl

theorem clt_gives {row : ValueRow} {T : Thread → Tag} (hr : compareRow (.clt d a b) = some row) (h : Chosen (.clt d a b) s g ts)
    (hok : ∀ t ∈ ts, row.accept (T t) = true ∧ Carries ⟨g, t⟩ (row.srcs ⟨g, t⟩) (T t)) :
    Gives (.clt d a b) s g ts row.d (fun v => ⟨(row.out (T v.t) v).1, row.tag (T v.t)⟩) (fun v => (row.out (T v.t) v).2) := by
  simp only [compareRow, Option.some.injEq] at hr
  subst hr
  refine gives_of_lane (op := fun _ => laneClt d a b) (exec_clt s) h (fun t ht => ?_)
  obtain ⟨ha, hc⟩ := hok t ht
  have hs := h.src_none rfl (fun t ht => by simp only [hintsOk, Bool.and_eq_true] at ht; exact ht.1.1.1.1.2) t ht
  unfold laneClt cmp2
  refine (withValues_of_carries ?_ ?_ hc ha (immTag_ne ha) _).trans ?_
  · simp [View.slots, Slots.list, hs, row1, row2, cmpRow]
  · simp [row1, row2, cmpRow]
  · simp only [row2, row1, cmpRow, compareIn, relation, predWord, View.fval]
    split <;> rfl

theorem cle_gives {row : ValueRow} {T : Thread → Tag} (hr : compareRow (.cle d a b) = some row) (h : Chosen (.cle d a b) s g ts)
    (hok : ∀ t ∈ ts, row.accept (T t) = true ∧ Carries ⟨g, t⟩ (row.srcs ⟨g, t⟩) (T t)) :
    Gives (.cle d a b) s g ts row.d (fun v => ⟨(row.out (T v.t) v).1, row.tag (T v.t)⟩) (fun v => (row.out (T v.t) v).2) := by
  simp only [compareRow, Option.some.injEq] at hr
  subst hr
  refine gives_of_lane (op := fun _ => laneCle d a b) (exec_cle s) h (fun t ht => ?_)
  obtain ⟨ha, hc⟩ := hok t ht
  have hs := h.src_none rfl (fun t ht => by simp only [hintsOk, Bool.and_eq_true] at ht; exact ht.1.1.1.1.2) t ht
  unfold laneCle cmp2
  refine (withValues_of_carries ?_ ?_ hc ha (immTag_ne ha) _).trans ?_
  · simp [View.slots, Slots.list, hs, row1, row2, cmpRow]
  · simp [row1, row2, cmpRow]
  · simp only [row2, row1, cmpRow, compareIn, relation, predWord, View.fval]
    split <;> rfl

theorem cuno_gives {row : ValueRow} {T : Thread → Tag} (hr : compareRow (.cuno d a b) = some row) (h : Chosen (.cuno d a b) s g ts)
    (hok : ∀ t ∈ ts, row.accept (T t) = true ∧ Carries ⟨g, t⟩ (row.srcs ⟨g, t⟩) (T t)) :
    Gives (.cuno d a b) s g ts row.d (fun v => ⟨(row.out (T v.t) v).1, row.tag (T v.t)⟩) (fun v => (row.out (T v.t) v).2) := by
  simp only [compareRow, Option.some.injEq] at hr
  subst hr
  refine gives_of_lane (op := fun _ => laneCuno d a b) (exec_cuno s) h (fun t ht => ?_)
  obtain ⟨ha, hc⟩ := hok t ht
  have hs := h.src_none rfl (fun t ht => by simp only [hintsOk, Bool.and_eq_true] at ht; exact ht.1.1.1.1.2) t ht
  unfold laneCuno cmp2
  refine (withValues_of_carries ?_ ?_ hc ha ((oneTag_ne (by decide)) ha) _).trans ?_
  · simp [View.slots, Slots.list, hs, row1, row2, cmpRow]
  · simp [row1, row2, cmpRow]
  · simp only [row2, row1, cmpRow, compareIn, relation, predWord, View.fval]
    split <;> rfl

theorem ceqi_gives {row : ValueRow} {T : Thread → Tag} (hr : compareRow (.ceqi d a imm) = some row) (h : Chosen (.ceqi d a imm) s g ts)
    (hok : ∀ t ∈ ts, row.accept (T t) = true ∧ Carries ⟨g, t⟩ (row.srcs ⟨g, t⟩) (T t)) :
    Gives (.ceqi d a imm) s g ts row.d (fun v => ⟨(row.out (T v.t) v).1, row.tag (T v.t)⟩) (fun v => (row.out (T v.t) v).2) := by
  simp only [compareRow, Option.some.injEq] at hr
  subst hr
  refine gives_of_lane (op := fun _ => laneCeqi d a imm) (exec_ceqi s) h (fun t ht => ?_)
  obtain ⟨ha, hc⟩ := hok t ht
  have hs := h.src_none rfl (fun t ht => by simp only [hintsOk, Bool.and_eq_true] at ht; exact ht.1.1.1.1.2) t ht
  unfold laneCeqi cmpI
  refine (withValues_of_carries ?_ ?_ hc ha (immTag_ne ha) _).trans ?_
  · simp [View.slots, Slots.list, hs, row1, row2, cmpRow]
  · simp [row1, row2, cmpRow]
  · simp only [row2, row1, cmpRow, compareIn, relation, predWord, View.fval]
    split <;> rfl

theorem cnei_gives {row : ValueRow} {T : Thread → Tag} (hr : compareRow (.cnei d a imm) = some row) (h : Chosen (.cnei d a imm) s g ts)
    (hok : ∀ t ∈ ts, row.accept (T t) = true ∧ Carries ⟨g, t⟩ (row.srcs ⟨g, t⟩) (T t)) :
    Gives (.cnei d a imm) s g ts row.d (fun v => ⟨(row.out (T v.t) v).1, row.tag (T v.t)⟩) (fun v => (row.out (T v.t) v).2) := by
  simp only [compareRow, Option.some.injEq] at hr
  subst hr
  refine gives_of_lane (op := fun _ => laneCnei d a imm) (exec_cnei s) h (fun t ht => ?_)
  obtain ⟨ha, hc⟩ := hok t ht
  have hs := h.src_none rfl (fun t ht => by simp only [hintsOk, Bool.and_eq_true] at ht; exact ht.1.1.1.1.2) t ht
  unfold laneCnei cmpI
  refine (withValues_of_carries ?_ ?_ hc ha (immTag_ne ha) _).trans ?_
  · simp [View.slots, Slots.list, hs, row1, row2, cmpRow]
  · simp [row1, row2, cmpRow]
  · simp only [row2, row1, cmpRow, compareIn, relation, predWord, View.fval]
    split <;> rfl

theorem clti_gives {row : ValueRow} {T : Thread → Tag} (hr : compareRow (.clti d a imm) = some row) (h : Chosen (.clti d a imm) s g ts)
    (hok : ∀ t ∈ ts, row.accept (T t) = true ∧ Carries ⟨g, t⟩ (row.srcs ⟨g, t⟩) (T t)) :
    Gives (.clti d a imm) s g ts row.d (fun v => ⟨(row.out (T v.t) v).1, row.tag (T v.t)⟩) (fun v => (row.out (T v.t) v).2) := by
  simp only [compareRow, Option.some.injEq] at hr
  subst hr
  refine gives_of_lane (op := fun _ => laneClti d a imm) (exec_clti s) h (fun t ht => ?_)
  obtain ⟨ha, hc⟩ := hok t ht
  have hs := h.src_none rfl (fun t ht => by simp only [hintsOk, Bool.and_eq_true] at ht; exact ht.1.1.1.1.2) t ht
  unfold laneClti cmpI
  refine (withValues_of_carries ?_ ?_ hc ha (immTag_ne ha) _).trans ?_
  · simp [View.slots, Slots.list, hs, row1, row2, cmpRow]
  · simp [row1, row2, cmpRow]
  · simp only [row2, row1, cmpRow, compareIn, relation, predWord, View.fval]
    split <;> rfl

theorem clei_gives {row : ValueRow} {T : Thread → Tag} (hr : compareRow (.clei d a imm) = some row) (h : Chosen (.clei d a imm) s g ts)
    (hok : ∀ t ∈ ts, row.accept (T t) = true ∧ Carries ⟨g, t⟩ (row.srcs ⟨g, t⟩) (T t)) :
    Gives (.clei d a imm) s g ts row.d (fun v => ⟨(row.out (T v.t) v).1, row.tag (T v.t)⟩) (fun v => (row.out (T v.t) v).2) := by
  simp only [compareRow, Option.some.injEq] at hr
  subst hr
  refine gives_of_lane (op := fun _ => laneClei d a imm) (exec_clei s) h (fun t ht => ?_)
  obtain ⟨ha, hc⟩ := hok t ht
  have hs := h.src_none rfl (fun t ht => by simp only [hintsOk, Bool.and_eq_true] at ht; exact ht.1.1.1.1.2) t ht
  unfold laneClei cmpI
  refine (withValues_of_carries ?_ ?_ hc ha (immTag_ne ha) _).trans ?_
  · simp [View.slots, Slots.list, hs, row1, row2, cmpRow]
  · simp [row1, row2, cmpRow]
  · simp only [row2, row1, cmpRow, compareIn, relation, predWord, View.fval]
    split <;> rfl

theorem cgti_gives {row : ValueRow} {T : Thread → Tag} (hr : compareRow (.cgti d a imm) = some row) (h : Chosen (.cgti d a imm) s g ts)
    (hok : ∀ t ∈ ts, row.accept (T t) = true ∧ Carries ⟨g, t⟩ (row.srcs ⟨g, t⟩) (T t)) :
    Gives (.cgti d a imm) s g ts row.d (fun v => ⟨(row.out (T v.t) v).1, row.tag (T v.t)⟩) (fun v => (row.out (T v.t) v).2) := by
  simp only [compareRow, Option.some.injEq] at hr
  subst hr
  refine gives_of_lane (op := fun _ => laneCgti d a imm) (exec_cgti s) h (fun t ht => ?_)
  obtain ⟨ha, hc⟩ := hok t ht
  have hs := h.src_none rfl (fun t ht => by simp only [hintsOk, Bool.and_eq_true] at ht; exact ht.1.1.1.1.2) t ht
  unfold laneCgti cmpI
  refine (withValues_of_carries ?_ ?_ hc ha (immTag_ne ha) _).trans ?_
  · simp [View.slots, Slots.list, hs, row1, row2, cmpRow]
  · simp [row1, row2, cmpRow]
  · simp only [row2, row1, cmpRow, compareIn, relation, predWord, View.fval]
    split <;> rfl

theorem cgei_gives {row : ValueRow} {T : Thread → Tag} (hr : compareRow (.cgei d a imm) = some row) (h : Chosen (.cgei d a imm) s g ts)
    (hok : ∀ t ∈ ts, row.accept (T t) = true ∧ Carries ⟨g, t⟩ (row.srcs ⟨g, t⟩) (T t)) :
    Gives (.cgei d a imm) s g ts row.d (fun v => ⟨(row.out (T v.t) v).1, row.tag (T v.t)⟩) (fun v => (row.out (T v.t) v).2) := by
  simp only [compareRow, Option.some.injEq] at hr
  subst hr
  refine gives_of_lane (op := fun _ => laneCgei d a imm) (exec_cgei s) h (fun t ht => ?_)
  obtain ⟨ha, hc⟩ := hok t ht
  have hs := h.src_none rfl (fun t ht => by simp only [hintsOk, Bool.and_eq_true] at ht; exact ht.1.1.1.1.2) t ht
  unfold laneCgei cmpI
  refine (withValues_of_carries ?_ ?_ hc ha (immTag_ne ha) _).trans ?_
  · simp [View.slots, Slots.list, hs, row1, row2, cmpRow]
  · simp [row1, row2, cmpRow]
  · simp only [row2, row1, cmpRow, compareIn, relation, predWord, View.fval]
    split <;> rfl

theorem and_gives {row : TagRow} (hr : logicRow (.and d a b) = some row) (h : Chosen (.and d a b) s g ts)
    (hok : ∀ t ∈ ts, row.ok ⟨g, t⟩ = true) :
    Gives (.and d a b) s g ts row.d (fun v => (row.out (viewsOf g ts) v).1) (fun v => (row.out (viewsOf g ts) v).2) := by
  simp only [logicRow, Option.some.injEq] at hr
  subst hr
  refine gives_of_lane (op := fun _ => laneAnd d a b) (exec_and s) h (fun t ht => ?_)
  have ha := hok t ht
  simp only [rawRow, List.all_cons, List.all_nil, Bool.and_true] at ha
  simp only [laneAnd, logic1, logic2, logic3, rawRow, View.withTags, predWord, bfPos, bfWidth]
  rw [if_pos ha]

theorem or_gives {row : TagRow} (hr : logicRow (.or d a b) = some row) (h : Chosen (.or d a b) s g ts)
    (hok : ∀ t ∈ ts, row.ok ⟨g, t⟩ = true) :
    Gives (.or d a b) s g ts row.d (fun v => (row.out (viewsOf g ts) v).1) (fun v => (row.out (viewsOf g ts) v).2) := by
  simp only [logicRow, Option.some.injEq] at hr
  subst hr
  refine gives_of_lane (op := fun _ => laneOr d a b) (exec_or s) h (fun t ht => ?_)
  have ha := hok t ht
  simp only [rawRow, List.all_cons, List.all_nil, Bool.and_true] at ha
  simp only [laneOr, logic1, logic2, logic3, rawRow, View.withTags, predWord, bfPos, bfWidth]
  rw [if_pos ha]

theorem xor_gives {row : TagRow} (hr : logicRow (.xor d a b) = some row) (h : Chosen (.xor d a b) s g ts)
    (hok : ∀ t ∈ ts, row.ok ⟨g, t⟩ = true) :
    Gives (.xor d a b) s g ts row.d (fun v => (row.out (viewsOf g ts) v).1) (fun v => (row.out (viewsOf g ts) v).2) := by
  simp only [logicRow, Option.some.injEq] at hr
  subst hr
  refine gives_of_lane (op := fun _ => laneXor d a b) (exec_xor s) h (fun t ht => ?_)
  have ha := hok t ht
  simp only [rawRow, List.all_cons, List.all_nil, Bool.and_true] at ha
  simp only [laneXor, logic1, logic2, logic3, rawRow, View.withTags, predWord, bfPos, bfWidth]
  rw [if_pos ha]

theorem andn_gives {row : TagRow} (hr : logicRow (.andn d a b) = some row) (h : Chosen (.andn d a b) s g ts)
    (hok : ∀ t ∈ ts, row.ok ⟨g, t⟩ = true) :
    Gives (.andn d a b) s g ts row.d (fun v => (row.out (viewsOf g ts) v).1) (fun v => (row.out (viewsOf g ts) v).2) := by
  simp only [logicRow, Option.some.injEq] at hr
  subst hr
  refine gives_of_lane (op := fun _ => laneAndn d a b) (exec_andn s) h (fun t ht => ?_)
  have ha := hok t ht
  simp only [rawRow, List.all_cons, List.all_nil, Bool.and_true] at ha
  simp only [laneAndn, logic1, logic2, logic3, rawRow, View.withTags, predWord, bfPos, bfWidth]
  rw [if_pos ha]

theorem orn_gives {row : TagRow} (hr : logicRow (.orn d a b) = some row) (h : Chosen (.orn d a b) s g ts)
    (hok : ∀ t ∈ ts, row.ok ⟨g, t⟩ = true) :
    Gives (.orn d a b) s g ts row.d (fun v => (row.out (viewsOf g ts) v).1) (fun v => (row.out (viewsOf g ts) v).2) := by
  simp only [logicRow, Option.some.injEq] at hr
  subst hr
  refine gives_of_lane (op := fun _ => laneOrn d a b) (exec_orn s) h (fun t ht => ?_)
  have ha := hok t ht
  simp only [rawRow, List.all_cons, List.all_nil, Bool.and_true] at ha
  simp only [laneOrn, logic1, logic2, logic3, rawRow, View.withTags, predWord, bfPos, bfWidth]
  rw [if_pos ha]

theorem not_gives {row : TagRow} (hr : logicRow (.not d a) = some row) (h : Chosen (.not d a) s g ts)
    (hok : ∀ t ∈ ts, row.ok ⟨g, t⟩ = true) :
    Gives (.not d a) s g ts row.d (fun v => (row.out (viewsOf g ts) v).1) (fun v => (row.out (viewsOf g ts) v).2) := by
  simp only [logicRow, Option.some.injEq] at hr
  subst hr
  refine gives_of_lane (op := fun _ => laneNot d a) (exec_not s) h (fun t ht => ?_)
  have ha := hok t ht
  simp only [rawRow, List.all_cons, List.all_nil, Bool.and_true] at ha
  simp only [laneNot, logic1, logic2, logic3, rawRow, View.withTags, predWord, bfPos, bfWidth]
  rw [if_pos ha]

theorem andi_gives {row : TagRow} (hr : logicRow (.andi d a imm) = some row) (h : Chosen (.andi d a imm) s g ts)
    (hok : ∀ t ∈ ts, row.ok ⟨g, t⟩ = true) :
    Gives (.andi d a imm) s g ts row.d (fun v => (row.out (viewsOf g ts) v).1) (fun v => (row.out (viewsOf g ts) v).2) := by
  simp only [logicRow, Option.some.injEq] at hr
  subst hr
  refine gives_of_lane (op := fun _ => laneAndi d a imm) (exec_andi s) h (fun t ht => ?_)
  have ha := hok t ht
  simp only [rawRow, List.all_cons, List.all_nil, Bool.and_true] at ha
  simp only [laneAndi, logic1, logic2, logic3, rawRow, View.withTags, predWord, bfPos, bfWidth]
  rw [if_pos ha]

theorem ori_gives {row : TagRow} (hr : logicRow (.ori d a imm) = some row) (h : Chosen (.ori d a imm) s g ts)
    (hok : ∀ t ∈ ts, row.ok ⟨g, t⟩ = true) :
    Gives (.ori d a imm) s g ts row.d (fun v => (row.out (viewsOf g ts) v).1) (fun v => (row.out (viewsOf g ts) v).2) := by
  simp only [logicRow, Option.some.injEq] at hr
  subst hr
  refine gives_of_lane (op := fun _ => laneOri d a imm) (exec_ori s) h (fun t ht => ?_)
  have ha := hok t ht
  simp only [rawRow, List.all_cons, List.all_nil, Bool.and_true] at ha
  simp only [laneOri, logic1, logic2, logic3, rawRow, View.withTags, predWord, bfPos, bfWidth]
  rw [if_pos ha]

theorem xori_gives {row : TagRow} (hr : logicRow (.xori d a imm) = some row) (h : Chosen (.xori d a imm) s g ts)
    (hok : ∀ t ∈ ts, row.ok ⟨g, t⟩ = true) :
    Gives (.xori d a imm) s g ts row.d (fun v => (row.out (viewsOf g ts) v).1) (fun v => (row.out (viewsOf g ts) v).2) := by
  simp only [logicRow, Option.some.injEq] at hr
  subst hr
  refine gives_of_lane (op := fun _ => laneXori d a imm) (exec_xori s) h (fun t ht => ?_)
  have ha := hok t ht
  simp only [rawRow, List.all_cons, List.all_nil, Bool.and_true] at ha
  simp only [laneXori, logic1, logic2, logic3, rawRow, View.withTags, predWord, bfPos, bfWidth]
  rw [if_pos ha]

theorem sel_gives {row : TagRow} (hr : logicRow (.sel d a b) = some row) (h : Chosen (.sel d a b) s g ts)
    (hok : ∀ t ∈ ts, row.ok ⟨g, t⟩ = true) :
    Gives (.sel d a b) s g ts row.d (fun v => (row.out (viewsOf g ts) v).1) (fun v => (row.out (viewsOf g ts) v).2) := by
  simp only [logicRow, Option.some.injEq] at hr
  subst hr
  refine gives_of_lane (op := fun _ => laneSel d a b) (exec_sel s) h (fun t ht => ?_)
  have ha := hok t ht
  simp only [laneSel, logic1, logic2, logic3, rawRow, View.withTags, predWord, bfPos, bfWidth]
  rw [if_pos ha]

theorem bfx_gives {row : TagRow} (hr : logicRow (.bfx d a b) = some row) (h : Chosen (.bfx d a b) s g ts)
    (hok : ∀ t ∈ ts, row.ok ⟨g, t⟩ = true) :
    Gives (.bfx d a b) s g ts row.d (fun v => (row.out (viewsOf g ts) v).1) (fun v => (row.out (viewsOf g ts) v).2) := by
  simp only [logicRow, Option.some.injEq] at hr
  subst hr
  refine gives_of_lane (op := fun _ => laneBfx d a b) (exec_bfx s) h (fun t ht => ?_)
  have ha := hok t ht
  simp only [rawRow, List.all_cons, List.all_nil, Bool.and_true] at ha
  simp only [laneBfx, logic1, logic2, logic3, rawRow, View.withTags, predWord, bfPos, bfWidth]
  rw [if_pos ha]

theorem bfi_gives {row : TagRow} (hr : logicRow (.bfi d a b) = some row) (h : Chosen (.bfi d a b) s g ts)
    (hok : ∀ t ∈ ts, row.ok ⟨g, t⟩ = true) :
    Gives (.bfi d a b) s g ts row.d (fun v => (row.out (viewsOf g ts) v).1) (fun v => (row.out (viewsOf g ts) v).2) := by
  simp only [logicRow, Option.some.injEq] at hr
  subst hr
  refine gives_of_lane (op := fun _ => laneBfi d a b) (exec_bfi s) h (fun t ht => ?_)
  have ha := hok t ht
  simp only [rawRow, List.all_cons, List.all_nil, Bool.and_true] at ha
  simp only [laneBfi, logic1, logic2, logic3, rawRow, View.withTags, predWord, bfPos, bfWidth]
  rw [if_pos (by simpa [Bool.and_assoc] using ha)]

theorem prmb_gives {row : TagRow} (hr : logicRow (.prmb d a b) = some row) (h : Chosen (.prmb d a b) s g ts)
    (hok : ∀ t ∈ ts, row.ok ⟨g, t⟩ = true) :
    Gives (.prmb d a b) s g ts row.d (fun v => (row.out (viewsOf g ts) v).1) (fun v => (row.out (viewsOf g ts) v).2) := by
  simp only [logicRow, Option.some.injEq] at hr
  subst hr
  refine gives_of_lane (op := fun _ => lanePrmb d a b) (exec_prmb s) h (fun t ht => ?_)
  have ha := hok t ht
  simp only [rawRow, List.all_cons, List.all_nil, Bool.and_true] at ha
  simp only [lanePrmb, logic1, logic2, logic3, rawRow, View.withTags, predWord, bfPos, bfWidth]
  rw [if_pos (by simpa [Bool.and_assoc] using ha)]

theorem lui_gives {imm : BitVec 16} {row : TagRow} (hr : logicRow (.lui d imm) = some row) (h : Chosen (.lui d imm) s g ts)
    (hok : ∀ t ∈ ts, row.ok ⟨g, t⟩ = true) :
    Gives (.lui d imm) s g ts row.d (fun v => (row.out (viewsOf g ts) v).1) (fun v => (row.out (viewsOf g ts) v).2) := by
  simp only [logicRow, Option.some.injEq] at hr
  subst hr
  refine gives_of_lane (op := fun _ => laneLui d imm) (exec_lui s) h (fun t ht => ?_)
  have ha := hok t ht
  rfl

theorem lli_gives {imm : BitVec 16} {row : TagRow} (hr : logicRow (.lli d imm) = some row) (h : Chosen (.lli d imm) s g ts)
    (hok : ∀ t ∈ ts, row.ok ⟨g, t⟩ = true) :
    Gives (.lli d imm) s g ts row.d (fun v => (row.out (viewsOf g ts) v).1) (fun v => (row.out (viewsOf g ts) v).2) := by
  simp only [logicRow, Option.some.injEq] at hr
  subst hr
  refine gives_of_lane (op := fun _ => laneLli d imm) (exec_lli s) h (fun t ht => ?_)
  have ha := hok t ht
  simp only [rawRow, List.all_cons, List.all_nil, Bool.and_true] at ha
  simp only [laneLli, logic1, logic2, logic3, rawRow, View.withTags, predWord, bfPos, bfWidth]
  rw [if_pos ha]

theorem mov_gives {row : TagRow} (hr : logicRow (.mov d a) = some row) (h : Chosen (.mov d a) s g ts)
    (hok : ∀ t ∈ ts, row.ok ⟨g, t⟩ = true) :
    Gives (.mov d a) s g ts row.d (fun v => (row.out (viewsOf g ts) v).1) (fun v => (row.out (viewsOf g ts) v).2) := by
  simp only [logicRow, Option.some.injEq] at hr
  subst hr
  refine gives_of_lane (op := fun _ => laneMov d a) (exec_mov s) h (fun t ht => ?_)
  have ha := hok t ht
  simp only [laneMov, logic1, logic2, logic3, rawRow, View.withTags, predWord, bfPos, bfWidth]
  rw [if_pos ha] <;> rfl

theorem ctag_gives {row : TagRow} (hr : convertRow (.ctag d a imm) = some row) (h : Chosen (.ctag d a imm) s g ts)
    (hok : ∀ t ∈ ts, row.ok ⟨g, t⟩ = true) :
    Gives (.ctag d a imm) s g ts row.d (fun v => (row.out (viewsOf g ts) v).1) (fun v => (row.out (viewsOf g ts) v).2) := by
  simp only [convertRow, Option.some.injEq] at hr
  subst hr
  refine gives_of_lane (op := fun _ => laneCtag d a imm) (exec_ctag s) h (fun t ht => ?_)
  have ha := hok t ht
  simp only [laneCtag, predWord, decide_eq_true_eq]

theorem cvt_gives {row : TagRow} (hr : convertRow (.cvt d a imm) = some row) (h : Chosen (.cvt d a imm) s g ts)
    (hok : ∀ t ∈ ts, row.ok ⟨g, t⟩ = true) :
    Gives (.cvt d a imm) s g ts row.d (fun v => (row.out (viewsOf g ts) v).1) (fun v => (row.out (viewsOf g ts) v).2) := by
  simp only [convertRow, Option.some.injEq] at hr
  subst hr
  refine gives_of_lane (op := fun _ => laneCvt d a imm) (exec_cvt s) h (fun t ht => ?_)
  have ha := hok t ht
  simp only [laneCvt, View.withTags]
  by_cases hs : View.tag ⟨g, t⟩ a = tagOf (imm.extractLsb' 0 4)
  · simp only [hs, if_true, show (tagOf (imm.extractLsb' 0 4)).numeric = true from hs ▸ ha]
  · simp only [hs, if_false, if_true, show (View.tag ⟨g, t⟩ a).numeric = true from ha]

theorem tagr_gives {row : TagRow} (hr : convertRow (.tagr d a imm) = some row) (h : Chosen (.tagr d a imm) s g ts)
    (hok : ∀ t ∈ ts, row.ok ⟨g, t⟩ = true) :
    Gives (.tagr d a imm) s g ts row.d (fun v => (row.out (viewsOf g ts) v).1) (fun v => (row.out (viewsOf g ts) v).2) := by
  simp only [convertRow, Option.some.injEq] at hr
  subst hr
  refine gives_of_lane (op := fun _ => laneTagr d a imm) (exec_tagr s) h (fun t ht => ?_)
  have ha := hok t ht
  simp only [laneTagr, View.withTags]
  rw [if_pos ha]

theorem tagq_gives {row : TagRow} (hr : convertRow (.tagq d a) = some row) (h : Chosen (.tagq d a) s g ts)
    (hok : ∀ t ∈ ts, row.ok ⟨g, t⟩ = true) :
    Gives (.tagq d a) s g ts row.d (fun v => (row.out (viewsOf g ts) v).1) (fun v => (row.out (viewsOf g ts) v).2) := by
  simp only [convertRow, Option.some.injEq] at hr
  subst hr
  refine gives_of_lane (op := fun _ => laneTagq d a) (exec_tagq s) h (fun t ht => ?_)
  have ha := hok t ht
  rfl

theorem pack_gives {row : TagRow} (hr : convertRow (.pack d a b) = some row) (h : Chosen (.pack d a b) s g ts)
    (hok : ∀ t ∈ ts, row.ok ⟨g, t⟩ = true) :
    Gives (.pack d a b) s g ts row.d (fun v => (row.out (viewsOf g ts) v).1) (fun v => (row.out (viewsOf g ts) v).2) := by
  simp only [convertRow, Option.some.injEq] at hr
  subst hr
  refine gives_of_lane (op := fun _ => lanePack d a b) (exec_pack s) h (fun t ht => ?_)
  have ha := hok t ht
  simp only [lanePack, View.withTags]
  rw [if_pos ha]

theorem unpkl_gives {row : TagRow} (hr : convertRow (.unpkl d a imm) = some row) (h : Chosen (.unpkl d a imm) s g ts)
    (hok : ∀ t ∈ ts, row.ok ⟨g, t⟩ = true) :
    Gives (.unpkl d a imm) s g ts row.d (fun v => (row.out (viewsOf g ts) v).1) (fun v => (row.out (viewsOf g ts) v).2) := by
  simp only [convertRow, Option.some.injEq] at hr
  subst hr
  refine gives_of_lane (op := fun _ => laneUnpkl d a imm) (exec_unpkl s) h (fun t ht => ?_)
  have ha := hok t ht
  simp only [Bool.and_eq_true] at ha
  simp only [laneUnpkl, unpackHalf, ha.1, ha.2, Bool.not_true, Bool.false_eq_true, if_false, if_true]

theorem unpkh_gives {row : TagRow} (hr : convertRow (.unpkh d a imm) = some row) (h : Chosen (.unpkh d a imm) s g ts)
    (hok : ∀ t ∈ ts, row.ok ⟨g, t⟩ = true) :
    Gives (.unpkh d a imm) s g ts row.d (fun v => (row.out (viewsOf g ts) v).1) (fun v => (row.out (viewsOf g ts) v).2) := by
  simp only [convertRow, Option.some.injEq] at hr
  subst hr
  refine gives_of_lane (op := fun _ => laneUnpkh d a imm) (exec_unpkh s) h (fun t ht => ?_)
  have ha := hok t ht
  simp only [Bool.and_eq_true] at ha
  simp only [laneUnpkh, unpackHalf, ha.1, ha.2, Bool.not_true, Bool.false_eq_true, if_false, if_true]

theorem sclc_gives {row : TagRow} (hr : convertRow (.sclc d a b) = some row) (h : Chosen (.sclc d a b) s g ts)
    (hok : ∀ t ∈ ts, row.ok ⟨g, t⟩ = true) :
    Gives (.sclc d a b) s g ts row.d (fun v => (row.out (viewsOf g ts) v).1) (fun v => (row.out (viewsOf g ts) v).2) := by
  simp only [convertRow, Option.some.injEq] at hr
  subst hr
  refine gives_of_lane (op := fun _ => laneSclc (.sclc d a b) d a b) (exec_sclc s) h (fun t ht => ?_)
  have ha := hok t ht
  simp only [Bool.and_eq_true] at ha
  simp only [laneSclc, reservedValue, View.withTags, ha.1.1, ha.1.2, ha.2, Bool.and_self, Bool.not_true, Bool.false_eq_true, if_false, if_true]

theorem qnt_gives {row : TagRow} (hr : convertRow (.qnt d a b) = some row) (h : Chosen (.qnt d a b) s g ts)
    (hok : ∀ t ∈ ts, row.ok ⟨g, t⟩ = true) :
    Gives (.qnt d a b) s g ts row.d (fun v => (row.out (viewsOf g ts) v).1) (fun v => (row.out (viewsOf g ts) v).2) := by
  simp only [convertRow, Option.some.injEq] at hr
  subst hr
  refine gives_of_lane (op := fun _ => laneQnt d a b) (exec_qnt s) h (fun t ht => ?_)
  have ha := hok t ht
  simp only [laneQnt, View.withTags]
  rw [if_pos ha]

theorem dqnt_gives {row : TagRow} (hr : convertRow (.dqnt d a b) = some row) (h : Chosen (.dqnt d a b) s g ts)
    (hok : ∀ t ∈ ts, row.ok ⟨g, t⟩ = true) :
    Gives (.dqnt d a b) s g ts row.d (fun v => (row.out (viewsOf g ts) v).1) (fun v => (row.out (viewsOf g ts) v).2) := by
  simp only [convertRow, Option.some.injEq] at hr
  subst hr
  refine gives_of_lane (op := fun _ => laneDqnt d a b) (exec_dqnt s) h (fun t ht => ?_)
  have ha := hok t ht
  simp only [laneDqnt, View.withTags]
  rw [if_pos ha]

theorem hadm_gives {row : TagRow} (hr : convertRow (.hadm d a imm) = some row) (h : Chosen (.hadm d a imm) s g ts)
    (hok : ∀ t ∈ ts, row.ok ⟨g, t⟩ = true) :
    Gives (.hadm d a imm) s g ts row.d (fun v => (row.out (viewsOf g ts) v).1) (fun v => (row.out (viewsOf g ts) v).2) := by
  simp only [convertRow, Option.some.injEq] at hr
  subst hr
  refine gives_of_lane (op := fun ps => laneHadm d a imm ps) (exec_hadm s) h (fun t ht => ?_)
  have ha := hok t ht
  simp only [laneHadm, View.withTags]
  rw [if_pos ha] <;> rfl

theorem trpk_gives {row : TagRow} (hr : convertRow (.trpk d a b) = some row) (h : Chosen (.trpk d a b) s g ts)
    (hok : ∀ t ∈ ts, row.ok ⟨g, t⟩ = true) :
    Gives (.trpk d a b) s g ts row.d (fun v => (row.out (viewsOf g ts) v).1) (fun v => (row.out (viewsOf g ts) v).2) := by
  simp only [convertRow, Option.some.injEq] at hr
  subst hr
  refine gives_of_lane (op := fun _ => laneTrpk d a b) (exec_trpk s) h (fun t ht => ?_)
  have ha := hok t ht
  simp only [laneTrpk, View.withTags]
  rw [if_pos ha]

theorem trex_gives {row : TagRow} (hr : convertRow (.trex d a imm) = some row) (h : Chosen (.trex d a imm) s g ts)
    (hok : ∀ t ∈ ts, row.ok ⟨g, t⟩ = true) :
    Gives (.trex d a imm) s g ts row.d (fun v => (row.out (viewsOf g ts) v).1) (fun v => (row.out (viewsOf g ts) v).2) := by
  simp only [convertRow, Option.some.injEq] at hr
  subst hr
  refine gives_of_lane (op := fun _ => laneTrex d a imm) (exec_trex s) h (fun t ht => ?_)
  have ha := hok t ht
  simp only [laneTrex, View.withTags]
  rw [if_pos ha]

theorem lutx_gives {row : TagRow} (hr : convertRow (.lutx d a b) = some row) (h : Chosen (.lutx d a b) s g ts)
    (hok : ∀ t ∈ ts, row.ok ⟨g, t⟩ = true) :
    Gives (.lutx d a b) s g ts row.d (fun v => (row.out (viewsOf g ts) v).1) (fun v => (row.out (viewsOf g ts) v).2) := by
  simp only [convertRow, Option.some.injEq] at hr
  subst hr
  refine gives_of_lane (op := fun _ => laneLutx d a b) (exec_lutx s) h (fun t ht => ?_)
  have ha := hok t ht
  simp only [Bool.and_eq_true, Option.isNone_iff_eq_none] at ha
  simp only [laneLutx, ha.2, View.withTags, ha.1, if_true]

theorem shfl_gives {row : TagRow} (hr : crossRow (.shfl d a b) = some row) (h : Chosen (.shfl d a b) s g ts)
    (hok : ∀ t ∈ ts, row.ok ⟨g, t⟩ = true) :
    Gives (.shfl d a b) s g ts row.d (fun v => (row.out (viewsOf g ts) v).1) (fun v => (row.out (viewsOf g ts) v).2) := by
  simp only [crossRow, Option.some.injEq] at hr
  subst hr
  refine gives_of_lane (op := fun ps => laneShfl d a b ps) (exec_shfl s) h (fun t ht => ?_)
  have ha := hok t ht
  simp only [moveRow, voteRow, foldRow, Bool.and_true] at ha
  simp only [laneShfl, moveRow, voteRow, foldRow, shuffleI, voteLane, View.withTags, predWord, fromLane, supplied, laneAt]
  rw [if_pos ha] <;> rfl

theorem shflx_gives {row : TagRow} (hr : crossRow (.shflx d a imm) = some row) (h : Chosen (.shflx d a imm) s g ts)
    (hok : ∀ t ∈ ts, row.ok ⟨g, t⟩ = true) :
    Gives (.shflx d a imm) s g ts row.d (fun v => (row.out (viewsOf g ts) v).1) (fun v => (row.out (viewsOf g ts) v).2) := by
  simp only [crossRow, Option.some.injEq] at hr
  subst hr
  refine gives_of_lane (op := fun ps => laneShflx d a imm ps) (exec_shflx s) h (fun t ht => ?_)
  have ha := hok t ht
  simp only [moveRow, voteRow, foldRow, Bool.and_true] at ha
  simp only [laneShflx, moveRow, voteRow, foldRow, shuffleI, voteLane, View.withTags, predWord, fromLane, supplied, laneAt]
  rw [if_pos ha] <;> rfl

theorem shflu_gives {row : TagRow} (hr : crossRow (.shflu d a imm) = some row) (h : Chosen (.shflu d a imm) s g ts)
    (hok : ∀ t ∈ ts, row.ok ⟨g, t⟩ = true) :
    Gives (.shflu d a imm) s g ts row.d (fun v => (row.out (viewsOf g ts) v).1) (fun v => (row.out (viewsOf g ts) v).2) := by
  simp only [crossRow, Option.some.injEq] at hr
  subst hr
  refine gives_of_lane (op := fun ps => laneShflu d a imm ps) (exec_shflu s) h (fun t ht => ?_)
  have ha := hok t ht
  simp only [moveRow, voteRow, foldRow, Bool.and_true] at ha
  simp only [laneShflu, moveRow, voteRow, foldRow, shuffleI, voteLane, View.withTags, predWord, fromLane, supplied, laneAt]
  rw [if_pos ha] <;> rfl

theorem shfld_gives {row : TagRow} (hr : crossRow (.shfld d a imm) = some row) (h : Chosen (.shfld d a imm) s g ts)
    (hok : ∀ t ∈ ts, row.ok ⟨g, t⟩ = true) :
    Gives (.shfld d a imm) s g ts row.d (fun v => (row.out (viewsOf g ts) v).1) (fun v => (row.out (viewsOf g ts) v).2) := by
  simp only [crossRow, Option.some.injEq] at hr
  subst hr
  refine gives_of_lane (op := fun ps => laneShfld d a imm ps) (exec_shfld s) h (fun t ht => ?_)
  have ha := hok t ht
  simp only [moveRow, voteRow, foldRow, Bool.and_true] at ha
  simp only [laneShfld, moveRow, voteRow, foldRow, shuffleI, voteLane, View.withTags, predWord, fromLane, supplied, laneAt]
  rw [if_pos ha] <;> rfl

theorem bcst_gives {row : TagRow} (hr : crossRow (.bcst d a imm) = some row) (h : Chosen (.bcst d a imm) s g ts)
    (hok : ∀ t ∈ ts, row.ok ⟨g, t⟩ = true) :
    Gives (.bcst d a imm) s g ts row.d (fun v => (row.out (viewsOf g ts) v).1) (fun v => (row.out (viewsOf g ts) v).2) := by
  simp only [crossRow, Option.some.injEq] at hr
  subst hr
  refine gives_of_lane (op := fun ps => laneBcst d a imm ps) (exec_bcst s) h (fun t ht => ?_)
  have ha := hok t ht
  simp only [moveRow, voteRow, foldRow, Bool.and_true] at ha
  simp only [laneBcst, moveRow, voteRow, foldRow, shuffleI, voteLane, View.withTags, predWord, fromLane, supplied, laneAt]
  rw [if_pos ha] <;> rfl

theorem vall_gives {row : TagRow} (hr : crossRow (.vall d a) = some row) (h : Chosen (.vall d a) s g ts)
    (hok : ∀ t ∈ ts, row.ok ⟨g, t⟩ = true) :
    Gives (.vall d a) s g ts row.d (fun v => (row.out (viewsOf g ts) v).1) (fun v => (row.out (viewsOf g ts) v).2) := by
  simp only [crossRow, Option.some.injEq] at hr
  subst hr
  refine gives_of_lane (op := fun ps => laneVall d a ps) (exec_vall s) h (fun t ht => ?_)
  have ha := hok t ht
  simp only [moveRow, voteRow, foldRow, Bool.and_true] at ha
  simp only [laneVall, moveRow, voteRow, foldRow, shuffleI, voteLane, View.withTags, predWord, fromLane, supplied, laneAt]
  rw [if_pos ha]

theorem vany_gives {row : TagRow} (hr : crossRow (.vany d a) = some row) (h : Chosen (.vany d a) s g ts)
    (hok : ∀ t ∈ ts, row.ok ⟨g, t⟩ = true) :
    Gives (.vany d a) s g ts row.d (fun v => (row.out (viewsOf g ts) v).1) (fun v => (row.out (viewsOf g ts) v).2) := by
  simp only [crossRow, Option.some.injEq] at hr
  subst hr
  refine gives_of_lane (op := fun ps => laneVany d a ps) (exec_vany s) h (fun t ht => ?_)
  have ha := hok t ht
  simp only [moveRow, voteRow, foldRow, Bool.and_true] at ha
  simp only [laneVany, moveRow, voteRow, foldRow, shuffleI, voteLane, View.withTags, predWord, fromLane, supplied, laneAt]
  rw [if_pos ha]

theorem ballot_gives {row : TagRow} (hr : crossRow (.ballot d a) = some row) (h : Chosen (.ballot d a) s g ts)
    (hok : ∀ t ∈ ts, row.ok ⟨g, t⟩ = true) :
    Gives (.ballot d a) s g ts row.d (fun v => (row.out (viewsOf g ts) v).1) (fun v => (row.out (viewsOf g ts) v).2) := by
  simp only [crossRow, Option.some.injEq] at hr
  subst hr
  refine gives_of_lane (op := fun ps => laneBallot d a ps) (exec_ballot s) h (fun t ht => ?_)
  have ha := hok t ht
  simp only [moveRow, voteRow, foldRow, Bool.and_true] at ha
  simp only [laneBallot, moveRow, voteRow, foldRow, shuffleI, voteLane, View.withTags, predWord, fromLane, supplied, laneAt]
  rw [if_pos ha]

theorem matchAny_gives {row : TagRow} (hr : crossRow (.matchAny d a) = some row) (h : Chosen (.matchAny d a) s g ts)
    (hok : ∀ t ∈ ts, row.ok ⟨g, t⟩ = true) :
    Gives (.matchAny d a) s g ts row.d (fun v => (row.out (viewsOf g ts) v).1) (fun v => (row.out (viewsOf g ts) v).2) := by
  simp only [crossRow, Option.some.injEq] at hr
  subst hr
  refine gives_of_lane (op := fun ps => laneMatchAny d a ps) (exec_matchAny s) h (fun t ht => ?_)
  have ha := hok t ht
  simp only [moveRow, voteRow, foldRow, Bool.and_true] at ha
  simp only [laneMatchAny, moveRow, voteRow, foldRow, shuffleI, voteLane, View.withTags, predWord, fromLane, supplied, laneAt]
  rw [if_pos ha]

theorem rdadd_gives {row : TagRow} (hr : crossRow (.rdadd d a) = some row) (h : Chosen (.rdadd d a) s g ts)
    (hok : ∀ t ∈ ts, row.ok ⟨g, t⟩ = true) :
    Gives (.rdadd d a) s g ts row.d (fun v => (row.out (viewsOf g ts) v).1) (fun v => (row.out (viewsOf g ts) v).2) := by
  simp only [crossRow, Option.some.injEq] at hr
  subst hr
  refine gives_of_lane (op := fun ps => laneRdadd d a ps) (exec_rdadd s) h (fun t ht => ?_)
  have ha := hok t ht
  simp only [moveRow, voteRow, foldRow, Bool.and_true] at ha
  simp only [laneRdadd, moveRow, voteRow, foldRow, shuffleI, voteLane, View.withTags, predWord, fromLane, supplied, laneAt]
  rw [if_pos ha]

theorem scan_gives {row : TagRow} (hr : crossRow (.scan d a) = some row) (h : Chosen (.scan d a) s g ts)
    (hok : ∀ t ∈ ts, row.ok ⟨g, t⟩ = true) :
    Gives (.scan d a) s g ts row.d (fun v => (row.out (viewsOf g ts) v).1) (fun v => (row.out (viewsOf g ts) v).2) := by
  simp only [crossRow, Option.some.injEq] at hr
  subst hr
  refine gives_of_lane (op := fun ps => laneScan d a ps) (exec_scan s) h (fun t ht => ?_)
  have ha := hok t ht
  simp only [moveRow, voteRow, foldRow, Bool.and_true] at ha
  simp only [laneScan, moveRow, voteRow, foldRow, shuffleI, voteLane, View.withTags, predWord, fromLane, supplied, laneAt]
  rw [if_pos ha]

theorem rdmax_gives {row : TagRow} (hr : crossRow (.rdmax d a) = some row) (h : Chosen (.rdmax d a) s g ts)
    (hok : ∀ t ∈ ts, row.ok ⟨g, t⟩ = true) :
    Gives (.rdmax d a) s g ts row.d (fun v => (row.out (viewsOf g ts) v).1) (fun v => (row.out (viewsOf g ts) v).2) := by
  simp only [crossRow, Option.some.injEq] at hr
  subst hr
  refine gives_of_lane (op := fun ps => laneRdmax d a ps) (exec_rdmax s) h (fun t ht => ?_)
  have ha := hok t ht
  simp only [moveRow, voteRow, foldRow, Bool.and_true] at ha
  simp only [laneRdmax, moveRow, voteRow, foldRow, shuffleI, voteLane, View.withTags, predWord, fromLane, supplied, laneAt]
  rw [if_pos ha]

theorem rdmin_gives {row : TagRow} (hr : crossRow (.rdmin d a) = some row) (h : Chosen (.rdmin d a) s g ts)
    (hok : ∀ t ∈ ts, row.ok ⟨g, t⟩ = true) :
    Gives (.rdmin d a) s g ts row.d (fun v => (row.out (viewsOf g ts) v).1) (fun v => (row.out (viewsOf g ts) v).2) := by
  simp only [crossRow, Option.some.injEq] at hr
  subst hr
  refine gives_of_lane (op := fun ps => laneRdmin d a ps) (exec_rdmin s) h (fun t ht => ?_)
  have ha := hok t ht
  simp only [moveRow, voteRow, foldRow, Bool.and_true] at ha
  simp only [laneRdmin, moveRow, voteRow, foldRow, shuffleI, voteLane, View.withTags, predWord, fromLane, supplied, laneAt]
  rw [if_pos ha]

theorem rank_gives {row : TagRow} (hr : crossRow (.rank d a) = some row) (h : Chosen (.rank d a) s g ts)
    (hok : ∀ t ∈ ts, row.ok ⟨g, t⟩ = true) :
    Gives (.rank d a) s g ts row.d (fun v => (row.out (viewsOf g ts) v).1) (fun v => (row.out (viewsOf g ts) v).2) := by
  simp only [crossRow, Option.some.injEq] at hr
  subst hr
  refine gives_of_lane (op := fun ps => laneRank d a ps) (exec_rank s) h (fun t ht => ?_)
  have ha := hok t ht
  simp only [laneRank, moveRow, voteRow, foldRow, shuffleI, voteLane, View.withTags, predWord, fromLane, supplied, laneAt]
  rw [if_pos ha]

theorem cmpct_gives {row : TagRow} (hr : crossRow (.cmpct d a b) = some row) (h : Chosen (.cmpct d a b) s g ts)
    (hok : ∀ t ∈ ts, row.ok ⟨g, t⟩ = true) :
    Gives (.cmpct d a b) s g ts row.d (fun v => (row.out (viewsOf g ts) v).1) (fun v => (row.out (viewsOf g ts) v).2) := by
  simp only [crossRow, Option.some.injEq] at hr
  subst hr
  refine gives_of_lane (op := fun ps => laneCmpct d a b ps) (exec_cmpct s) h (fun t ht => ?_)
  have ha := hok t ht
  simp only [laneCmpct, moveRow, voteRow, foldRow, shuffleI, voteLane, View.withTags, predWord, fromLane, supplied, laneAt]
  rw [if_pos ha] <;> rfl

end Sys2Proof.Machine
end

