-- ==== Sys2Proof/Laws/Units.lean ====
section
/-! SUPPORT. The named updates of the part's own units: dies, ports, counters and directory entries, one lemma per
field that each leaves alone, and what a directory entry reads as after it has been put back. -/

namespace Sys2Proof.Machine

@[simp] theorem State.setDie_cur (s : State) (die : Nat) (st : DieSt) : (s.setDie die st).cur = s.cur := rfl
@[simp] theorem State.setDie_agenda (s : State) (die : Nat) (st : DieSt) : (s.setDie die st).agenda = s.agenda := rfl
@[simp] theorem State.setDie_turn (s : State) (die : Nat) (st : DieSt) : (s.setDie die st).turn = s.turn := rfl
@[simp] theorem State.setDie_free (s : State) (die : Nat) (st : DieSt) : (s.setDie die st).free = s.free := rfl
@[simp] theorem State.setDie_next (s : State) (die : Nat) (st : DieSt) : (s.setDie die st).next = s.next := rfl
@[simp] theorem State.setDie_ctxs (s : State) (die : Nat) (st : DieSt) : (s.setDie die st).ctxs = s.ctxs := rfl
@[simp] theorem State.setDie_grids (s : State) (die : Nat) (st : DieSt) : (s.setDie die st).grids = s.grids := rfl
@[simp] theorem State.setDie_teams (s : State) (die : Nat) (st : DieSt) : (s.setDie die st).teams = s.teams := rfl
@[simp] theorem State.setDie_groups (s : State) (die : Nat) (st : DieSt) : (s.setDie die st).groups = s.groups := rfl
@[simp] theorem State.setDie_arrs (s : State) (die : Nat) (st : DieSt) : (s.setDie die st).arrs = s.arrs := rfl
@[simp] theorem State.setDie_pends (s : State) (die : Nat) (st : DieSt) : (s.setDie die st).pends = s.pends := rfl
@[simp] theorem State.setDie_locks (s : State) (die : Nat) (st : DieSt) : (s.setDie die st).locks = s.locks := rfl
@[simp] theorem State.setDie_scopes (s : State) (die : Nat) (st : DieSt) : (s.setDie die st).scopes = s.scopes := rfl
@[simp] theorem State.setDie_mem (s : State) (die : Nat) (st : DieSt) : (s.setDie die st).mem = s.mem := rfl
@[simp] theorem State.setDie_coh (s : State) (die : Nat) (st : DieSt) : (s.setDie die st).coh = s.coh := rfl
@[simp] theorem State.setDie_dist (s : State) (die : Nat) (st : DieSt) : (s.setDie die st).dist = s.dist := rfl
@[simp] theorem State.setDie_peer (s : State) (die : Nat) (st : DieSt) : (s.setDie die st).peer = s.peer := rfl

@[simp] theorem State.raiseDie_cur (s : State) (die : Nat) : (s.raiseDie die).cur = s.cur := rfl
@[simp] theorem State.raiseDie_agenda (s : State) (die : Nat) : (s.raiseDie die).agenda = s.agenda := rfl
@[simp] theorem State.raiseDie_turn (s : State) (die : Nat) : (s.raiseDie die).turn = s.turn := rfl
@[simp] theorem State.raiseDie_free (s : State) (die : Nat) : (s.raiseDie die).free = s.free := rfl
@[simp] theorem State.raiseDie_next (s : State) (die : Nat) : (s.raiseDie die).next = s.next := rfl
@[simp] theorem State.raiseDie_ctxs (s : State) (die : Nat) : (s.raiseDie die).ctxs = s.ctxs := rfl
@[simp] theorem State.raiseDie_grids (s : State) (die : Nat) : (s.raiseDie die).grids = s.grids := rfl
@[simp] theorem State.raiseDie_teams (s : State) (die : Nat) : (s.raiseDie die).teams = s.teams := rfl
@[simp] theorem State.raiseDie_groups (s : State) (die : Nat) : (s.raiseDie die).groups = s.groups := rfl
@[simp] theorem State.raiseDie_arrs (s : State) (die : Nat) : (s.raiseDie die).arrs = s.arrs := rfl
@[simp] theorem State.raiseDie_pends (s : State) (die : Nat) : (s.raiseDie die).pends = s.pends := rfl
@[simp] theorem State.raiseDie_locks (s : State) (die : Nat) : (s.raiseDie die).locks = s.locks := rfl
@[simp] theorem State.raiseDie_scopes (s : State) (die : Nat) : (s.raiseDie die).scopes = s.scopes := rfl
@[simp] theorem State.raiseDie_mem (s : State) (die : Nat) : (s.raiseDie die).mem = s.mem := rfl
@[simp] theorem State.raiseDie_coh (s : State) (die : Nat) : (s.raiseDie die).coh = s.coh := rfl
@[simp] theorem State.raiseDie_dist (s : State) (die : Nat) : (s.raiseDie die).dist = s.dist := rfl
@[simp] theorem State.raiseDie_peer (s : State) (die : Nat) : (s.raiseDie die).peer = s.peer := rfl

@[simp] theorem State.setPort_cur (s : State) (n : Nat) (p : Port) : (s.setPort n p).cur = s.cur := rfl
@[simp] theorem State.setPort_agenda (s : State) (n : Nat) (p : Port) : (s.setPort n p).agenda = s.agenda := rfl
@[simp] theorem State.setPort_turn (s : State) (n : Nat) (p : Port) : (s.setPort n p).turn = s.turn := rfl
@[simp] theorem State.setPort_free (s : State) (n : Nat) (p : Port) : (s.setPort n p).free = s.free := rfl
@[simp] theorem State.setPort_next (s : State) (n : Nat) (p : Port) : (s.setPort n p).next = s.next := rfl
@[simp] theorem State.setPort_ctxs (s : State) (n : Nat) (p : Port) : (s.setPort n p).ctxs = s.ctxs := rfl
@[simp] theorem State.setPort_grids (s : State) (n : Nat) (p : Port) : (s.setPort n p).grids = s.grids := rfl
@[simp] theorem State.setPort_teams (s : State) (n : Nat) (p : Port) : (s.setPort n p).teams = s.teams := rfl
@[simp] theorem State.setPort_groups (s : State) (n : Nat) (p : Port) : (s.setPort n p).groups = s.groups := rfl
@[simp] theorem State.setPort_arrs (s : State) (n : Nat) (p : Port) : (s.setPort n p).arrs = s.arrs := rfl
@[simp] theorem State.setPort_pends (s : State) (n : Nat) (p : Port) : (s.setPort n p).pends = s.pends := rfl
@[simp] theorem State.setPort_locks (s : State) (n : Nat) (p : Port) : (s.setPort n p).locks = s.locks := rfl
@[simp] theorem State.setPort_scopes (s : State) (n : Nat) (p : Port) : (s.setPort n p).scopes = s.scopes := rfl
@[simp] theorem State.setPort_mem (s : State) (n : Nat) (p : Port) : (s.setPort n p).mem = s.mem := rfl
@[simp] theorem State.setPort_coh (s : State) (n : Nat) (p : Port) : (s.setPort n p).coh = s.coh := rfl
@[simp] theorem State.setPort_dist (s : State) (n : Nat) (p : Port) : (s.setPort n p).dist = s.dist := rfl
@[simp] theorem State.setPort_peer (s : State) (n : Nat) (p : Port) : (s.setPort n p).peer = s.peer := rfl

@[simp] theorem State.countDead_cur (s : State) : s.countDead.cur = s.cur := rfl
@[simp] theorem State.countDead_agenda (s : State) : s.countDead.agenda = s.agenda := rfl
@[simp] theorem State.countDead_turn (s : State) : s.countDead.turn = s.turn := rfl
@[simp] theorem State.countDead_free (s : State) : s.countDead.free = s.free := rfl
@[simp] theorem State.countDead_next (s : State) : s.countDead.next = s.next := rfl
@[simp] theorem State.countDead_ctxs (s : State) : s.countDead.ctxs = s.ctxs := rfl
@[simp] theorem State.countDead_grids (s : State) : s.countDead.grids = s.grids := rfl
@[simp] theorem State.countDead_teams (s : State) : s.countDead.teams = s.teams := rfl
@[simp] theorem State.countDead_groups (s : State) : s.countDead.groups = s.groups := rfl
@[simp] theorem State.countDead_arrs (s : State) : s.countDead.arrs = s.arrs := rfl
@[simp] theorem State.countDead_pends (s : State) : s.countDead.pends = s.pends := rfl
@[simp] theorem State.countDead_locks (s : State) : s.countDead.locks = s.locks := rfl
@[simp] theorem State.countDead_scopes (s : State) : s.countDead.scopes = s.scopes := rfl
@[simp] theorem State.countDead_mem (s : State) : s.countDead.mem = s.mem := rfl
@[simp] theorem State.countDead_coh (s : State) : s.countDead.coh = s.coh := rfl
@[simp] theorem State.countDead_dist (s : State) : s.countDead.dist = s.dist := rfl
@[simp] theorem State.countDead_peer (s : State) : s.countDead.peer = s.peer := rfl

@[simp] theorem State.moveNext_cur (s : State) (v : VaultMove) : (s.moveNext v).cur = s.cur := by unfold State.moveNext; rfl
@[simp] theorem State.moveNext_agenda (s : State) (v : VaultMove) : (s.moveNext v).agenda = s.agenda := by unfold State.moveNext; rfl
@[simp] theorem State.moveNext_turn (s : State) (v : VaultMove) : (s.moveNext v).turn = s.turn := by unfold State.moveNext; rfl
@[simp] theorem State.moveNext_free (s : State) (v : VaultMove) : (s.moveNext v).free = s.free := by unfold State.moveNext; rfl
@[simp] theorem State.moveNext_next (s : State) (v : VaultMove) : (s.moveNext v).next = s.next := by unfold State.moveNext; rfl
@[simp] theorem State.moveNext_ctxs (s : State) (v : VaultMove) : (s.moveNext v).ctxs = s.ctxs := by unfold State.moveNext; rfl
@[simp] theorem State.moveNext_grids (s : State) (v : VaultMove) : (s.moveNext v).grids = s.grids := by unfold State.moveNext; rfl
@[simp] theorem State.moveNext_teams (s : State) (v : VaultMove) : (s.moveNext v).teams = s.teams := by unfold State.moveNext; rfl
@[simp] theorem State.moveNext_groups (s : State) (v : VaultMove) : (s.moveNext v).groups = s.groups := by unfold State.moveNext; rfl
@[simp] theorem State.moveNext_arrs (s : State) (v : VaultMove) : (s.moveNext v).arrs = s.arrs := by unfold State.moveNext; rfl
@[simp] theorem State.moveNext_pends (s : State) (v : VaultMove) : (s.moveNext v).pends = s.pends := by unfold State.moveNext; rfl
@[simp] theorem State.moveNext_locks (s : State) (v : VaultMove) : (s.moveNext v).locks = s.locks := by unfold State.moveNext; rfl
@[simp] theorem State.moveNext_scopes (s : State) (v : VaultMove) : (s.moveNext v).scopes = s.scopes := by unfold State.moveNext; rfl
@[simp] theorem State.moveNext_coh (s : State) (v : VaultMove) : (s.moveNext v).coh = s.coh := by unfold State.moveNext; rfl
@[simp] theorem State.moveNext_dev (s : State) (v : VaultMove) : (s.moveNext v).dev = s.dev := by unfold State.moveNext; rfl
@[simp] theorem State.moveNext_dist (s : State) (v : VaultMove) : (s.moveNext v).dist = s.dist := by unfold State.moveNext; rfl
@[simp] theorem State.moveNext_peer (s : State) (v : VaultMove) : (s.moveNext v).peer = s.peer := by unfold State.moveNext; rfl

/-- Asking for a host line changes what is asked for, and nothing else. -/
theorem State.ask64_frame (s : State) (w : Who) (core : Option Nat) (grain pa : Nat) :
    s.ask64 w core grain pa = { s with coh := { s.coh with asks := (s.ask64 w core grain pa).coh.asks } } := by
  by_cases h : (⟨pa, if core.isSome then fillHalves grain pa else [pa / 64 * 64], core, w.pol, grain⟩ : Ask) ∈ s.coh.asks <;> simp [State.ask64, h]

/-- A block of an evacuated vault keeps the canonical form. -/
theorem Memory.wf_moveBlock {m : Memory} {src dst : Nat} (h : Memory.wf m = true) : Memory.wf (moveBlock m src dst) = true := by
  unfold moveBlock
  generalize List.range 128 = l
  induction l generalizing m with
  | nil => exact h
  | cons i r ih => exact ih (Memory.wf_write (Memory.wf_write h))

/-- What a block that has been moved reads as: the bytes of the old place at the new one, nothing at the old place, and
every other byte as before. -/
theorem Memory.read_moveBlock (m : Memory) {src dst : Nat} (h : src + 128 ≤ dst ∨ dst + 128 ≤ src) (a : Nat) :
    (moveBlock m src dst).read a = if dst ≤ a ∧ a < dst + 128 then m.read (a - dst + src) else if src ≤ a ∧ a < src + 128 then Memory.empty else m.read a := by
  have key : ∀ n, n ≤ 128 → Memory.read ((List.range n).foldl (fun m i => (Memory.write m (dst + i) (m.read (src + i))).write (src + i) Memory.empty) m) =
      fun a => if dst ≤ a ∧ a < dst + n then m.read (a - dst + src) else if src ≤ a ∧ a < src + n then Memory.empty else m.read a := by
    intro n
    induction n with
    | zero => intro _; funext a; simp only [List.range_zero, List.foldl_nil]; rw [if_neg (by omega), if_neg (by omega)]
    | succ n ih =>
      intro hn
      funext a
      have ih := ih (by omega)
      simp only [List.range_succ, List.foldl_append, List.foldl_cons, List.foldl_nil, Memory.read_write, congrFun ih]
      repeat' split
      all_goals first | rfl | (exfalso; omega) | (congr 1; omega)
  exact congrFun (key 128 (Nat.le_refl _)) a

@[simp] theorem State.softError_cur (s : State) : s.softError.cur = s.cur := rfl
@[simp] theorem State.softError_agenda (s : State) : s.softError.agenda = s.agenda := rfl
@[simp] theorem State.softError_turn (s : State) : s.softError.turn = s.turn := rfl
@[simp] theorem State.softError_free (s : State) : s.softError.free = s.free := rfl
@[simp] theorem State.softError_next (s : State) : s.softError.next = s.next := rfl
@[simp] theorem State.softError_ctxs (s : State) : s.softError.ctxs = s.ctxs := rfl
@[simp] theorem State.softError_grids (s : State) : s.softError.grids = s.grids := rfl
@[simp] theorem State.softError_teams (s : State) : s.softError.teams = s.teams := rfl
@[simp] theorem State.softError_groups (s : State) : s.softError.groups = s.groups := rfl
@[simp] theorem State.softError_arrs (s : State) : s.softError.arrs = s.arrs := rfl
@[simp] theorem State.softError_pends (s : State) : s.softError.pends = s.pends := rfl
@[simp] theorem State.softError_locks (s : State) : s.softError.locks = s.locks := rfl
@[simp] theorem State.softError_scopes (s : State) : s.softError.scopes = s.scopes := rfl
@[simp] theorem State.softError_mem (s : State) : s.softError.mem = s.mem := rfl
@[simp] theorem State.softError_coh (s : State) : s.softError.coh = s.coh := rfl
@[simp] theorem State.softError_dist (s : State) : s.softError.dist = s.dist := rfl
@[simp] theorem State.softError_peer (s : State) : s.softError.peer = s.peer := rfl

/-- Reading a record back keeps shared memory canonical (R31, R334). -/
theorem Team.wf_fromRecord {t : Team} (r : LaunchRec) (rd : Nat → Option Word) (h : Memory.wf t.shared = true) :
    Memory.wf (t.fromRecord r rd).shared = true := by
  unfold Team.fromRecord
  refine List.foldlRecOn (motive := fun m => Memory.wf m = true) _ _ h (fun m hm k _ => ?_)
  split
  · exact Memory.wf_writeWord hm
  · exact hm

/-- A record with EXITED set gives an exited thread (R32). -/
theorem Thread.fromRecord_exited (t : Thread) (n : Nat) (kind : SaveKind) {rd : Nat → Option Word} {w : Word} (h : rd 1 = some w) (hw : w.getLsbD 0 = true) :
    t.fromRecord n kind rd = t.exit := by
  unfold Thread.fromRecord
  rw [h]
  exact if_pos hw

@[simp] theorem Thread.fromRecord_tid (t : Thread) (n : Nat) (kind : SaveKind) (rd : Nat → Option Word) : (t.fromRecord n kind rd).tid = t.tid := by
  unfold Thread.fromRecord
  split <;> split <;> rfl

/-- A directory that holds fewer than 16 entries has room for any line (R341). -/
theorem Coh.dirRoom_of_few (c : Coh) (line : Nat) (h : c.dir.length < 16) : c.dirRoom line = true := by
  have : (c.dirSetOf line).length < 16 := Nat.lt_of_le_of_lt (List.length_filter_le _ _) h
  simp [Coh.dirRoom, this]

/-- A directory entry that has been put back reads as it was put, whether or not it takes a place. -/
theorem Coh.entry_setEntry_same (c : Coh) (e : DirEnt) (h : e.st = .i → e.busy = none → e.waiting = [] → e.owner = none ∧ e.sharers = []) :
    (c.setEntry e).entry e.line = e := by
  by_cases hd : (e.st == .i && e.busy.isNone && e.waiting.isEmpty) = true
  · obtain ⟨⟨h1, h2⟩, h3⟩ : (e.st = .i ∧ e.busy = none) ∧ e.waiting = [] := by simpa using hd
    obtain ⟨h4, h5⟩ := h h1 h2 h3
    obtain ⟨l, st, o, sh, b, w⟩ := e
    simp_all [Coh.entry, Coh.setEntry]
    rw [List.find?_eq_none.mpr (by simp)]
    rfl
  · simp [Coh.entry, Coh.setEntry, hd]

/-- The entry of another line stands. -/
theorem Coh.entry_setEntry_other (c : Coh) (e : DirEnt) (line : Nat) (h : line ≠ e.line) : (c.setEntry e).entry line = c.entry line := by
  have hf : c.dir.find? (fun d => !decide (d.line = e.line) && decide (d.line = line)) = c.dir.find? (fun d => decide (d.line = line)) := by
    congr 1
    funext d
    by_cases hd : d.line = line
    · subst hd; simp [h]
    · simp [hd]
  have hl : decide (e.line = line) = false := by simpa using Ne.symm h
  by_cases hd : (e.st == .i && e.busy.isNone && e.waiting.isEmpty) = true <;> simp [Coh.entry, Coh.setEntry, hd, hl, hf]

end Sys2Proof.Machine
end

