-- ==== Sys2Proof/Tests/Slice0.lean ====
section
/-! SUPPORT. Tests: words decoded as the encoding tables give them, ill-formed terms that WellFormed
refuses, the manual's worked examples, and for each statement with hypotheses states and operands that
meet them. -/

namespace Sys2Proof.Tests

set_option Elab.async false

open Sys2Proof.Machine

/-! Decoding: one word of each class, its fields written from R60 and its opcode from R68. -/

-- op d a b, one byte each: 01 05 06 07 (format RR).
theorem test_decode_add : decodeTableWord 32 0x01050607 = some (.add 5 6 7) := by decide
theorem test_decode_shli : decodeTableWord 32 0x1A05061F = some (.shli 5 6 31) := by decide
theorem test_decode_lui : decodeTableWord 32 0x2D031234 = some (.lui 3 0x1234) := by decide
theorem test_decode_sqrt : decodeTableWord 32 0x33080700 = some (.sqrt 8 7) := by decide
theorem test_decode_clti : decodeTableWord 32 0x4801FB01 = some (.clti 1 0xFB 1) := by decide
theorem test_decode_ctag : decodeTableWord 32 0x45010203 = some (.ctag 1 2 3) := by decide
theorem test_decode_bcst : decodeTableWord 32 0x64040502 = some (.bcst 4 5 2) := by decide
-- BR: a in [23:16], off16 below.
theorem test_decode_bnz : decodeTableWord 32 0x7103FFFE = some (.bnz 3 0xFFFE) := by decide
-- M: stream in f[7:4], tag in f[3:0]; stores hold the policy in f[3:2].
theorem test_decode_ldg4 : decodeTableWord 32 0x8A0C0603 = some (.ldg4 12 6 0 3) := by decide
theorem test_decode_stt : decodeTableWord 32 0x94050678 = some (.stt 5 6 7 2) := by decide
theorem test_decode_atg : decodeTableWord 32 0xA0050616 = some (.atg 5 6 1 .xchg) := by decide
theorem test_decode_fncx : decodeTableWord 32 0xAB048001 = some (.fncx .sys 0x8001) := by decide
theorem test_decode_barv : decodeTableWord 32 0xAC050047 = some (.barv 5 0x47) := by decide
theorem test_decode_barv_register : decodeTableWord 32 0xAC0506C0 = some (.barvReg 5 6) := by decide
theorem test_decode_cpy : decodeTableWord 32 0xB0080A0C = some (.cpy 8 10 12) := by decide
theorem test_decode_dzro : decodeTableWord 32 0xC50000FF = some (.dzro 0xFF) := by decide
theorem test_decode_lnchs : decodeTableWord 32 0xD1040608 = some (.lnchs 4 6 8) := by decide
theorem test_decode_srd : decodeTableWord 32 0xE003010C = some (.srd 3 0x10C) := by decide
theorem test_decode_hord : decodeTableWord 32 0xF3000054 = some (.hord true 1 .sys) := by decide

/-! Words that are no instruction (R71 checks 1 and 3). -/

theorem test_decode_unassigned : decodeTableWord 32 0x6F000000 = none := by decide
theorem test_decode_field_not_zero : decodeTableWord 32 0x07050601 = none := by decide
theorem test_decode_atomic_code_7 : decodeTableWord 32 0xA0050617 = none := by decide
theorem test_decode_scope_5 : decodeTableWord 32 0xAA000005 = none := by decide
theorem test_decode_barrier_16 : decodeTableWord 32 0xAC050050 = none := by decide
theorem test_decode_bytes_little_endian : decodeBytes [7, 6, 5, 1, 0xAA] = some (.ok (.add 5 6 7), [0xAA]) := rfl
theorem test_encode_hoff : encode (.hoff 0x123456) = some 0xF6123456 := by decide

/-! WellFormed: an ill-formed term for each check. -/

theorem test_wellFormed : wellFormed 32 (.add 5 6 7) = true := by decide
theorem test_illFormed_source : wellFormed 32 (.add 5 0xFF 7) = false := by decide
theorem test_illFormed_destination : wellFormed 32 (.add 0xFA 6 7) = false := by decide
theorem test_illFormed_read_and_written : wellFormed 32 (.fma 0xFB 6 7) = false := by decide
theorem test_illFormed_set : wellFormed 32 (.ldg4 14 6 0 0) = false := by decide
theorem test_illFormed_set_special : wellFormed 32 (.ldg2 0xF8 6 0 0) = false := by decide
theorem test_illFormed_barrier : wellFormed 32 (.barv 5 0x50) = false := by decide
theorem test_illFormed_hsrc : wellFormed 32 (.hsrc 0xFF) = false := by decide
theorem test_illFormed_reserved_field : wellFormed 32 (.shli 5 6 32) = false := by decide
theorem test_illFormed_lane_of_width : wellFormed 16 (.bcst 4 5 16) = false := by decide

/-! A small machine: context 1, one grid of one team, one group of one thread or a queue thread, a page
table with one 16 GiB leaf at frame 0. -/

/-- Context 1. -/
def ctx1 : Ctx :=
  { id := 1, ptRoot := 0x10000, saveBase := 0x200000, saveBytes := 0x100000, faultBase := 0x300000, faultLen := 64, vecFirst := 8, vecCount := 4, codeBase := 0x100000 }

/-- A launch record: one team of one group of 32 threads with 16 registers. -/
def rcd1 : LaunchRec :=
  { entry := 0, width := 32, nregs := 16, trapMode := true, cls := 0, preden := false, autofree := false, queue := 3, teams := 1, threads := 32, spanp := 1, spanf := 0
    shared := 4096, tile := 64, paramb := 8, predoff := 0, gbars := 0xFFFF, tbars := 1, dbars := 1, regions := [], vtag := 0, compl := 0x400000 }

/-- Grid 0x400 of context 1, whose one team has been dispatched. -/
def grid1 : Grid := { ctx := 1, handle := 0x400, rcd := rcd1, params := [(0, 0x2A)], nextTmid := 1 }

/-- Its team. -/
def team1 : Team := { key := ⟨1, 0x400, 0⟩, die := 0, core := 2, pair := false, phase := .running, tileBase := 0, tileWords := 64 }

/-- A thread at 0x40 with registers. -/
def thread1 (regs : Store Reg) : Thread := { tid := 0, lane := 0, pc := 0x40, regs := regs }

/-- The group of a thread. -/
def group1 (t : Thread) : Group := { key := .kernel 1 0x400 0 0, width := 32, nregs := 16, threads := [t], core := 2, active := true }

/-- A privileged queue thread of context 1 in slot 3. -/
def queue1 (t : Thread) : Group := { key := .queue 3, width := 1, nregs := 16, threads := [t], priv := true, qctx := 1, active := true }

/-- The machine with a group, its threads chosen. -/
def machine1 (g : Group) : State :=
  { State.reset with
    cur := some ⟨g.key, g.threads.map Thread.tid⟩, ctxs := [ctx1], grids := [grid1], teams := [team1], groups := [g]
    mem := { ram := placeMem [] [0x01050607] }, dev := { State.reset.dev with ready := true, boot := 5, dies := List.replicate 8 .online, vaultSplit := List.replicate 8 8 } }

/-- The machine with one thread. -/
def kernel (regs : Store Reg) : State := machine1 (group1 (thread1 regs))
/-- The machine with one queue thread. -/
def queue (regs : Store Reg) : State := machine1 (queue1 (thread1 regs))

/-- Registers of one tag. -/
def ints (l : List (Nat × Word)) : Store Reg := l.map (fun p => (p.1, ⟨p.2, .int⟩))

/-- v5 to v7 with INT values. -/
def r567 : Store Reg := ints [(5, 1), (6, 2), (7, 3)]

/-! Lanes: for each table, an instruction, a state and operands that meet the statement's hypotheses. -/

/-- What `ValueRowsHold` asks for. -/
def ValueWitness (table : Instr → Option ValueRow) (i : Instr) (regs : Store Reg) (T : Tag) : Prop :=
  ∃ row, table i = some row ∧ Chosen i (kernel regs) (group1 (thread1 regs)) [thread1 regs] ∧
    row.accept T = true ∧ Carries ⟨group1 (thread1 regs), thread1 regs⟩ (row.srcs ⟨group1 (thread1 regs), thread1 regs⟩) T

/-- What `TagRowsHold` asks for. -/
def TagWitness (table : Instr → Option TagRow) (i : Instr) (regs : Store Reg) : Prop :=
  ∃ row, table i = some row ∧ Chosen i (kernel regs) (group1 (thread1 regs)) [thread1 regs] ∧ row.ok ⟨group1 (thread1 regs), thread1 regs⟩ = true

theorem witness_ArithmeticGivesItsResult : ValueWitness arithRow (.add 5 6 7) r567 .int :=
  ⟨_, rfl, ⟨⟨_, rfl, rfl, rfl⟩, _, _, rfl, by decide, by decide⟩, by decide, by unfold Carries; decide⟩
/-- All sources `zero`: INT (R15). -/
theorem witness_ArithmeticGivesItsResult_zero : ValueWitness arithRow (.add 5 0xF9 0xF9) r567 .int :=
  ⟨_, rfl, ⟨⟨_, rfl, rfl, rfl⟩, _, _, rfl, by decide, by decide⟩, by decide, by unfold Carries; decide⟩
theorem witness_IntegerGivesItsResult : ValueWitness integerRow (.div 5 6 7) r567 .int :=
  ⟨_, rfl, ⟨⟨_, rfl, rfl, rfl⟩, _, _, rfl, by decide, by decide⟩, by decide, by unfold Carries; decide⟩
theorem witness_FloatGivesItsResult : ValueWitness floatRow (.sqrt 5 6) [(6, ⟨0x40800000, .flt⟩)] .flt :=
  ⟨_, rfl, ⟨⟨_, rfl, rfl, rfl⟩, _, _, rfl, by decide, by decide⟩, by decide, by unfold Carries; decide⟩
theorem witness_CompareGivesPredicate : ValueWitness compareRow (.clt 5 6 7) r567 .int :=
  ⟨_, rfl, ⟨⟨_, rfl, rfl, rfl⟩, _, _, rfl, by decide, by decide⟩, by decide, by unfold Carries; decide⟩
theorem witness_LogicGivesItsResult : TagWitness logicRow (.xor 5 6 7) r567 :=
  ⟨_, rfl, ⟨⟨_, rfl, rfl, rfl⟩, _, _, rfl, by decide, by decide⟩, by decide⟩
theorem witness_ConversionGivesItsResult : TagWitness convertRow (.ctag 5 6 1) r567 :=
  ⟨_, rfl, ⟨⟨_, rfl, rfl, rfl⟩, _, _, rfl, by decide, by decide⟩, by decide⟩
theorem witness_CrossLaneGivesItsResult : TagWitness crossRow (.shfl 5 6 7) r567 :=
  ⟨_, rfl, ⟨⟨_, rfl, rfl, rfl⟩, _, _, rfl, by decide, by decide⟩, by decide⟩

/-- A view of `thread1`. -/
def view1 (regs : Store Reg) : View := ⟨group1 (thread1 regs), thread1 regs⟩

theorem witness_SelectorsReadAndWrite_zero : Carries (view1 r567) [6, 0xF9] .int ∧ (0xF9 : Sel) ∈ [(6 : Sel), 0xF9] :=
  ⟨by unfold Carries; decide, by decide⟩
theorem witness_SelectorsReadAndWrite_ok : (view1 r567).values { a := some 6, b := some 0xF9 } genTag = .ok .int := rfl
theorem witness_SelectorsReadAndWrite_error : ∃ e, (view1 r567).values { a := some 6, b := some 8 } genTag = .error e := ⟨_, rfl⟩

/-! The machine as a whole. -/

theorem witness_StepRunsTheDecodedInstruction :
    ∃ (s s1 : State) (c : Issue) (g : Group) (t : Thread) (w : Word) (i : Instr), s.dev.fatal = false ∧ s.cur = some c ∧ s.group? c.key = some g ∧
      c.threads g = [t] ∧ s.fetch g t.pc = (s1, .ok w) ∧ decode w = .ok i ∧ t.boundaryTrap = none ∧ t.attrDue (some i) = none ∧ wellFormed g.width i = true := by
  have h : (State.reset.withFetchWord 32 0x01050607).group? (.queue 0) = some placeGroup := rfl
  exact ⟨State.reset.withFetchWord 32 0x01050607, _, _, _, _, _, _, rfl, rfl, h, rfl, rfl, rfl, rfl, rfl, by decide⟩
theorem witness_StepRunsTheDecodedInstruction_parity : parityDue placeGroup (newThread 0 0 0) (some (.add 5 6 7)) = none ∧ (newThread 0 0 0).inHandler = false := ⟨rfl, rfl⟩
theorem witness_StepRunsTheDecodedInstruction_event : ∃ (s : State) (e : Instr) (r : List Instr), s.dev.fatal = false ∧ s.cur = none ∧ s.agenda = e :: r :=
  ⟨{ State.reset with agenda := [.thermalThrottle] }, _, _, rfl, rfl, rfl⟩
theorem witness_StepRunsTheDecodedInstruction_fatal : ∃ (s : State) (e : Instr) (r : List Instr), s.dev.fatal = true ∧ s.agenda = e :: r :=
  ⟨{ State.reset with agenda := [.thermalThrottle], dev := { State.reset.dev with fatal := true } }, _, _, rfl, rfl⟩
theorem witness_EveryStepKeepsMemoryCanonical : ∃ s s', MemOk s ∧ step s = .next s' :=
  ⟨State.reset, _, ⟨rfl, rfl, by intro t ht; cases ht⟩, rfl⟩
theorem witness_DecodeAndEncodeAgree : wellFormed 32 (.add 5 6 7) = true ∧ encode (.add 5 6 7) = some 0x01050607 := by decide
theorem witness_DecodeAndEncodeAgree_word : decode 0xAC0506C0#32 = .ok (.barvReg 5 6) := rfl

/-! Control, hints, traps. -/

theorem witness_ControlTransfersJump : ∃ row, controlRow (.brx 5) = some row ∧
    Chosen (.brx 5) (kernel (ints [(5, 0x80)])) (group1 (thread1 (ints [(5, 0x80)]))) [thread1 (ints [(5, 0x80)])] ∧
    row.ok (view1 (ints [(5, 0x80)])) = true :=
  ⟨_, rfl, ⟨⟨_, rfl, rfl, rfl⟩, _, _, rfl, by decide, by decide⟩, by decide⟩
theorem witness_HintAndPauseWait_hint : ∃ f, hintRow (.hoff 0x800000) = some f ∧ Chosen (.hoff 0x800000) (kernel []) (group1 (thread1 [])) [thread1 []] :=
  ⟨_, rfl, ⟨⟨_, rfl, rfl, rfl⟩, _, _, rfl, by decide, by decide⟩⟩
theorem witness_HintAndPauseWait_pause : Chosen .pause (kernel []) (group1 (thread1 [])) [thread1 []] :=
  ⟨⟨_, rfl, rfl, rfl⟩, _, _, rfl, by decide, by decide⟩
theorem witness_HintAndPauseWait_pauseEnd : (kernel []).thread? (.kernel 1 0x400 0 0) 0 = some (thread1 []) := rfl

/-- A machine whose context has a trap handler at 0x200. -/
def handled (s : State) : State := { s with ctxs := [{ ctx1 with trapVec := 0x201 }] }

theorem witness_TrapsAreTakenAndReturned_trap :
    Chosen (.trap 7) (handled (kernel [])) (group1 (thread1 [])) [thread1 []] ∧ (handled (kernel [])).handler? 1 = some 0x200 ∧
      (thread1 []).inHandler = false ∧ (thread1 []).exited = false :=
  ⟨⟨⟨_, rfl, rfl, rfl⟩, _, _, rfl, by decide, by decide⟩, rfl, rfl, rfl⟩
theorem witness_TrapsAreTakenAndReturned_any :
    (handled (kernel [])).group? (.kernel 1 0x400 0 0) = some (group1 (thread1 [])) ∧ (group1 (thread1 [])).thread? 0 = some (thread1 []) ∧
      (handled (kernel [])).handler? (group1 (thread1 [])).ctx = some 0x200 ∧ (⟨.page, 1, 0, .precise⟩ : Trap).cause ≠ .version :=
  ⟨rfl, rfl, rfl, by decide⟩
theorem witness_TrapsAreTakenAndReturned_eret :
    let t : Thread := { thread1 [] with inHandler := true, trapPc := 0x44 }
    Chosen .eret (machine1 (group1 t)) (group1 t) [t] ∧ t.inHandler = true ∧ preemptSave (((machine1 (group1 t)).teamOf? (group1 t).key).bind Team.req) t = false :=
  ⟨⟨⟨_, rfl, rfl, rfl⟩, _, _, rfl, by decide, by decide⟩, rfl, by decide⟩

/-- A group of two threads, the first of them chosen. -/
def pair1 : Group := { group1 (thread1 []) with threads := [thread1 [], { thread1 [] with tid := 1, lane := 1 }] }
/-- Its machine. -/
def pairMachine : State := { machine1 pair1 with cur := some ⟨pair1.key, [0]⟩ }

theorem witness_ExitAndYield_one :
    Chosen .exit pairMachine pair1 [thread1 []] ∧ pair1.thread? 0 = some (thread1 []) ∧ pair1.key.isQueue = false ∧
      pair1.thread? 1 = some { thread1 [] with tid := 1, lane := 1 } :=
  ⟨⟨⟨_, rfl, rfl, rfl⟩, _, _, rfl, by decide, by decide⟩, rfl, rfl, rfl⟩
theorem witness_ExitAndYield_last :
    Chosen .exit (kernel []) (group1 (thread1 [])) [thread1 []] ∧ (group1 (thread1 [])).key.team = some ⟨1, 0x400, 0⟩ ∧
      (kernel []).teamGroups ⟨1, 0x400, 0⟩ = [group1 (thread1 [])] ∧ (kernel []).grid? 1 0x400 = some grid1 ∧ (group1 (thread1 [])).held = [] ∧ (kernel []).arrs = [] :=
  ⟨⟨⟨_, rfl, rfl, rfl⟩, _, _, rfl, by decide, by decide⟩, rfl, rfl, rfl, rfl, rfl⟩
theorem witness_ExitAndYield_queue :
    Chosen .exit (queue []) (queue1 (thread1 [])) [thread1 []] ∧ (queue1 (thread1 [])).key = .queue 3 ∧ 3 < (queue []).dev.qtctl.length :=
  ⟨⟨⟨_, rfl, rfl, rfl⟩, _, _, rfl, by decide, by decide⟩, rfl, by decide⟩
theorem witness_ExitAndYield_yield :
    let p : Group := { group1 (thread1 []) with key := .kernel 1 0x400 0 1, active := false }
    let s : State := { kernel [] with groups := [group1 (thread1 []), p] }
    Chosen .yield s (group1 (thread1 [])) [thread1 []] ∧ p.key ≠ (group1 (thread1 [])).key ∧
      (State.modThreads { s with cur := none } (group1 (thread1 [])).key [0] Thread.advance).pendingReady 2 0 = some p :=
  ⟨⟨⟨_, rfl, rfl, rfl⟩, _, _, rfl, by decide, by decide⟩, by decide, rfl⟩
theorem witness_IdemWritesTheCheckpoint_nop :
    Chosen (.idem 3) (kernel []) (group1 (thread1 [])) [thread1 []] ∧ (kernel []).idemTeam (group1 (thread1 [])).key = none :=
  ⟨⟨⟨_, rfl, rfl, rfl⟩, _, _, rfl, by decide, by decide⟩, rfl⟩
theorem witness_IdemWritesTheCheckpoint_write :
    let s : State := { kernel r567 with grids := [{ grid1 with rcd := { rcd1 with trapMode := false } }] }
    Chosen (.idem 0x8001) s (group1 (thread1 r567)) [thread1 r567] ∧ s.idemTeam (group1 (thread1 r567)).key = some team1 ∧
      s.busySels (group1 (thread1 r567)).key 0 = [] ∧ (thread1 r567).idemBad 16 0x8001 = none ∧ s.mem.vaults = [] :=
  ⟨⟨⟨_, rfl, rfl, rfl⟩, _, _, rfl, by decide, by decide⟩, rfl, rfl, by decide, rfl⟩
/-- With a TRIT trap pending for v5. -/
theorem witness_IdemWritesTheCheckpoint_trit :
    let t : Thread := { thread1 r567 with attr := [⟨⟨.trit, 0, 0x80000017, .attributed⟩, 0x40, [5], false, 5⟩] }
    let s : State := { machine1 (group1 t) with grids := [{ grid1 with rcd := { rcd1 with trapMode := false } }] }
    Chosen (.idem 0x8000) s (group1 t) [t] ∧ s.idemTeam (group1 t).key = some team1 ∧ t.trit?.isSome = true ∧ t.idemBad 16 0x8000 = none :=
  ⟨⟨⟨_, rfl, rfl, rfl⟩, _, _, rfl, by decide, by decide⟩, rfl, rfl, by decide⟩

theorem witness_SelectorsReadAndWrite_illegal : Use.dst 0xFA ∈ usesWith {} (.add 0xFA 6 7) ∧ Use.rw 0xFB ∈ usesWith {} (.fma 0xFB 6 7) := by decide

/-! Memory. -/

/-- The first thread of a machine's group issues an instruction. -/
def Issues (i : Instr) (regs : Store Reg) : Prop := Chosen i (kernel regs) (group1 (thread1 regs)) [thread1 regs]
/-- The queue thread does. -/
def QIssues (i : Instr) (regs : Store Reg) : Prop := Chosen i (queue regs) (queue1 (thread1 regs)) [thread1 regs]

/-- v4:v5 hold a global address, v6 a shared or tile one, v8 to v11 data. -/
def rmem : Store Reg := ints [(4, 0x120000), (5, 0), (6, 16), (8, 11), (9, 12), (10, 13), (11, 14)]

theorem witness_AccessJoinsOutstanding_shared : ∃ row s1 ws s2 s3, accessRow (.lds4 8 6 1 3) = some row ∧ Issues (.lds4 8 6 1 3) rmem ∧ row.ok (view1 rmem) = true ∧
    State.checkMem { kernel rmem with cur := none } (group1 (thread1 rmem)) (row.op (view1 rmem)) (View.address (view1 rmem) row.sp row.a) = (s1, .ok ws) ∧
    s1.copiesFor (group1 (thread1 rmem)) row.write (row.pol (view1 rmem)) ws = .ok s2 ∧ s2.markAll (group1 (thread1 rmem)).tlbUnit 1 (row.marks (view1 rmem)) = (s3, true) ∧
    s3.groups = (kernel rmem).groups :=
  ⟨_, _, _, _, _, rfl, ⟨⟨_, rfl, rfl, rfl⟩, _, _, rfl, by decide, by decide⟩, by decide, rfl, rfl, rfl, rfl⟩
theorem witness_AccessJoinsOutstanding_global : ∃ row s1 ws s2 s3, accessRow (.casg 8 4 1) = some row ∧ Issues (.casg 8 4 1) rmem ∧ row.ok (view1 rmem) = true ∧
    State.checkMem { kernel rmem with cur := none } (group1 (thread1 rmem)) (row.op (view1 rmem)) (View.address (view1 rmem) row.sp row.a) = (s1, .ok ws) ∧
    s1.copiesFor (group1 (thread1 rmem)) row.write (row.pol (view1 rmem)) ws = .ok s2 ∧ s2.markAll (group1 (thread1 rmem)).tlbUnit 1 (row.marks (view1 rmem)) = (s3, true) ∧
    s3.groups = (kernel rmem).groups :=
  ⟨_, _, _, _, _, rfl, ⟨⟨_, rfl, rfl, rfl⟩, _, _, rfl, by decide, by decide⟩, by decide, rfl, rfl, rfl, rfl⟩

/-- The first word of shared memory, and the last below SHARED, pass; the one after does not (R138). -/
theorem witness_AccessesAreChecked_bounds : (kernel []).sharedOk (group1 (thread1 [])) 0 = true ∧ (kernel []).sharedOk (group1 (thread1 [])) 4092 = true ∧
    (kernel []).sharedOk (group1 (thread1 [])) 4096 = false ∧ (group1 (thread1 [])).key.team = some ⟨1, 0x400, 0⟩ := by decide
theorem witness_AccessesAreChecked_tile : (group1 (thread1 [])).key.isQueue = false ∧ (kernel []).tileAllocated 1 0 = true ∧ (kernel []).tileAllocated 1 63 = true ∧
    (kernel []).tileAllocated 1 64 = false ∧ (queue1 (thread1 [])).key.isQueue = true := by decide
theorem witness_AccessesAreChecked_align : (({ sp := .shared, n := 1, need := .rd } : MemOp).sp ≠ .tile) ∧ 6 % 4 ≠ 0 := by decide
theorem witness_MemoryReadsBackWrites : 8 % 4 = 0 ∧ 12 % 4 = 0 ∧ 12 ≠ 8 ∧ Memory.wf (Memory.write [] 8 1) = true := by decide
theorem witness_ParametersRead : Issues (.ldp 8 6 0 1) (ints [(6, 4092)]) ∧ addrTag (View.tag (view1 (ints [(6, 4092)])) 6) = true ∧
    View.address (view1 (ints [(6, 4092)])) .param 6 % 4 = 0 ∧ View.address (view1 (ints [(6, 4092)])) .param 6 < 4096 :=
  ⟨⟨⟨_, rfl, rfl, rfl⟩, _, _, rfl, by decide, by decide⟩, by decide, by decide, by decide⟩
theorem witness_PrefetchPlacesLines : Issues (.pfg 4 0 1) rmem ∧ addrTag (View.pairTag (view1 rmem) addrTag 4) = true :=
  ⟨⟨⟨_, rfl, rfl, rfl⟩, _, _, rfl, by decide, by decide⟩, by decide⟩
/-- The TLB holds the page, NC, SELF or DIR; each policy. -/
theorem witness_PrefetchPlacesLines_held : ∀ x ∈ [(CohClass.nc, (0x0120000000000F9F : DWord)), (.self, 0x00A0000000000F9F), (.dir, 0x0020000000000F9F)], ∀ pol ∈ [(0 : BitVec 2), 3],
    let e : TlbEnt := { unit := 18, ctx := 1, vbase := 0, size := 2 ^ 34, pte := x.2, leafAt := 0x14000, dirty := true }
    let s : State := { kernel rmem with mem := { (kernel rmem).mem with tlb := [e] } }
    Chosen (.pfg 4 0 pol) s (group1 (thread1 rmem)) [thread1 rmem] ∧ View.address (view1 rmem) .global 4 % 4 = 0 ∧ View.address (view1 rmem) .global 4 < 2 ^ 56 ∧
      s.tlbFind (group1 (thread1 rmem)).tlbUnit 1 (View.address (view1 rmem) .global 4) = some e ∧ s.lineWaits (leafBase e.pte + 0x120000) = false ∧
      s.fwd (leafBase e.pte + 0x120000) < peerBit ∧ pteVers e.pte = false ∧ pteCoh e.pte = x.1 ∧ pteOrd e.pte ≠ .so ∧
      s.coh.l1Holds (group1 (thread1 rmem)).l1 (s.fwd (leafBase e.pte + 0x120000)) = false := by
  intro x hx pol hp
  simp only [List.mem_cons, List.not_mem_nil, or_false] at hx hp
  rcases hx with h | h | h <;> rcases hp with h' | h' <;> subst h <;> subst h' <;>
    exact ⟨⟨⟨_, rfl, rfl, rfl⟩, _, _, rfl, by decide, by decide⟩, by decide, by decide, by decide, by decide, by decide, by decide, by decide, by decide, by decide⟩
/-- A host line on an NC page whose half the device has not been granted. -/
theorem witness_PrefetchPlacesLines_asks :
    let e : TlbEnt := { unit := 18, ctx := 1, vbase := 0, size := 2 ^ 34, pte := 0x8120000000000F9F, leafAt := 0x14000, dirty := true }
    let s : State := { kernel rmem with
      mem := { (kernel rmem).mem with tlb := [e] }
      dev := { (kernel rmem).dev with hostBytes := 2 ^ 36, hostPorts := [0], ports := { Port.down with up := true } :: List.replicate 23 Port.down } }
    Chosen (.pfg 4 0 0) s (group1 (thread1 rmem)) [thread1 rmem] ∧ s.tlbFind (group1 (thread1 rmem)).tlbUnit 1 (View.address (view1 rmem) .global 4) = some e ∧
      hostBit ≤ s.fwd (leafBase e.pte + 0x120000) ∧ s.lineWaits (leafBase e.pte + 0x120000) = false ∧ s.accPortDown (accOf e.pte (leafBase e.pte + 0x120000)) = false ∧
      pteVers e.pte = false ∧ pteCoh e.pte = .nc ∧ s.halfOk (s.fwd (leafBase e.pte + 0x120000)) false = false :=
  ⟨⟨⟨_, rfl, rfl, rfl⟩, _, _, rfl, by decide, by decide⟩, by decide, by decide, by decide, by decide, by decide, by decide, by decide⟩
/-- A DIR line of which the die holds a copy. -/
theorem witness_PrefetchPlacesLines_copy : ((State.coh { kernel rmem with coh := { copies := [{ die := 0, line := 0x120000, st := .s, words := [] }] } }).copy? (dieOf 2) (lineOf 0x120000)).isSome = true := rfl
theorem witness_FullBitLoads_set :
    let x : Team := { team1 with full := [(1, true)], shared := [(16, 7)] }
    let s : State := { kernel rmem with teams := [x] }
    Chosen (.ldsc 8 6 0 1) s (group1 (thread1 rmem)) [thread1 rmem] ∧ addrTag (View.tag (view1 rmem) 6) = true ∧ (thread1 rmem).hints.ord = none ∧
      s.team? ⟨1, 0x400, 0⟩ = some x ∧ View.address (view1 rmem) .shared 6 % 4 = 0 ∧ s.sharedOk (group1 (thread1 rmem)) 16 = true ∧ s.pends = [] ∧
      Store.get false x.full (sharedKey false 16 / 16) = true :=
  ⟨⟨⟨_, rfl, rfl, rfl⟩, _, _, rfl, by decide, by decide⟩, by decide, rfl, rfl, by decide, by decide, rfl, by decide⟩
theorem witness_FullBitLoads_clear : Issues (.ldse 8 6 0 1) rmem ∧ (kernel rmem).team? ⟨1, 0x400, 0⟩ = some team1 ∧
    (kernel rmem).sharedOk (group1 (thread1 rmem)) 16 = true ∧ (kernel rmem).pends = [] ∧ Store.get false team1.full (sharedKey false 16 / 16) = false :=
  ⟨⟨⟨_, rfl, rfl, rfl⟩, _, _, rfl, by decide, by decide⟩, rfl, by decide, rfl, by decide⟩

/-- An outstanding operation of the thread on word 16 of shared memory. -/
def pend1 (kind : PendKind) (dests : List (Sel × Tag)) : Pend := { id := 5, key := .kernel 1 0x400 0 0, tid := 0, pc := 0x40, kind := kind, dests := dests, ctx := 1 }
/-- Word 16 of shared memory. -/
def acc1 : Acc := { loc := .shared ⟨1, 0x400, 0⟩ 16 }
/-- The machine with it. -/
def waiting (p : Pend) : State := { kernel rmem with cur := none, pends := [p], next := 6 }

/-- An operation on word 16 is performable. -/
theorem performable1 (s : State) (p : Pend) (hs : s.pends = [p]) (hf : ∀ m, p.kind ≠ .fence m) (hm : s.mayPerform p = true) (hp : p.peer = none)
    (hb : p.accs.any (fun a => s.accPortDown a || s.accLost a || s.accPoison p.who a p.rmw) = false) (hl : s.mates p = [p])
    (hx : ∀ x ∈ s.coh.self, x.line % 128 = 0) (hc : ∀ x ∈ s.coh.copies, x.line = cohUnit x.line) (ht : ∀ x ∈ s.teams, x.phase ≠ .retired)
    (hg : (s.group? p.key).all (fun g => !g.threads.all Thread.exited) = true) : Performable s p where
  here := by simp [hs]
  fences q hq m := by
    rw [show q = p by simpa [hs] using hq]
    exact hf m
  may := hm
  peer := hp
  sound := hb
  alone := hl
  lines := ⟨hx, hc⟩
  teams := ht
  live g h := by simpa [h] using hg

/-- Its words are shared ones of the team. -/
theorem plain1 (s : State) (p : Pend) (ha : ∀ a ∈ p.accs, ∃ t x, a.loc = .shared t x ∧ x % 4 = 0 ∧ (s.team? t).isSome = true) (ho : p.ord ≠ .so) : PlainWords s p where
  plain a h := by
    obtain ⟨t, x, h1, h2, h3⟩ := ha a h
    unfold State.plain
    rw [h1]
    exact ⟨h2, h3⟩
  so h := absurd h ho

/-- Four words of shared memory from word 16. -/
def accs4 : List Acc := [16, 20, 24, 28].map (fun a => { loc := .shared ⟨1, 0x400, 0⟩ a })
/-- A load of them, and a store. -/
def load4 : Pend := pend1 (.load accs4) [(8, .int), (9, .int), (10, .int), (11, .int)]
/-- STSF of word 16, whose granule is 1. -/
def store1 : Pend := pend1 (.store [(acc1, 9)] (some 1)) []

theorem witness_AccessesArePerformed_load : Performable (waiting load4) load4 ∧ PlainWords (waiting load4) load4 ∧ load4.dests.length = accs4.length ∧
    (load4.dests.map (fun x => x.1.toNat)).Nodup ∧ (waiting load4).thread? (.kernel 1 0x400 0 0) 0 = some (thread1 rmem) ∧ Unordered load4 :=
  ⟨performable1 _ _ rfl (by intro m h; cases h) (by decide) rfl (by decide) (by decide) (by decide) (by decide) (by decide) (by decide),
    plain1 _ _ (by intro a h; simp only [load4, pend1, Pend.accs, accs4, List.map_cons, List.map_nil, List.mem_cons, List.not_mem_nil, or_false] at h; rcases h with h | h | h | h <;> subst h <;> exact ⟨_, _, rfl, by decide, rfl⟩) (by decide),
    rfl, by decide, rfl, ⟨rfl, rfl, by decide, by decide⟩⟩
theorem witness_AccessesArePerformed_store : Performable (waiting store1) store1 ∧ PlainWords (waiting store1) store1 ∧ (∀ x ∈ (waiting store1).teams, x.bankQ = []) ∧
    store1.key.team = some ⟨1, 0x400, 0⟩ ∧ ((waiting store1).team? ⟨1, 0x400, 0⟩).isSome = true :=
  ⟨performable1 _ _ rfl (by intro m h; cases h) (by decide) rfl (by decide) (by decide) (by decide) (by decide) (by decide) (by decide),
    plain1 _ _ (by intro a h; rw [show a = acc1 by simpa [store1, pend1, Pend.accs] using h]; exact ⟨_, _, rfl, by decide, rfl⟩) (by decide), by decide, rfl, rfl⟩
/-- The atomics and a compare-and-swap of word 16. -/
theorem witness_AccessesArePerformed_atomics : ∀ p ∈ [pend1 (.atomic acc1 .add .int 9 false) [], pend1 (.atomic acc1 .add .int 9 true) [(8, .int)],
    pend1 (.cas acc1 0 9 false) [(8, .int), (9, .pred)]], Performable (waiting p) p ∧ PlainWords (waiting p) p := by
  intro p hp
  simp only [List.mem_cons, List.not_mem_nil, or_false] at hp
  rcases hp with h | h | h <;> subst h <;>
    exact ⟨performable1 _ _ rfl (by intro m h; cases h) (by decide) rfl (by decide) (by decide) (by decide) (by decide) (by decide) (by decide),
      plain1 _ _ (by intro a h; rw [show a = acc1 by simpa [pend1, Pend.accs] using h]; exact ⟨_, _, rfl, by decide, rfl⟩) (by decide)⟩

/-- A word of device memory on a page of a class. -/
def gacc (coh : CohClass) : Acc := { loc := .global 0x120000, coh := coh }
/-- A translation of that page by the core's TLB, D set. -/
def gtlb : TlbEnt := { unit := 18, ctx := 1, vbase := 0, size := 2 ^ 34, pte := 0x0120000000000F9F, leafAt := 0x14000, dirty := true }
/-- An operation on it, of a thread of core 2. -/
def gpend (kind : PendKind) (dests : List (Sel × Tag)) : Pend := { pend1 kind dests with core := 2, va := 0x120000 }

/-- A CAS of a global word that finds what it compares, its page's D known to be set. -/
theorem witness_AccessesArePerformed_cas_global :
    let p := gpend (.cas (gacc .nc) 0 9 false) [(8, .int), (9, .pred)]
    let s : State := { waiting p with mem := { (waiting p).mem with tlb := [gtlb] } }
    Performable s p ∧ PlainWords s p ∧ s.valueAt (gacc .nc) = 0 ∧ (∃ e, s.tlbFind p.group.tlbUnit p.ctx p.va.toNat = some e ∧ e.dirty = true) :=
  ⟨performable1 _ _ rfl (by intro m h; cases h) (by decide) rfl (by decide) (by decide) (by decide) (by decide) (by decide) (by decide),
    ⟨by intro a h; rw [show a = gacc .nc by simpa [gpend, pend1, Pend.accs] using h]; exact ⟨rfl, rfl, by decide, by decide, by decide, by decide⟩, by intro h; cases h⟩,
    by decide, _, rfl, rfl⟩
/-- A load with an acquire and a store with a release, at scope SYS, of a core with a dirty SELF line. -/
theorem witness_AccessesArePerformed_outward : ∀ p ∈ [{ pend1 (.load [acc1]) [(8, .int)] with acq := true, scope := .sys }, { pend1 (.store [(acc1, 9)] none) [] with rel := true, scope := .sys }],
    let s : State := { waiting p with coh := { self := [{ core := 0, line := 0x120000, valid := 1, dirty := 1, words := [(0, 7)] }] } }
    Performable s p ∧ PlainWords s p ∧ s.outward p.group p.scope = true := by
  intro p hp
  simp only [List.mem_cons, List.not_mem_nil, or_false] at hp
  rcases hp with h | h <;> subst h <;>
    exact ⟨performable1 _ _ rfl (by intro m h; cases h) (by decide) rfl (by decide) (by decide) (by decide) (by decide) (by decide) (by decide),
      plain1 _ _ (by intro a h; rw [show a = acc1 by simpa [pend1, Pend.accs] using h]; exact ⟨_, _, rfl, by decide, rfl⟩) (by decide), by decide⟩

/-- A load and a store of the word in a state. -/
def LineWitness (a : Acc) (vtag : Tag16) (pol : Nat) (f : State → State) : Prop :=
  ∀ k ∈ [PendKind.load [a], .store [(a, 9)] none], ∀ d ∈ [[((8 : Sel), Tag.int)]],
    let p : Pend := { gpend k (match k with | .load _ => d | _ => []) with vtag := vtag, pol := pol }
    Performable (f (waiting p)) p ∧ Unordered p ∧ p.accs = [a] ∧ (f (waiting p)).fwd 0x120000 < peerBit ∧ (f (waiting p)).fwd 0x120000 % 4 = 0

/-- A word of a DIR line that the die holds, modified by the thread's core. -/
theorem witness_AccessesArePerformed_dir :
    let c : DieCopy := { die := 0, line := 0x120000, st := .m, words := [(0, 7)], cores := [2], writer := some 2 }
    LineWitness (gacc .dir) 0 0 (fun s => { s with coh := { copies := [c] } }) ∧ (gpend (.load []) []).who.die = some 0 ∧
      ∀ x ∈ (State.coh { kernel [] with coh := { copies := [c] } }).self, x.core = (gpend (.load []) []).group.l1 → x.line ≠ lineOf 0x120000 := by
  refine ⟨?_, by decide, by decide⟩
  intro k hk d hd
  simp only [List.mem_cons, List.not_mem_nil, or_false] at hk hd
  rcases hk with h | h <;> subst h <;> subst hd <;>
    exact ⟨performable1 _ _ rfl (by intro m h; cases h) (by decide) rfl (by decide) (by decide) (by decide) (by decide) (by decide) (by decide), ⟨rfl, rfl, by decide, by decide⟩, rfl, by decide, by decide⟩
/-- A word of a SELF line, held or not. -/
theorem witness_AccessesArePerformed_self : ∀ l ∈ [[], [({ core := 2, line := 0x120000, valid := 1, dirty := 1, words := [(0, 7)] } : SelfLine)]],
    LineWitness (gacc .self) 0 0 (fun s => { s with coh := { self := l } }) := by
  intro l hl k hk d hd
  simp only [List.mem_cons, List.not_mem_nil, or_false] at hl hk hd
  rcases hl with h | h <;> rcases hk with h' | h' <;> subst h <;> subst h' <;> subst hd <;>
    exact ⟨performable1 _ _ rfl (by intro m h; cases h) (by decide) rfl (by decide) (by decide) (by decide) (by decide) (by decide) (by decide), ⟨rfl, rfl, by decide, by decide⟩, rfl, by decide, by decide⟩
/-- A word of a line of which version 1 has a copy. -/
theorem witness_AccessesArePerformed_version :
    let v : Ver := { tag := 1, st := .live, parent := 0, pred := 9, age := 0 }
    let c : LineCopy := { ctx := 1, tag := 1, line := 0x120000, mask := 1, words := [(0, 7)], pool := false }
    LineWitness { gacc .nc with versioned := true } 1 0 (fun s => { s with ctxs := [{ ctx1 with vers := [v] }], mem := { s.mem with copies := [c] } }) ∧
      (let s : State := { kernel [] with ctxs := [{ ctx1 with vers := [v] }], mem := { (kernel []).mem with copies := [c] } }
       s.live 1 1 = true ∧ s.copy? none 1 1 (lineOf 0x120000) = some c ∧ (gpend (.load []) []).group.ctx = 1) := by
  refine ⟨?_, by decide, rfl, rfl⟩
  intro k hk d hd
  simp only [List.mem_cons, List.not_mem_nil, or_false] at hk hd
  rcases hk with h | h <;> subst h <;> subst hd <;>
    exact ⟨performable1 _ _ rfl (by intro m h; cases h) (by decide) rfl (by decide) (by decide) (by decide) (by decide) (by decide) (by decide), ⟨rfl, rfl, by decide, by decide⟩, rfl, by decide, by decide⟩

/-! Locks, fences, barriers. -/

/-- The machine with a lock record for the line of `[v4]` and with a group as given. -/
def locked (l : List LockRec) (g : Group) : State := { machine1 g with locks := l }
/-- Its group, holding lines and awaiting one. -/
def lockGroup (held : List Nat) : Group := { group1 (thread1 rmem) with held := held }
/-- Another group. -/
def other : GKey := .kernel 1 0x400 0 1
/-- The record of that line in the other group's hands. -/
def held1 : LockRec := ⟨0x120000, some ⟨other, 1, 0⟩, none, []⟩

theorem witness_FreeLockIsTaken :
    LockReaches (.llock 8 4 0) 4 true false (locked [] (lockGroup [])) (lockGroup []) (thread1 rmem) 0x120000 ∧
      (lockGroup []).held.length < 4 ∧ (lockGroup []).awaited = none ∧ (lockGroup []).ended 0x120000 0 = none ∧
      (locked [] (lockGroup [])).lock? 0x120000 = none ∧ (locked [] (lockGroup [])).lockFull 0x120000 = false :=
  ⟨⟨⟨⟨_, rfl, rfl, rfl⟩, _, _, rfl, by decide, by decide⟩, rfl, by decide, by decide,
    ⟨_, _, _, _, _, rfl, rfl, by decide, by decide, by decide, rfl, rfl, rfl⟩⟩, by decide, rfl, rfl, rfl, by decide⟩
theorem witness_HeldLockQueuesOrIsBusy :
    LockReaches (.llock 8 4 0) 4 true false (locked [held1] (lockGroup [])) (lockGroup []) (thread1 rmem) 0x120000 ∧
      LockReaches (.ltry 8 4 0) 4 true false (locked [held1] (lockGroup [])) (lockGroup []) (thread1 rmem) 0x120000 ∧
      0x120000 ∉ (lockGroup []).held ∧ (locked [held1] (lockGroup [])).lock? 0x120000 = some held1 ∧ other ≠ (lockGroup []).key :=
  ⟨⟨⟨⟨_, rfl, rfl, rfl⟩, _, _, rfl, by decide, by decide⟩, rfl, by decide, by decide,
    ⟨_, _, _, _, _, rfl, rfl, by decide, by decide, by decide, rfl, rfl, rfl⟩⟩,
   ⟨⟨⟨_, rfl, rfl, rfl⟩, _, _, rfl, by decide, by decide⟩, rfl, by decide, by decide,
    ⟨_, _, _, _, _, rfl, rfl, by decide, by decide, by decide, rfl, rfl, rfl⟩⟩, by decide, rfl, by decide⟩
/-- A request of the group of `thread1` for that line, with a limit. -/
def req1 (key : GKey) : LockReq := ⟨key, [(0, 8)], 1, 0, 7, true, .nc, 3⟩
/-- Its thread, waiting. -/
def waiter : Group := { group1 { thread1 rmem with block := some .lock } with awaited := some 0x120000 }

theorem witness_LockIsReleased :
    let r : LockRec := ⟨0x120000, some ⟨.kernel 1 0x400 0 0, 1, 0⟩, none, []⟩
    LockReaches (.lunlk 8 4 0) 4 true true (locked [r] (lockGroup [0x120000])) (lockGroup [0x120000]) (thread1 rmem) 0x120000 ∧
      (locked [r] (lockGroup [0x120000])).lock? 0x120000 = some r ∧ (lockGroup [0x120000]).key = .kernel 1 0x400 0 0 ∧ (lockGroup [0x120000]).vid = 0 :=
  ⟨⟨⟨⟨_, rfl, rfl, rfl⟩, _, _, rfl, by decide, by decide⟩, rfl, by decide, by decide,
    ⟨_, _, _, _, _, rfl, rfl, by decide, by decide, by decide, rfl, rfl, rfl⟩⟩, rfl, rfl, rfl⟩
theorem witness_LockIsReleased_not_held :
    LockReaches (.lunlk 8 4 0) 4 true true (locked [held1] (lockGroup [])) (lockGroup []) (thread1 rmem) 0x120000 ∧
      (locked [held1] (lockGroup [])).lock? 0x120000 = some held1 ∧ other ≠ (lockGroup []).key :=
  ⟨⟨⟨⟨_, rfl, rfl, rfl⟩, _, _, rfl, by decide, by decide⟩, rfl, by decide, by decide,
    ⟨_, _, _, _, _, rfl, rfl, by decide, by decide, by decide, rfl, rfl, rfl⟩⟩, rfl, by decide⟩

/-- A group of another team, absent, and a present one, wait for the line that the group holds. -/
theorem witness_LockIsReleased_queue :
    let away : LockReq := { req1 (.kernel 1 0x400 1 0) with present := false }
    let r : LockRec := ⟨0x120000, some ⟨.kernel 1 0x400 0 0, 1, 0⟩, none, [away, req1 other]⟩
    let gq : Group := { waiter with key := other }
    let s : State := { machine1 (lockGroup [0x120000]) with locks := [r], groups := [lockGroup [0x120000], gq] }
    LockReaches (.lunlk 8 4 0) 4 true true s (lockGroup [0x120000]) (thread1 rmem) 0x120000 ∧ s.lock? 0x120000 = some r ∧ (lockGroup [0x120000]).vid = 0 ∧
      r.queue = [away] ++ req1 other :: [] ∧ away.present = false ∧ (req1 other).present = true ∧ (r.queue.map LockReq.key).Nodup ∧ other ≠ (lockGroup [0x120000]).key ∧
      (req1 other).waiters = [(0, 8)] ∧ s.group? other = some gq ∧ gq.thread? 0 = some { thread1 rmem with block := some .lock } :=
  ⟨⟨⟨⟨_, rfl, rfl, rfl⟩, _, _, rfl, by decide, by decide⟩, rfl, by decide, by decide,
    ⟨_, _, _, _, _, rfl, rfl, by decide, by decide, by decide, rfl, rfl, rfl⟩⟩, rfl, rfl, rfl, rfl, rfl, by decide, by decide, rfl, rfl, rfl⟩
theorem witness_LockIsPassedOn :
    let r : LockRec := { held1 with queue := [req1 (.kernel 1 0x400 0 0)] }
    (locked [r] waiter).lock? 0x120000 = some r ∧ (req1 (.kernel 1 0x400 0 0)).present = true ∧ (locked [r] waiter).group? (.kernel 1 0x400 0 0) = some waiter ∧
      waiter.thread? 0 = some { thread1 rmem with block := some .lock } := ⟨rfl, rfl, rfl, rfl⟩
theorem witness_LockStatusIsRead :
    LockReaches (.lstat 8 4 0) 4 false false (locked [held1] (lockGroup [])) (lockGroup []) (thread1 rmem) 0x120000 ∧
      (locked [held1] (lockGroup [])).lock? 0x120000 = some held1 :=
  ⟨⟨⟨⟨_, rfl, rfl, rfl⟩, _, _, rfl, by decide, by decide⟩, rfl, by decide, by decide,
    ⟨_, _, _, _, _, rfl, rfl, by decide, by decide, by decide, rfl, rfl, rfl⟩⟩, rfl⟩
/-- Each lock instruction of a thread with an access of its stream to an RC page outstanding must wait: LLOCK, LTRY and LSTAT for one that acquires. -/
def busyLock (held : List Nat) : State :=
  { locked [] (lockGroup held) with pends := [{ pend1 (.load [acc1]) [(9, .int)] with acq := true, scope := .sys }] }
theorem witness_LockInstructionWaits :
    (∀ i ∈ [Instr.llock 8 4 0, .ltry 8 4 0], LockReaches i 4 true false (busyLock []) (lockGroup []) (thread1 rmem) 0x120000 false) ∧
      LockReaches (.lunlk 8 4 0) 4 true true (busyLock [0x120000]) (lockGroup [0x120000]) (thread1 rmem) 0x120000 false ∧
      LockReaches (.lstat 8 4 0) 4 false false (busyLock []) (lockGroup []) (thread1 rmem) 0x120000 false ∧ (lockGroup []).held.length < 4 ∧ (lockGroup []).awaited = none := by
  refine ⟨?_, ⟨⟨⟨_, rfl, rfl, rfl⟩, _, _, rfl, by decide, by decide⟩, rfl, by decide, by decide,
    ⟨_, _, _, _, _, rfl, rfl, by decide, by decide, by decide, rfl, rfl, rfl⟩⟩, ⟨⟨⟨_, rfl, rfl, rfl⟩, _, _, rfl, by decide, by decide⟩, rfl, by decide, by decide,
    ⟨_, _, _, _, _, rfl, rfl, by decide, by decide, by decide, rfl, rfl, rfl⟩⟩, by decide, rfl⟩
  intro i hi
  simp only [List.mem_cons, List.not_mem_nil, or_false] at hi
  rcases hi with h | h <;> subst h <;> exact ⟨⟨⟨_, rfl, rfl, rfl⟩, _, _, rfl, by decide, by decide⟩, rfl, by decide, by decide,
    ⟨_, _, _, _, _, rfl, rfl, by decide, by decide, by decide, rfl, rfl, rfl⟩⟩
/-- An LUNLK that has waited, of the holder. -/
theorem witness_LockInstructionArrives :
    let r : LockRec := ⟨0x120000, some ⟨.kernel 1 0x400 0 0, 1, 0⟩, none, []⟩
    let p : Pend := { pend1 (.lock (.lunlk 8 4 0) { loc := .global 0x120000 } [0] [(0, 8)]) [(8, .stat)] with rel := true, scope := .dev, core := 2 }
    let s : State := { locked [r] (lockGroup [0x120000]) with pends := [p], cur := none }
    Performable s p ∧ s.group? p.key = some (lockGroup [0x120000]) ∧ (lockGroup [0x120000]).thread? 0 = some (thread1 rmem) ∧ s.lock? (lineOf (s.fwd 0x120000)) = some r ∧
      r.line = lineOf (s.fwd 0x120000) :=
  ⟨performable1 _ _ rfl (by intro m h; cases h) (by decide) rfl (by decide) (by decide) (by decide) (by decide) (by decide) (by decide), rfl, rfl, rfl, rfl⟩
theorem witness_LockStatusIsRead_free :
    LockReaches (.lstat 8 4 0) 4 false false (locked [] (lockGroup [])) (lockGroup []) (thread1 rmem) 0x120000 ∧ (locked [] (lockGroup [])).lock? 0x120000 = none :=
  ⟨⟨⟨⟨_, rfl, rfl, rfl⟩, _, _, rfl, by decide, by decide⟩, rfl, by decide, by decide,
    ⟨_, _, _, _, _, rfl, rfl, by decide, by decide, by decide, rfl, rfl, rfl⟩⟩, rfl⟩
theorem witness_LockWaitsEnd_timeout :
    let r : LockRec := { held1 with queue := [req1 (.kernel 1 0x400 0 0)] }
    (locked [r] waiter).lock? 0x120000 = some r ∧ r.line = 0x120000 ∧ r.holder ≠ none ∧
      r.queue.find? (fun q' => decide (q'.key = waiter.key) && decide (q'.limit ≠ 0)) = some (req1 (.kernel 1 0x400 0 0)) ∧ (locked [r] waiter).group? waiter.key = some waiter :=
  ⟨rfl, rfl, by decide, rfl, rfl⟩

/-- Two groups that wait for each other's line. -/
def cycle : State :=
  { machine1 waiter with
    groups := [{ waiter with held := [0x140000] }, { waiter with key := other, held := [0x120000], awaited := some 0x140000 }]
    locks := [⟨0x120000, some ⟨other, 1, 0⟩, none, [req1 (.kernel 1 0x400 0 0)]⟩, ⟨0x140000, some ⟨.kernel 1 0x400 0 0, 1, 0⟩, none, [{ req1 other with seq := 2 }]⟩] }

theorem witness_LockWaitsEnd_deadlock : ∃ cyc r, cycle.waitCycle (.kernel 1 0x400 0 0) = some cyc ∧
    cycle.lockReq? (.kernel 1 0x400 0 0) = some (r, req1 (.kernel 1 0x400 0 0)) ∧ cycle.youngest (.kernel 1 0x400 0 0) cyc = true ∧ cycle.lock? r.line = some r ∧
    r.holder ≠ none ∧ cycle.anyGroup? (.kernel 1 0x400 0 0) = cycle.group? (.kernel 1 0x400 0 0) := by
  refine ⟨_, _, rfl, rfl, ?_, rfl, ?_, rfl⟩ <;> decide

theorem witness_FencesWaitForCoveredAccesses : Issues (.fence .dev) [] ∧ (kernel []).pends = [] :=
  ⟨⟨⟨_, rfl, rfl, rfl⟩, _, _, rfl, by decide, by decide⟩, rfl⟩
/-- A fence of scope SYS, outward, of a core with a SELF line of which one word is written. -/
theorem witness_FencesWaitForCoveredAccesses_outward :
    let x : SelfLine := { core := 2, line := 0x120000, valid := 3, dirty := 1, words := [(0, 7)] }
    let s : State := { kernel [] with coh := { self := [x] } }
    Chosen (.fence .sys) s (group1 (thread1 [])) [thread1 []] ∧ s.outward (group1 (thread1 [])) .sys = true ∧ s.outward (group1 (thread1 [])) .grp = false ∧
      s.coh.self.filter (fun x => decide (x.core = (group1 (thread1 [])).l1)) = [x] ∧ x.line % 128 = 0 ∧ x.line < peerBit ∧ s.coh.copies = [] ∧ s.coh.halves = [] :=
  ⟨⟨⟨_, rfl, rfl, rfl⟩, _, _, rfl, by decide, by decide⟩, by decide, by decide, rfl, by decide, by decide, rfl, rfl⟩
theorem witness_FencesWaitForCoveredAccesses_pending :
    let p : Pend := { pend1 (.load [acc1]) [(8, .int)] with stream := 3 }
    let s : State := { kernel [] with pends := [p], next := 6 }
    Chosen (.fncx .sys 8) s (group1 (thread1 [])) [thread1 []] ∧ p.access = true ∧ p.key = .kernel 1 0x400 0 0 ∧ p.id < s.next ∧ (8 : BitVec 16).getLsbD p.stream = true :=
  ⟨⟨⟨_, rfl, rfl, rfl⟩, _, _, rfl, by decide, by decide⟩, by decide, rfl, by decide, by decide⟩
theorem witness_CacheMaintenanceCompletes : Issues (.sinv 4 6) rmem ∧ Issues (.sflsh 4 6) rmem ∧
    addrTag (View.pairTag (view1 rmem) addrTag 4) = true ∧ addrTag (View.tag (view1 rmem) 6) = true ∧ (kernel rmem).outstanding (.kernel 1 0x400 0 0) [0] = false :=
  ⟨⟨⟨_, rfl, rfl, rfl⟩, _, _, rfl, by decide, by decide⟩, ⟨⟨_, rfl, rfl, rfl⟩, _, _, rfl, by decide, by decide⟩, by decide, by decide, by decide⟩

set_option maxRecDepth 4000 in
/-- Its range is one L1 line, whose four 128-byte lines nothing holds. -/
theorem witness_CacheMaintenanceCompletes_lines : ∃ s1,
    State.rangeLines { kernel rmem with cur := none } (group1 (thread1 rmem)) (rangeBlocks (View.pair (view1 rmem) 4).toNat (View.val (view1 rmem) 6).toNat) =
      (s1, some [0x120000, 0x120080, 0x120100, 0x120180]) ∧ s1.groups = (kernel rmem).groups ∧ s1.coh.self = [] ∧
    ∀ l ∈ [0x120000, 0x120080, 0x120100, 0x120180], s1.lineWaits l = false ∧ ∀ u ∈ lineUnits [l], s1.coh.busy u = false :=
  ⟨_, rfl, rfl, rfl, by decide⟩

/-- v5 holds the token of team barrier 0 in phase 0, v6 its immediate. -/
def rbar : Store Reg := [(5, ⟨0x40000000, .raw⟩), (6, ⟨0x40, .int⟩)]

theorem witness_BarrierTokensWaitsAndFaults (op : Nat) (i : Instr) (row : BarRow) (h : (op, i) = (2, .bars 8 0x40) ∨ (op, i) = (1, .barw 5 0x40) ∨ (op, i) = (3, .barqReg 5 6))
    (hr : barRow i = some (op, row)) : BarReady i op row (kernel rbar) (group1 (thread1 rbar)) (thread1 rbar) := by
  rcases h with h | h | h <;> cases h <;> cases hr
  · exact ⟨⟨⟨_, rfl, rfl, rfl⟩, _, _, rfl, by decide, by decide⟩, rfl, ⟨by simp, by simp⟩, by decide, by decide, by simp⟩
  · exact ⟨⟨⟨_, rfl, rfl, rfl⟩, _, _, rfl, by decide, by decide⟩, rfl, ⟨by simp, by decide⟩, by decide, by decide, by simp⟩
  · exact ⟨⟨⟨_, rfl, rfl, rfl⟩, _, _, rfl, by decide, by decide⟩, rfl, ⟨by simp; decide, by decide⟩, by decide, by decide, by simp⟩
theorem witness_BarrierFaults : (queue1 (thread1 [])).key.isQueue = true ∧ (group1 (thread1 [])).key.isQueue = false ∧
    (kernel []).barDeclared (group1 (thread1 [])).key (barOf 0x41) = false ∧ (kernel []).barDeclared (group1 (thread1 [])).key (barOf 0x40) = true ∧
    (0x41000000 : Word).toNat / 2 ^ 24 ≠ (0x40 : BitVec 8).toNat := by decide
theorem witness_BarrierArrivals : ∃ row, BarReady (.barv 8 0x40) 0 row (kernel []) (group1 (thread1 [])) (thread1 []) ∧ (0, 0) ∉ ((kernel []).bar (group1 (thread1 [])) (barOf 0x40)).arrived ∧
    ((kernel []).team? ⟨1, 0x400, 0⟩).isSome = true :=
  ⟨_, ⟨⟨⟨_, rfl, rfl, rfl⟩, _, _, rfl, by decide, by decide⟩, rfl, ⟨by simp, by simp⟩, by decide, by decide, fun _ => by decide⟩, by decide, rfl⟩

/-! Engines and digit arrays. -/

/-- v8 holds the descriptor of 16 bytes from shared to tile memory, v4 and v6 the addresses, v10 an HSRC
operand. -/
def rcpy : Store Reg := ints [(4, 16), (5, 0), (6, 8), (7, 0), (8, 0x12), (10, 1)]

theorem witness_EngineCommandsAreIssued : ∃ row, engineRow (.cpy 8 4 6) = some row ∧ Issues (.cpy 8 4 6) rcpy ∧ row.ok (view1 rcpy) = true ∧ row.handle = none :=
  ⟨_, rfl, ⟨⟨_, rfl, rfl, rfl⟩, _, _, rfl, by decide, by decide⟩, by decide, rfl⟩
/-- A KVAPP whose HSRC register names a handle of the context. -/
theorem witness_EngineCommandsAreIssued_handle :
    let e : Layout := { Layout.invalid with ctx := 1, kind := 1 }
    let t : Thread := { thread1 rcpy with hints := { src := some 10 } }
    let s : State := { machine1 (group1 t) with ctxs := [{ ctx1 with layout := [(1, e)] }] }
    ∃ row, engineRow (.kvapp 8 4 6) = some row ∧ Chosen (.kvapp 8 4 6) s (group1 t) [t] ∧ row.ok ⟨group1 t, t⟩ = true ∧ row.handle = some 1 ∧
      s.handleOk (group1 t) 1 (View.val ⟨group1 t, t⟩ (View.hsrc ⟨group1 t, t⟩)) = some e :=
  ⟨_, rfl, ⟨⟨_, rfl, rfl, rfl⟩, _, _, rfl, by decide, by decide⟩, by decide, rfl, rfl⟩

/-- A CPY of 16 bytes from shared byte 16 to tile word 8, with a bad descriptor or a good one. -/
def copy1 (desc : DWord) : Pend := pend1 (.engine (.cpy 8 4 6) [desc, 16, 8] Layout.invalid) [(8, .stat)]

theorem witness_EngineCommandsComplete :
    (waiting (copy1 0x12)).pends.find? (fun q => decide (q.id = 5)) = some (copy1 0x12) ∧ (waiting (copy1 0x12)).inOrder (copy1 0x12) = true ∧
      (waiting (copy1 0x12)).kvTurn (copy1 0x12) = true ∧ (waiting (copy1 0x12)).thread? (.kernel 1 0x400 0 0) 0 = some (thread1 rmem) ∧
      (∀ x ∈ (waiting (copy1 0x12)).teams, x.phase ≠ .retired) ∧
      ∃ s1 w, (waiting (copy1 0x12)).runEngine (copy1 0x12) (.cpy 8 4 6) [0x12, 16, 8] Layout.invalid = .done s1 w ∧ s1.teams = (waiting (copy1 0x12)).teams ∧
        s1.groups = (waiting (copy1 0x12)).groups := by
  refine ⟨rfl, by decide, by decide, rfl, by decide, _, _, rfl, rfl, rfl⟩
theorem witness_EngineCommandsComplete_bad : cpyDescOk ((0x40 : DWord).setWidth 32) = false := by decide

/-- Do numbers rise? -/
def rising : List Nat → Bool
  | a :: b :: r => decide (a < b) && rising (b :: r)
  | _ => true
theorem rising_lt {a : Nat} {l : List Nat} (h : rising (a :: l) = true) : ∀ b ∈ l, a < b := by
  induction l generalizing a with
  | nil => intro b hb; cases hb
  | cons c r ih =>
    rw [rising, Bool.and_eq_true, decide_eq_true_eq] at h
    intro b hb
    rcases List.mem_cons.1 hb with rfl | hb
    · exact h.1
    · exact Nat.lt_trans h.1 (ih h.2 b hb)
theorem rising_nodup {l : List Nat} (h : rising l = true) : l.Nodup := by
  induction l with
  | nil => exact List.nodup_nil
  | cons a r ih =>
    refine List.nodup_cons.2 ⟨fun ha => Nat.lt_irrefl _ (rising_lt h a ha), ih ?_⟩
    cases r with
    | nil => rfl
    | cons b r => rw [rising, Bool.and_eq_true] at h; exact h.2

/-- The number of a place in its space. -/
def placeOf : Loc → Nat
  | .shared _ a => a
  | .tile w => w
  | .global pa => pa
/-- Is a word at its home, where no tile vault is lost, no cache holds a line, and every grid is of version 0? -/
def homeOk (s : State) (a : Acc) : Bool :=
  match a.loc with
  | .shared t x => decide (x % 4 = 0) && (s.team? t).isSome
  | .tile _ => true
  | .global pa => decide (s.fwd pa % 4 = 0) && decide (s.fwd pa < peerBit)

theorem reach1 {s : State} {p : Pend} {src dst : List Acc} (hr : s.engReady p.engine src dst = true) (hg : s.engGone p (src ++ dst) = none)
    (hv : s.mem.vaults = []) (hz : ∀ g ∈ s.grids, g.rcd.vtag = 0) (hc : s.coh.copies = [] ∧ s.coh.self = []) (hh : (src ++ dst).all (homeOk s) = true)
    (hn : rising ((dst.map s.locOf).map placeOf) = true) : EngReach s p src dst := by
  refine ⟨hr, hg, fun a ha => ?_, (List.pairwise_map.1 (rising_nodup hn)).imp (fun h e => h (by rw [e]))⟩
  have h := List.all_eq_true.1 hh a ha
  unfold homeOk at h
  unfold State.atHome
  split <;> rename_i hl <;> rw [hl] at h
  · simpa using h
  · exact ⟨hv, fun c => State.tileOwner_none hz c _⟩
  · simpa [hc.1, hc.2] using h

/-- The words of a page under the translation held. -/
def pageWords (l : List Nat) : List Acc := l.map (fun a => accOf gtlb.pte (leafBase gtlb.pte + (a - gtlb.vbase)))
theorem tlbHeld {s : State} (h : s.mem.tlb = [gtlb]) {a : Nat} (ha : a < 2 ^ 34) : s.tlbFind 18 1 a = some gtlb := by
  simp only [State.tlbFind, h]
  exact List.find?_cons_of_pos (by simpa [gtlb] using ha)
theorem engAccs1 {s : State} (h : s.mem.tlb = [gtlb]) {g : Group} (hg : g.tlbUnit = 18 ∧ g.ctx = 1) {need : Need} (hn : need.allowed gtlb.pte = true) {addr n : Nat}
    (ha : addr + 4 * n < 2 ^ 34) : s.engAccs g .global need addr n = (s, .ok (pageWords ((List.range n).map (engAddr .global addr)))) := by
  refine State.engAccs_held (fun a hm => ?_) hn
  obtain ⟨k, hk, rfl⟩ := List.mem_map.1 hm
  have := List.mem_range.1 hk
  rw [hg.1, hg.2]
  exact tlbHeld h (by simp only [engAddr]; omega)
theorem dirty1 {s : State} (h : s.mem.tlb = [gtlb]) {p : Pend} (hp : p.group.tlbUnit = 18 ∧ p.group.ctx = 1) {l : List Nat} (hl : ∀ a ∈ l, a < 2 ^ 34) : DirtyKnown s p l := by
  intro a ha
  rw [hp.1, hp.2]
  exact ⟨gtlb, tlbHeld h (hl a ha), rfl⟩

/-- An engine command of the thread on core 2. -/
def ecmd (i : Instr) (vals : List DWord) (h : Layout) (prog : Option EngProg := none) : Pend := { gpend (.engine i vals h) [(8, .stat)] with prog := prog }
/-- A KV entry: the block table at 0x110000, the headers at 0x138000, the rows at 0x140000. -/
def kvEntry : Layout := { Layout.invalid with ctx := 1, kind := 1, opt := 1, count := 1, base := 0x110000, pool := 0x140000, hdrs := 0x138000, nblk := 4, stride := 128 }
/-- The machine in which it runs: the core's TLB holds the page, the team has 8 KiB of shared memory, block 0 of the KV entry has REFCNT 1, E2M3 codes and
one resident row. -/
def engines (p : Pend) : State :=
  { waiting p with
    grids := [{ grid1 with rcd := { rcd1 with shared := 8192 } }]
    mem := { (waiting p).mem with tlb := [gtlb], ram := (waiting p).mem.ram.writeWords 0x138000 [0x10010, 0x601] } }
theorem clear1 (i : Instr) (vals : List DWord) (h : Layout) (x : Option EngProg) : EngClear (engines (ecmd i vals h x)) (ecmd i vals h x) :=
  ⟨rfl, ⟨rfl, rfl⟩, (by intro x hx; cases hx), ⟨rfl, rfl, by intro x hx; rw [show x = team1 by simpa [engines, waiting, kernel, machine1] using hx]; exact ⟨rfl, rfl⟩⟩,
    (by intro m hm; cases hm), (by intro m hm; cases hm)⟩

/-- CPY of 16 bytes from global memory to shared byte 16, and from shared byte 16 to global memory. -/
theorem witness_EngineCommandsComplete_copy_in :
    let p := ecmd (.cpy 8 4 6) [0xA, 0x120000, 16] Layout.invalid
    let s := engines p
    let sa := pageWords ((List.range 4).map (engAddr .global 0x120000))
    cpyDescOk ((0xA : DWord).setWidth 32) = true ∧ cpySpace (0xA / 4 % 4) = .global ∧ cpySpace (0xA / 16 % 4) = .shared ∧ engMisaligned .global 0x120000 16 = false ∧
      engMisaligned .shared 16 16 = false ∧ s.engRange p.group .global 0x120000 4 = none ∧ s.engRange p.group .shared 16 4 = none ∧
      s.engAccs p.group .global .rd 0x120000 4 = (s, .ok sa) ∧ s.engAccs p.group .shared .wr 16 4 = (s, .ok accs4) ∧
      EngClear s p ∧ EngReach s p sa accs4 ∧ s.ownBefore p sa = false ∧ DirtyKnown s p [] :=
  ⟨by decide, rfl, rfl, by decide, by decide, by decide, by decide, engAccs1 rfl ⟨rfl, rfl⟩ rfl (by decide), rfl, clear1 _ _ _ _,
    reach1 (by decide) (by decide) rfl (by decide) ⟨rfl, rfl⟩ (by decide) (by decide), by decide, by intro a ha; cases ha⟩
theorem witness_EngineCommandsComplete_copy_out :
    let p := ecmd (.cpy 8 4 6) [0x22, 16, 0x120000] Layout.invalid
    let s := engines p
    let da := pageWords ((List.range 4).map (engAddr .global 0x120000))
    cpyDescOk ((0x22 : DWord).setWidth 32) = true ∧ cpySpace (0x22 / 4 % 4) = .shared ∧ cpySpace (0x22 / 16 % 4) = .global ∧
      s.engAccs p.group .shared .rd 16 4 = (s, .ok accs4) ∧ s.engAccs p.group .global .wr 0x120000 4 = (s, .ok da) ∧
      EngClear s p ∧ EngReach s p accs4 da ∧ s.ownBefore p accs4 = false ∧ DirtyKnown s p ((List.range 4).map (engAddr .global 0x120000)) :=
  ⟨by decide, rfl, rfl, rfl, engAccs1 rfl ⟨rfl, rfl⟩ rfl (by decide), clear1 _ _ _ _,
    reach1 (by decide) (by decide) rfl (by decide) ⟨rfl, rfl⟩ (by decide) (by decide), by decide, dirty1 rfl ⟨rfl, rfl⟩ (by decide)⟩
/-- A command with two pieces left: the first goes, the second stays. -/
theorem witness_EngineCommandsComplete_pieces :
    let x : EngPiece := { words := accs4.zip (pageWords ((List.range 4).map (engAddr .global 0x120000))), vas := (List.range 4).map (engAddr .global 0x120000) }
    let p := ecmd (.tcpy 8 4 6) [1, 0, 0] Layout.invalid (some ⟨[x, x], 0⟩)
    let s := engines p
    p.prog = some ⟨[x, x], 0⟩ ∧ EngClear s p ∧ EngReach s p (x.words.map Prod.fst) (x.words.map Prod.snd) ∧ DirtyKnown s p ([x, x].flatMap EngPiece.vas) ∧
      s.inOrder p = true ∧ s.kvTurn p = true ∧ ∃ s1 y, s.runEngine p (.tcpy 8 4 6) [1, 0, 0] Layout.invalid = .going s1 y :=
  ⟨rfl, clear1 _ _ _ _, reach1 (by decide) (by decide) rfl (by decide) ⟨rfl, rfl⟩ (by decide) (by decide), dirty1 rfl ⟨rfl, rfl⟩ (by decide), by decide, by decide, _, _, rfl⟩

/-- The state in which a command has read its block number. -/
def blockState (s : State) (p : Pend) (h : Layout) : State := match s.kvBlock p.group p h 0 with | .ok s1 _ => s1 | _ => s

set_option maxRecDepth 8000 in
/-- BCPY of block 0, its rows and its header, to shared byte 0. -/
theorem witness_EngineCommandsComplete_block :
    let p := ecmd (.bcpy 8 4 6) [0, 0] kvEntry
    let s := engines p
    let s0 := blockState s p kvEntry
    let wide := fun (r : Nat) => if r < 32 then 32 else 16
    let va := fun (r : Nat) => if r < 32 then kvEntry.rows 0 + 128 * r else kvEntry.hdr 0
    let src := fun (r : Nat) => pageWords ((List.range (wide r)).map (engAddr .global (va r)))
    let words := (List.range 33).map (fun r => (src r).zip ((List.range (wide r)).map (bcpyDst ⟨1, 0x400, 0⟩ p.upper kvEntry 0 r)))
    s.kvBlock p.group p kvEntry 0 = .ok s0 0 ∧ kvEntry.opt % 2 = 1 ∧
      (∀ r, r < 33 → ∀ k, k < wide r → 0 % 2 ^ 20 + r * kvEntry.stride + 4 * k < 2 ^ 20 ∧ s0.sharedOk p.group (0 % 2 ^ 20 + r * kvEntry.stride + 4 * k) = true) ∧
      (∀ r, r < 33 → s0.engRange p.group .global (va r) (wide r) = none ∧ s0.engAccs p.group .global .rd (va r) (wide r) = (s0, .ok (src r))) ∧
      s0.ownBefore p (words.flatten.map Prod.fst) = false ∧ s0.engGone p (words.flatten.map Prod.fst ++ words.flatten.map Prod.snd) = none := by
  refine ⟨rfl, rfl, by decide +kernel, fun r hr => ⟨?_, engAccs1 rfl ⟨rfl, rfl⟩ rfl ?_⟩, by decide +kernel, by decide +kernel⟩
  · revert r; decide +kernel
  · revert r; decide +kernel

/-- TCPY of two rows of four words, either way. -/
theorem witness_EngineCommandsComplete_rows : ∀ dir ∈ [(0 : DWord), 1],
    let h : Layout := { Layout.invalid with ctx := 1, kind := 2, count := 2, base := 0x120000, stride := 64, rowbytes := 16, trows := 2 }
    let p := ecmd (.tcpy 8 4 6) [dir, 0, 8] h
    let s := engines p
    let row := fun (j : Nat) => pageWords ((List.range 4).map (engAddr .global (h.base + (0 + j) * h.stride)))
    dir.toNat < 2 ∧ s.engRange p.group .tile 8 8 = none ∧
      (∀ j, j < 2 → (h.base + (0 + j) * h.stride) % 4 = 0 ∧ s.engRange p.group .global (h.base + (0 + j) * h.stride) 4 = none ∧
        s.engAccs p.group .global (if dir.toNat = 1 then .wr else .rd) (h.base + (0 + j) * h.stride) 4 = (s, .ok (row j))) ∧ s.ownBefore p [] = false := by
  intro dir hd
  simp only [List.mem_cons, List.not_mem_nil, or_false] at hd
  rcases hd with rfl | rfl <;>
    refine ⟨by decide, by decide, fun j hj => ⟨?_, ?_, engAccs1 rfl ⟨rfl, rfl⟩ rfl ?_⟩, rfl⟩ <;> revert j <;> decide

set_option maxRecDepth 16000 in
/-- KVAPP of the row at shared byte 0 to block 0, which has one row, with its larger scale. -/
theorem witness_EngineCommandsComplete_append :
    let p := ecmd (.kvapp 8 4 6) [0, 0] kvEntry
    let s := engines p
    let s0 := blockState s p kvEntry
    let xa := (List.range 128).map (fun k => ({ loc := .shared ⟨1, 0x400, 0⟩ (4 * k) } : Acc))
    let ha := pageWords ((List.range 2).map (engAddr .global (kvEntry.hdr 0)))
    let ra := pageWords ((List.range 1024).map (engAddr .global (kvEntry.rows 0)))
    s.kvBlock p.group p kvEntry 0 = .ok s0 0 ∧ s0.engRange p.group .shared 0 128 = none ∧ s0.engRange p.group .global (kvEntry.hdr 0) 2 = none ∧
      s0.engRange p.group .global (kvEntry.rows 0) 1024 = none ∧ s0.engAccs p.group .shared .rd 0 128 = (s0, .ok xa) ∧
      s0.engAccs p.group .global .rw (kvEntry.hdr 0) 2 = (s0, .ok ha) ∧ s0.engAccs p.group .global .rw (kvEntry.rows 0) 1024 = (s0, .ok ra) ∧
      EngReach s0 p xa (ha ++ ra) ∧ s0.ownBefore p (xa ++ ha ++ ra) = false ∧
      kvHeaderBad (s0.valueAt (ha.headD acc1)) (s0.valueAt (ha.getLastD acc1)) = none ∧
      (∀ x ∈ xa, (f32.decode (s0.valueAt x).toNat).isNan = false ∧ (f32.decode (s0.valueAt x).toNat).isInf = false) := by
  refine ⟨rfl, by decide +kernel, by decide +kernel, by decide +kernel, rfl, engAccs1 rfl ⟨rfl, rfl⟩ rfl (by decide), engAccs1 rfl ⟨rfl, rfl⟩ rfl (by decide),
    reach1 (by decide +kernel) (by decide +kernel) rfl (by decide) ⟨rfl, rfl⟩ (by decide +kernel) (by decide +kernel), by decide +kernel, by decide +kernel, by decide +kernel⟩
/-- In the state after the block number, nothing is in the command's way, and the pages' D bits are known to be set. -/
theorem witness_EngineCommandsComplete_append_clear :
    let p := ecmd (.kvapp 8 4 6) [0, 0] kvEntry
    let s0 := blockState (engines p) p kvEntry
    EngClear s0 p ∧ DirtyKnown s0 p ((List.range 2).map (engAddr .global (kvEntry.hdr 0)) ++ (List.range 1024).map (engAddr .global (kvEntry.rows 0))) :=
  ⟨⟨rfl, ⟨rfl, rfl⟩, (by intro x hx; cases hx), ⟨rfl, rfl, by intro x hx; rw [List.mem_singleton.1 (show x ∈ [team1] from hx)]; exact ⟨rfl, rfl⟩⟩,
    (by intro m hm; cases hm), (by intro m hm; cases hm)⟩,
    dirty1 rfl ⟨rfl, rfl⟩ (by decide +kernel)⟩
/-- The block number is read. -/
theorem witness_EngineCommandsComplete_number :
    let p := ecmd (.kvapp 8 4 6) [0, 0] kvEntry
    let s := engines p
    let acc := accOf gtlb.pte (leafBase gtlb.pte + (0x110000 - gtlb.vbase))
    s.engRange p.group .global 0x110000 1 = none ∧ s.engAccs p.group .global .rd 0x110000 1 = (s, .ok [acc]) ∧ EngClear s p ∧ EngReach s p [acc] [] ∧
      s.ownBefore p [acc] = false ∧ (s.valueAt acc).toNat < kvEntry.nblk :=
  ⟨by decide, engAccs1 rfl ⟨rfl, rfl⟩ rfl (by decide), clear1 _ _ _ _, reach1 (by decide) (by decide) rfl (by decide) ⟨rfl, rfl⟩ (by decide) (by decide), by decide, by decide⟩
/-- SELT of four words from shared byte 0 to byte 64. -/
theorem witness_EngineCommandsComplete_select :
    let p := ecmd (.selt 8 4 6) [0x3F800000, 4, 0, 64] Layout.invalid
    let s := engines p
    p.key.team = some ⟨1, 0x400, 0⟩ ∧ s.engRange p.group .shared 0 4 = none ∧ s.engRange p.group .shared 64 8 = none ∧ (s.team? ⟨1, 0x400, 0⟩).isSome = true ∧ EngClear s p ∧
      s.ownBefore p ((List.range 4).map (fun k => seltAcc ⟨1, 0x400, 0⟩ p.upper (0 % 2 ^ 20 + 4 * k))) = false ∧
      ∀ j m, j < 4 → m < 8 → 0 % 2 ^ 20 + 4 * j ≠ 64 % 2 ^ 20 + 4 * m :=
  ⟨rfl, by decide, by decide, rfl, clear1 _ _ _ _, by decide, by omega⟩

/-- The array of core 2, owned by the team, with the members of `l`. -/
def array1 (l : List Nat) : Arr := { core := 2, owner := some ⟨1, 0x400, 0⟩, latchList := l }
/-- The other group's arrival with a DSWAP. -/
def arrival1 : Arrival := ⟨other, [0], .dswap, [], [], {}, 0x40, none, none⟩
/-- The machine with two groups and an array. -/
def ganged (a : Arr) (g : Group) : State := { machine1 g with groups := [g, { group1 (thread1 []) with key := other }], arrs := [a] }

theorem witness_GangOperationsRendezvous_waits : ∃ row, GangReady .dswap row (ganged (array1 [0, 1]) (group1 (thread1 []))) (group1 (thread1 [])) (thread1 []) ⟨1, 0x400, 0⟩ ∧
    1 ∈ (array1 [0, 1]).latchList ∧ ((ganged (array1 [0, 1]) (group1 (thread1 []))).liveMember ⟨1, 0x400, 0⟩ 1).isSome = true ∧ (array1 [0, 1]).waiting = [] ∧
    (ganged (array1 [0, 1]) (group1 (thread1 []))).arr (group1 (thread1 [])).arrCore = array1 [0, 1] :=
  ⟨_, ⟨⟨⟨_, rfl, rfl, rfl⟩, _, _, rfl, by decide, by decide⟩, rfl, rfl, ⟨rfl, rfl⟩, by decide, ⟨rfl, rfl⟩, by decide, by decide, by decide⟩, by decide, by decide, rfl, rfl⟩
theorem witness_GangOperationsRendezvous_starts :
    let a : Arr := { array1 [1, 0] with waiting := [arrival1] }
    let s := ganged a (group1 (thread1 []))
    ∃ row, GangReady .dswap row s (group1 (thread1 [])) (thread1 []) ⟨1, 0x400, 0⟩ ∧ s.arr 2 = a ∧ (s.group? other).isSome = true ∧ arrival1.key.team = some ⟨1, 0x400, 0⟩ ∧
      arrival1.vals = row.vals (view1 []) ∧ arrival1.book = row.book (view1 []) ∧
      (a.waiting.map (fun y => y.key.gid) ++ [(group1 (thread1 [])).key.gid]).Perm a.latchList ∧ a.latchList.Nodup :=
  ⟨_, ⟨⟨⟨_, rfl, rfl, rfl⟩, _, _, rfl, by decide, by decide⟩, rfl, rfl, ⟨rfl, rfl⟩, by decide, ⟨rfl, rfl⟩, by decide, by decide, by decide⟩, rfl, rfl, rfl, rfl, rfl, by decide, by decide⟩

/-- Each form of one thread's gang operation passes its checks. -/
theorem witness_GangOperationsRendezvous_forms : ∀ i ∈ [Instr.dld 4 5 6, .dswap, .dstr 4 5 6, .dstrn 4 5 6, .dzro 0x81, .ddrn 4 5 6, .ddrq 4 5 6, .spgm 8 5, .dscr 4 5 6, .smrg 4 5 6],
    ∃ row, GangReady i row (ganged (array1 [0, 1]) (group1 (thread1 rmem))) (group1 (thread1 rmem)) (thread1 rmem) ⟨1, 0x400, 0⟩ := by
  intro i hi
  simp only [List.mem_cons, List.not_mem_nil, or_false] at hi
  rcases hi with h | h | h | h | h | h | h | h | h | h <;> subst h <;>
    exact ⟨_, ⟨⟨_, rfl, rfl, rfl⟩, _, _, rfl, by decide, by decide⟩, rfl, rfl, ⟨rfl, rfl⟩, by decide, ⟨rfl, rfl⟩, by decide, by decide, by decide⟩
/-- A group of 16 threads, whose v6 hold codebook entries. -/
def books : Group :=
  { group1 (thread1 rmem) with threads := (List.range 16).map (fun k => { thread1 ((6, ⟨0x38, .e4m3q⟩) :: rmem.filter (fun p => decide (p.1 ≠ 6))) with tid := k, lane := k }) }
/-- Its first thread. -/
def booked : Thread := thread1 ((6, ⟨0x38, .e4m3q⟩) :: rmem.filter (fun p => decide (p.1 ≠ 6)))
theorem witness_GangOperationsRendezvous_codebook :
    ∃ row, GangReady (.dldl 4 5 6) row { ganged (array1 [0, 1]) books with cur := some ⟨books.key, [0]⟩ } books booked ⟨1, 0x400, 0⟩ :=
  ⟨_, ⟨⟨_, rfl, rfl, rfl⟩, _, _, rfl, by decide, by decide⟩, rfl, rfl, ⟨rfl, rfl⟩, by decide, ⟨rfl, rfl⟩, by decide, by decide, by decide⟩
/-- The other group has come with a DSTR, this one comes with a DSWAP. -/
theorem witness_GangOperationsRendezvous_differ :
    let y : Arrival := { arrival1 with instr := .dstr 4 5 6, vals := [1, 2, 3] }
    let s := handled (ganged { array1 [0, 1] with waiting := [y] } (group1 (thread1 [])))
    ∃ row, GangReady .dswap row s (group1 (thread1 [])) (thread1 []) ⟨1, 0x400, 0⟩ ∧ (s.arr 2).waiting = [y] ∧
      let low := arrivalOf .dswap (group1 (thread1 [])) (thread1 []) [thread1 []] (row.vals (view1 [])) (row.book (view1 [])) none
      (s.arr 2).latchList.head? = some low.key.gid ∧ y.agrees low = false ∧ s.handler? (group1 (thread1 [])).ctx = some 0x200 ∧
        ∀ z ∈ [y, low], ∃ tid u, z.tids = [tid] ∧ s.thread? z.key tid = some u ∧ u.exited = false ∧ u.inHandler = false := by
  refine ⟨_, ⟨⟨⟨_, rfl, rfl, rfl⟩, _, _, rfl, by decide, by decide⟩, rfl, rfl, ⟨rfl, rfl⟩, by decide, ⟨rfl, rfl⟩, by decide, by decide, by decide⟩, rfl, rfl, by decide, rfl, ?_⟩
  intro z hz
  simp only [List.mem_cons, List.not_mem_nil, or_false] at hz
  rcases hz with h | h <;> subst h <;> exact ⟨0, thread1 [], rfl, rfl, rfl, rfl⟩
/-- A group that is no member of its team's gang. -/
theorem witness_GangOperationsRendezvous_stranger :
    let s := handled (ganged (array1 [1]) (group1 (thread1 [])))
    ∃ row, gangRow .dswap = some row ∧ Chosen .dswap s (group1 (thread1 [])) [thread1 []] ∧ row.ok (view1 []) = true ∧
      (s.arr (group1 (thread1 [])).arrCore).member (group1 (thread1 [])).key = false ∧ s.arrAwaited (group1 (thread1 [])) = false ∧ s.handler? (group1 (thread1 [])).ctx = some 0x200 :=
  ⟨_, rfl, ⟨⟨_, rfl, rfl, rfl⟩, _, _, rfl, by decide, by decide⟩, by decide, by decide, by decide, rfl⟩

/-- v4:v5 hold the gang list of groups 0 and 1. -/
def rgang : Store Reg := ints [(4, 0xFFFF0100), (5, 0xFFFFFFFF), (8, 1)]

theorem witness_GangIsFormed_waits : Chosen (.dgang 8 4) (ganged { core := 2 } (group1 (thread1 rgang))) (group1 (thread1 rgang)) [thread1 rgang] ∧
    addrTag (View.pairTag (view1 rgang) addrTag 4) = true ∧ gangListOf (View.regAt (view1 rgang) 4 0).val (View.regAt (view1 rgang) 4 1).val = some [0, 1] ∧
    (ganged { core := 2 } (group1 (thread1 rgang))).gangListOk (group1 (thread1 rgang)) [0, 1] = true ∧
    ((ganged { core := 2 } (group1 (thread1 rgang))).arr (group1 (thread1 rgang)).arrCore).owner = none ∧
    ((ganged { core := 2 } (group1 (thread1 rgang))).arr (group1 (thread1 rgang)).arrCore).waiting = [] :=
  ⟨⟨⟨_, rfl, rfl, rfl⟩, _, _, rfl, by decide, by decide⟩, by decide, by decide, by decide, rfl, rfl⟩
theorem witness_GangIsFormed_forms :
    let y : Arrival := { arrival1 with instr := .dgang 8 4, forming := some [0, 1] }
    let s := ganged { core := 2, waiting := [y] } (group1 (thread1 rgang))
    Chosen (.dgang 8 4) s (group1 (thread1 rgang)) [thread1 rgang] ∧ (s.arr 2).waiting = [y] ∧ y.key.team = some ⟨1, 0x400, 0⟩ ∧ y.key.gid ∈ [0, 1] ∧
      y.key ≠ (group1 (thread1 rgang)).key ∧ (s.group? y.key).isSome = true ∧ y.key = .kernel 1 0x400 0 1 :=
  ⟨⟨⟨_, rfl, rfl, rfl⟩, _, _, rfl, by decide, by decide⟩, rfl, rfl, by decide, by decide, by decide, rfl⟩

/-- An operation of the array, of the group of `thread1`, its STAT as given. -/
def aop (i : Instr) (stat : Option Word) : ArrOp :=
  { id := 9, instr := i, vals := [], book := [], hints := {}, team := ⟨1, 0x400, 0⟩, upper := false, vtag := 0, captured := [], stat := stat, newList := none
    members := [⟨.kernel 1 0x400 0 0, [0], some 8, 0x40⟩, ⟨other, [0], some 8, 0x40⟩] }
/-- The machine with it in flight. -/
def flying (o : ArrOp) : State := ganged { array1 [0, 1] with ops := [o] } (group1 (thread1 rgang))

theorem witness_DwaitAnswers : Issues (.dwait 8) [] ∧ (kernel []).arrBusy (.kernel 1 0x400 0 0) = false :=
  ⟨⟨⟨_, rfl, rfl, rfl⟩, _, _, rfl, by decide, by decide⟩, rfl⟩
theorem witness_DwaitWaits : Chosen (.dwait 8) (flying (aop .dswap none)) (group1 (thread1 rgang)) [thread1 rgang] ∧
    ((flying (aop .dswap none)).arr (group1 (thread1 rgang)).arrCore).member (group1 (thread1 rgang)).key = true ∧ (flying (aop .dswap none)).arrBusy (group1 (thread1 rgang)).key = true :=
  ⟨⟨⟨_, rfl, rfl, rfl⟩, _, _, rfl, by decide, by decide⟩, by decide, by decide⟩
theorem witness_DpassJoins : Chosen (.dpass 9 8) (flying (aop .dswap none)) (group1 (thread1 rgang)) [thread1 rgang] ∧
    addrTag (View.tag (view1 rgang) 8) = true ∧ (View.val (view1 rgang) 8).toNat < 2 ∧ ((flying (aop .dswap none)).arr 2).member (group1 (thread1 rgang)).key = true ∧
    ((flying (aop .dswap none)).arr 2).waiting = [] :=
  ⟨⟨⟨_, rfl, rfl, rfl⟩, _, _, rfl, by decide, by decide⟩, by decide, by decide, by decide, rfl⟩
/-- DPASS behind its own member's arrival, which waits for group 1. -/
theorem witness_DpassWaitsBehind :
    let y : Arrival := { arrival1 with key := .kernel 1 0x400 0 0, tids := [1] }
    let s := ganged { array1 [0, 1] with waiting := [y] } (group1 (thread1 rgang))
    Chosen (.dpass 9 8) s (group1 (thread1 rgang)) [thread1 rgang] ∧ (s.arr 2).waiting = [y] ∧ y.key = (group1 (thread1 rgang)).key ∧ y.forming = none ∧ y.pass = none ∧
      (s.arr 2).member (group1 (thread1 rgang)).key = true ∧ (s.arr 2).owner = some ⟨1, 0x400, 0⟩ ∧ 1 ∈ (s.arr 2).latchList ∧
      (s.liveMember ⟨1, 0x400, 0⟩ 1).isSome = true ∧ y.key.gid ≠ 1 :=
  ⟨⟨⟨_, rfl, rfl, rfl⟩, _, _, rfl, by decide, by decide⟩, rfl, rfl, rfl, rfl, by decide, rfl, by decide, by decide, by decide⟩
theorem witness_ArrayOperationsRun_swap : ArrayReady (flying (aop .dswap none)) 2 (arrPipe .dswap) (aop .dswap none) ∧
    ((flying (aop .dswap none)).runArr 2 ((flying (aop .dswap none)).arr 2) (aop .dswap none)).a.waiting = [] ∧
    ((flying (aop .dswap none)).runArr 2 ((flying (aop .dswap none)).arr 2) (aop .dswap none)).a.ops = ((flying (aop .dswap none)).arr 2).ops ∧
    ((flying (aop .dswap none)).runArr 2 ((flying (aop .dswap none)).arr 2) (aop .dswap none)).a.core = 2 :=
  ⟨⟨rfl, by decide, rfl, rfl, rfl, rfl⟩, rfl, rfl, rfl⟩
theorem witness_ArrayOperationsRun_zero : ArrayReady (flying (aop (.dzro 0x81) none)) 2 (arrPipe (.dzro 0x81)) (aop (.dzro 0x81) none) :=
  ⟨rfl, by decide, rfl, rfl, rfl, rfl⟩
/-- An operation with its values and the words captured, in a machine whose team has 64 KiB of shared memory and 65,536 tile words. -/
def aopv (i : Instr) (vals captured : List Word) (hints : Hints := {}) : ArrOp := { aop i none with vals := vals, captured := captured, hints := hints }
/-- That machine. -/
def array2 (o : ArrOp) : State :=
  { flying o with grids := [{ grid1 with rcd := { rcd1 with shared := 65536 } }], teams := [{ team1 with tileWords := 65536 }] }
/-- What each of the operations asks for first. -/
theorem ready1 (o : ArrOp) (hm : o.mayStart [] = true) (hs : o.stat = none) (ho : o.hints.ord = none) : ArrayReady (array2 o) 2 (arrPipe o.instr) o :=
  have h : ((array2 o).arr 2).ops = [o] := rfl
  ⟨by rw [h]; simp, by rw [h]; simpa using hm, hs, ho, List.any_eq_false.2 (fun _ _ h => by cases h), rfl⟩

set_option maxRecDepth 8000 in
/-- DLD of INT4 columns, 16 bytes each, from shared memory and from tile memory. -/
theorem witness_ArrayOperationsRun_load :
    let o := aopv (.dld 4 5 6) [1, 0, 0] []
    ArrayReady (array2 o) 2 (arrPipe (.dld 4 5 6)) o ∧ (∃ d, dldDesc false 1 = some d ∧ d.mxs = false ∧ d.tile = false ∧ d.stride = 16 ∧ colBytes d.fmt = 16) ∧
      SharedClear (array2 o) ∧ ∀ c, c < 256 → (array2 o).sharedFits o 2 (0 + c * 16) 16 = true :=
  ⟨ready1 _ (by decide) rfl rfl, ⟨_, rfl, rfl, rfl, rfl, rfl⟩, by unfold SharedClear; decide, by decide +kernel⟩
set_option maxRecDepth 8000 in
theorem witness_ArrayOperationsRun_load_tile :
    let o := aopv (.dld 4 5 6) [0x11, 0, 0] []
    ArrayReady (array2 o) 2 (arrPipe (.dld 4 5 6)) o ∧ (∃ d, dldDesc false 0x11 = some d ∧ d.mxs = false ∧ d.tile = true ∧ d.stride = 16 ∧ d.words = 4) ∧
      (array2 o).mem.tilePoison = [] ∧
      ∀ c, c < 256 → ∀ k, k < 4 → (array2 o).tileAllocated 1 (0 + c * 4 + k) = true ∧ (array2 o).accLost { loc := .tile (0 + c * 4 + k) } = false :=
  ⟨ready1 _ (by decide) rfl rfl, ⟨_, rfl, rfl, rfl, rfl, rfl⟩, rfl, by decide +kernel⟩
/-- DLDL, and DLD of MXFP4 columns with their scales in the 512 bytes from 4,096. -/
theorem witness_ArrayOperationsRun_load_books :
    (∃ d, dldDesc true 7 = some d ∧ d.mxs = false ∧ d.tile = false) ∧ ArrayReady (array2 (aopv (.dldl 4 5 6) [7, 0] [])) 2 (arrPipe (.dldl 4 5 6)) (aopv (.dldl 4 5 6) [7, 0] []) ∧
      (∃ d, dldDesc false 0x21 = some d ∧ d.mxs = true) ∧ 4096 % 4 = 0 ∧
      (array2 (aopv (.dld 4 5 6) [0x21, 0, 4096] (List.replicate 128 0))).sharedFits (aopv (.dld 4 5 6) [0x21, 0, 4096] (List.replicate 128 0)) 2 (4096 % 2 ^ 20) 512 = true :=
  ⟨⟨_, rfl, rfl, rfl⟩, ready1 _ (by decide) rfl rfl, ⟨_, rfl, rfl⟩, by decide, by decide +kernel⟩
/-- DSTR and DSTRN of two FLT rows; DSTR of two E4M3 rows with a scale word at 4,096. -/
theorem witness_ArrayOperationsRun_stream : ∀ i ∈ [Instr.dstr 4 5 6, .dstrn 4 5 6], let o := aopv i [0x800030, 0, 0] []
    ArrayReady (array2 o) 2 (arrPipe i) o ∧ streamFmt (tagOf (BitVec.ofNat 4 (fld 0x800030 4 4))) = true ∧ fld 0x800030 22 7 = 2 ∧ fld 0x800030 9 7 = 0 ∧
      ∀ k, k < 2 → (array2 o).sharedFits o 2 (0 + k * 128) 128 = true ∧ (array2 o).runBad o (0 + k * 128) 32 = false := by
  intro i hi
  simp only [List.mem_cons, List.not_mem_nil, or_false] at hi
  rcases hi with h | h <;> subst h <;> exact ⟨ready1 _ (by decide) rfl rfl, by decide, by decide, by decide, by decide +kernel⟩
theorem witness_ArrayOperationsRun_stream_scaled : let o := aopv (.dstr 4 5 6) [0x800160, 0, 0, 4096] [] { src := some 10 }
    ArrayReady (array2 o) 2 (arrPipe (.dstr 4 5 6)) o ∧ (0x800160#32).getLsbD 8 = o.hints.src.isSome ∧ mxTag (tagOf (BitVec.ofNat 4 (fld 0x800160 4 4))) = true ∧
      (array2 o).sharedFits o 2 (4096 % 2 ^ 20) (4 * ((2 + 1) / 2)) = true := ⟨ready1 _ (by decide) rfl rfl, by decide, by decide, by decide +kernel⟩
set_option maxRecDepth 4000 in
/-- DDRN of an FLT row, with and without a column table at 4,096; DDRQ of an E4M3 row. -/
theorem witness_ArrayOperationsRun_drain : let o := aopv (.ddrn 4 5 6) [0x400030, 0, 0] []
    ArrayReady (array2 o) 2 (arrPipe (.ddrn 4 5 6)) o ∧ drainBad 0x400030 = false ∧ fld 0x400030 12 2 = 0 ∧ fld 0x400030 4 4 = 3 ∧ (array2 o).sharedFits o 2 0 1024 = true ∧
      (array2 o).tableOk 2 o (drainOpt 0x400030) 0 = true ∧ (array2 o).tableOk 2 o (drainOpt 0x400130) 4096 = true ∧ (drainOpt 0x400130).cp = true :=
  ⟨ready1 _ (by decide) rfl rfl, by decide, by decide, by decide, by decide +kernel, by decide +kernel, by decide +kernel, by decide⟩
theorem witness_ArrayOperationsRun_quantise : let o := aopv (.ddrq 4 5 6) [0x400060, 0, 0] []
    ArrayReady (array2 o) 2 (arrPipe (.ddrq 4 5 6)) o ∧ drainBad 0x400060 = false ∧ fld 0x400060 12 2 ≠ 3 ∧ mxTag (tagOf (BitVec.ofNat 4 (fld 0x400060 4 4))) = true ∧
      (array2 o).sharedFits o 2 0 (256 + 16) = true ∧ (array2 o).tableOk 2 o (drainOpt 0x400060) 0 = true :=
  ⟨ready1 _ (by decide) rfl rfl, by decide, by decide, by decide, by decide +kernel, by decide +kernel⟩
/-- SPGM of an empty program, and of one that counts 17 entries. -/
theorem witness_ArrayOperationsRun_program : let o := aopv (.spgm 8 5) [0] (List.replicate 24 0)
    ArrayReady (array2 o) 2 (arrPipe (.spgm 8 5)) o ∧ (array2 o).sharedFits o 2 0 96 = true ∧ spgmBad o.captured = none ∧ spgmBad (List.replicate 20 0 ++ [17, 0, 0, 0]) = some 0xFF :=
  ⟨ready1 _ (by decide) rfl rfl, by decide +kernel, by decide, by decide⟩
/-- DSCR of a row of tile 0 to HALF probabilities, with its output in tile 1. -/
theorem witness_ArrayOperationsRun_score : let o := aopv (.dscr 4 5 6) [0x400140, 0, 0, 0] [] { src := some 10 }
    ArrayReady (array2 o) 2 (arrPipe (.dscr 4 5 6)) o ∧ o.hints.src.isSome = true ∧ fld 0x400140 29 3 = 0 ∧ fld 0x400140 11 4 = 0 ∧ fld 0x400140 4 4 = 4 ∧ fld 0x400140 8 3 = 1 ∧
      fld 0x400140 0 3 = 0 ∧ (array2 o).sharedFits o 2 0 512 = true := ⟨ready1 _ (by decide) rfl rfl, rfl, by decide, by decide, by decide, by decide, by decide, by decide +kernel⟩
/-- SMRG of a row from byte 0 and its pair from byte 1,024. -/
theorem witness_ArrayOperationsRun_merge : let o := aopv (.smrg 4 5 6) [0x400000, 0, 1024] []
    ArrayReady (array2 o) 2 (arrPipe (.smrg 4 5 6)) o ∧ fld 0x400000 3 13 = 0 ∧ (array2 o).mergeFits 2 ((array2 o).arr 2) o 0 0 0 1024 0 = true ∧
      (array2 o).mergeBad ((array2 o).arr 2) o 0 0 0 1024 0 = false := ⟨ready1 _ (by decide) rfl rfl, by decide, by decide +kernel, by decide +kernel⟩
/-- DPASS of the shadow plane, in a loaded array. -/
theorem witness_ArrayOperationsRun_pass : let o := aopv (.dpass 9 8) [1] []
    let p : Plane := { Plane.zero with fmt := 7, passes := 2, had := 3, poison := true }
    let s : State := { array2 o with arrs := [{ array1 [0, 1] with ops := [o], shadow := p }] }
    ArrayReady s 2 (arrPipe (.dpass 9 8)) o ∧ (s.arr 2).shadow = p ∧ (o.val 0).getLsbD 0 = true ∧ p.passes < 2 ^ 4 ∧ p.fmt < 2 ^ 4 ∧ p.had < 2 ^ 2 ∧
      p.passWord = 0xD72#32 := ⟨⟨rfl, by decide, rfl, rfl, rfl, rfl⟩, rfl, by decide, by decide, by decide, by decide, by decide⟩
theorem witness_ArrayOperationsRun_complete :
    ((flying (aop .dswap (some 0x80000000))).arr 2).ops.find? (fun x => decide (arrPipe x.instr = arrPipe .dswap)) = some (aop .dswap (some 0x80000000)) ∧
      ((aop .dswap (some 0x80000000)).members.map ArrMember.key).Nodup ∧
      (flying (aop .dswap (some 0x80000000))).thread? (.kernel 1 0x400 0 0) 0 = some (thread1 rgang) ∧ (∀ x ∈ (flying (aop .dswap (some 0x80000000))).teams, x.phase ≠ .retired) :=
  ⟨rfl, by decide, rfl, by decide⟩

/-! System instructions. -/

theorem witness_SrdReads : ∃ r, QIssues (.srd 8 0x60) [] ∧ sysCheck (.srd 8 0x60) (queue1 (thread1 [])) 0x60 false = .ok r :=
  ⟨_, ⟨⟨_, rfl, rfl, rfl⟩, _, _, rfl, by decide, by decide⟩, rfl⟩
theorem witness_SwrWrites : ∃ r, QIssues (.swr 6 0x30) r567 ∧ sysCheck (.swr 6 0x30) (queue1 (thread1 r567)) 0x30 true = .ok r ∧
    sysValueBad 0x30 r (View.val ⟨queue1 (thread1 r567), thread1 r567⟩ 6) = false ∧ ((queue r567).ctx? 1).isSome = true :=
  ⟨_, ⟨⟨_, rfl, rfl, rfl⟩, _, _, rfl, by decide, by decide⟩, rfl, by decide, rfl⟩
theorem witness_SystemRegisterOutOfReach : ∃ r, sysReg (sysNum 0x21) = some r ∧ r.write.ok (group1 (thread1 [])) = false := ⟨_, rfl, by decide⟩

/-- Queue thread whose accesses have been performed. -/
theorem settled (i : Instr) (s : State) (g : Group) (t : Thread) (hc : Chosen i s g [t]) (ht : g.thread? t.tid = some t) (hb : t.block = none)
    (hd : s.outstanding g.key [t.tid] = false) : Settled i s g t := ⟨hc, ht, hb, hd⟩

/-- A launch record at 0x120000: entry 0x200, width 32, N 16, one team of 32 threads, SHARED 4096, TILE
256, 8 parameter bytes at 0x120200, completion record at 0x120400 (R219). -/
def record1 : List Word := [0x200, 0x03011020, 1, 0x00010020, 4096, 256, 8, 0, 0, 0, 0, 0, 0x120200, 0, 0, 0, 0x120400, 0] ++ List.replicate 14 0
/-- v4:v5 hold its address. -/
def rlnch : Store Reg := ints [(4, 0x120000), (5, 0), (6, 9)]
/-- The machine that launches it. -/
def launcher : State := { queue rlnch with grids := [], teams := [], mem := { (queue rlnch).mem with ram := (queue rlnch).mem.ram.writeWords 0x120000 record1 } }

set_option maxRecDepth 4000 in
theorem witness_LaunchAddsAGrid : ∃ w params regions c slot s5, Settled (.lnch 8 4) launcher (queue1 (thread1 rlnch)) (thread1 rlnch) ∧
    addrTag (View.pairTag ⟨queue1 (thread1 rlnch), thread1 rlnch⟩ addrTag 4) = true ∧
    LaunchReads launcher (queue1 (thread1 rlnch)) (View.pair ⟨queue1 (thread1 rlnch), thread1 rlnch⟩ 4).toNat w params regions c slot s5 :=
  ⟨_, _, _, _, _, _, ⟨⟨⟨_, rfl, rfl, rfl⟩, _, _, rfl, by decide, by decide⟩, rfl, rfl, by decide⟩, by decide,
    ⟨⟨_, _, _, _, _, rfl, rfl, rfl, rfl, rfl, rfl⟩, rfl, rfl, rfl, rfl, rfl, rfl, rfl⟩⟩
set_option maxRecDepth 4000 in
theorem witness_LaunchAddsAGrid_speculative : ∃ w params regions c slot s5 tag, Settled (.lnchs 8 4 6) launcher (queue1 (thread1 rlnch)) (thread1 rlnch) ∧
    LaunchReads launcher (queue1 (thread1 rlnch)) (View.pair ⟨queue1 (thread1 rlnch), thread1 rlnch⟩ 4).toNat w params regions c slot s5 ∧
    (c.path (recordOf w regions).vtag).length ≠ 16 ∧ c.freshTag = some tag :=
  ⟨_, _, _, _, _, _, _, ⟨⟨⟨_, rfl, rfl, rfl⟩, _, _, rfl, by decide, by decide⟩, rfl, rfl, by decide⟩,
    ⟨⟨_, _, _, _, _, rfl, rfl, rfl, rfl, rfl, rfl⟩, rfl, rfl, rfl, rfl, rfl, rfl, rfl⟩, by decide, rfl⟩

/-- A live child of the root with tag 0x0001. -/
def ver1 : Ver := { tag := 1, st := .live, parent := 0, pred := 9, age := 0 }
/-- The queue machine with versions; v6 holds 1, v7 0. -/
def versioned (l : List Ver) : State := { queue (ints [(6, 1), (7, 0)]) with ctxs := [{ ctx1 with vers := l }], grids := [], teams := [] }
/-- Its queue thread. -/
def verThread : Thread := thread1 (ints [(6, 1), (7, 0)])

theorem witness_RslvCommits : Settled (.rslv 8 6 7) (versioned [ver1, { ver1 with tag := 2 }]) (queue1 verThread) verThread ∧
    VersOk { ctx1 with vers := [ver1, { ver1 with tag := 2 }] } ∧ NoLockFor (versioned [ver1, { ver1 with tag := 2 }]) (queue1 verThread) ∧
    Ctx.ver? { ctx1 with vers := [ver1, { ver1 with tag := 2 }] } 1 = some ver1 ∧
    (versioned [ver1, { ver1 with tag := 2 }]).openGrids 1 (fun y => decide (y = 1)) = [] ∧ (versioned [ver1, { ver1 with tag := 2 }]).ctx? 1 = some { ctx1 with vers := [ver1, { ver1 with tag := 2 }] } :=
  ⟨⟨⟨⟨_, rfl, rfl, rfl⟩, _, _, rfl, by decide, by decide⟩, rfl, rfl, by decide⟩, ⟨by decide, by decide, by decide⟩, (by intro r hr; cases hr), rfl, rfl, rfl⟩
/-- The context has no commit in progress; the version has a copy of one word; a child of it goes to the root. -/
theorem witness_RslvCommits_copies :
    let c : LineCopy := { ctx := 1, tag := 1, line := 0x120000, mask := 1, words := [(0, 7)], pool := false }
    let s : State := { versioned [ver1, { ver1 with tag := 2, parent := 1 }] with mem := { (versioned []).mem with copies := [c] } }
    Settled (.rslv 8 6 7) s (queue1 verThread) verThread ∧ TreeFree s 1 ∧ CopiesPlain s 1 1 ∧ s.openGrids 1 (fun _ => true) = [] ∧ c ∈ s.mem.copies ∧
      VersOk { ctx1 with vers := [ver1, { ver1 with tag := 2, parent := 1 }] } :=
  ⟨⟨⟨⟨_, rfl, rfl, rfl⟩, _, _, rfl, by decide, by decide⟩, rfl, rfl, by decide⟩, ⟨by decide, by decide⟩, ⟨rfl, rfl, by decide, by decide⟩, rfl, by decide,
    ⟨by decide, by decide, by decide⟩⟩
theorem witness_VsqSquashes : Settled (.vsq 8 6) (versioned [ver1]) (queue1 verThread) verThread ∧ VersOk { ctx1 with vers := [ver1] } ∧
    NoLockFor (versioned [ver1]) (queue1 verThread) ∧ TreeFree (versioned [ver1]) 1 ∧ Ctx.ver? { ctx1 with vers := [ver1] } 1 = some ver1 :=
  ⟨⟨⟨⟨_, rfl, rfl, rfl⟩, _, _, rfl, by decide, by decide⟩, rfl, rfl, by decide⟩, ⟨by decide, by decide, by decide⟩, (by intro r hr; cases hr), ⟨by decide, by decide⟩, rfl⟩
theorem witness_VqryReports : Chosen (.vqry 8 6) (versioned [ver1]) (queue1 verThread) [verThread] ∧ addrTag (View.tag ⟨queue1 verThread, verThread⟩ 6) = true ∧
    Ctx.ver? { ctx1 with vers := [{ ver1 with st := .committed }] } 1 = some { ver1 with st := .committed } ∧ Ctx.ver? ctx1 1 = none :=
  ⟨⟨⟨_, rfl, rfl, rfl⟩, _, _, rfl, by decide, by decide⟩, by decide, rfl, rfl⟩
/-- A live version with a live child, and the root: what R231 has of each. -/
theorem witness_VqryReports_live : let c : Ctx := { ctx1 with vers := [ver1, { ver1 with tag := 2, parent := 1 }] }
    c.ver? 1 = some ver1 ∧ ver1.st = .live ∧ (c.path 1).length = 1 ∧ (c.liveVers.filter (fun y => decide (y.parent = 1))).length = 1 ∧
      c.vqry 1 = 0x01010000#32 ∧ c.vqry 2 = 0x02000001#32 ∧ c.vqry 0 = 0x40010000#32 := by decide

/-- v6 names grid 0x400, v7 the same without blocking. -/
def rgrid : Store Reg := ints [(6, 0x400), (7, 0x10400), (9, 3)]

theorem witness_WaitgDone : Chosen (.waitg 8 6) { queue rgrid with grids := [{ grid1 with done := some 0x11 }] } (queue1 (thread1 rgrid)) [thread1 rgrid] ∧
    State.grid? { queue rgrid with grids := [{ grid1 with done := some 0x11 }] } 1 0x400 = some { grid1 with done := some 0x11 } :=
  ⟨⟨⟨_, rfl, rfl, rfl⟩, _, _, rfl, by decide, by decide⟩, rfl⟩
theorem witness_WaitgNotDone : QIssues (.waitg 8 7) rgrid ∧ QIssues (.waitg 8 6) rgrid ∧ (queue rgrid).grid? 1 0x400 = some grid1 ∧ grid1.done = none ∧
    (View.val ⟨queue1 (thread1 rgrid), thread1 rgrid⟩ 7).getLsbD 16 = true ∧ (View.val ⟨queue1 (thread1 rgrid), thread1 rgrid⟩ 6).getLsbD 16 = false ∧
    (queue1 (thread1 rgrid)).key = .queue 3 :=
  ⟨⟨⟨_, rfl, rfl, rfl⟩, _, _, rfl, by decide, by decide⟩, ⟨⟨_, rfl, rfl, rfl⟩, _, _, rfl, by decide, by decide⟩, rfl, rfl, by decide, by decide, rfl⟩
theorem witness_LocNames : QIssues (.loc 9) rgrid ∧ (View.val ⟨queue1 (thread1 rgrid), thread1 rgrid⟩ 9).toNat ≤ 3 :=
  ⟨⟨⟨_, rfl, rfl, rfl⟩, _, _, rfl, by decide, by decide⟩, by decide⟩
/-- Vector 3 is the last of the context's four, 4 is beyond them. -/
theorem witness_HostiSignals : Settled (.hosti 8 9) (queue rgrid) (queue1 (thread1 rgrid)) (thread1 rgrid) ∧ (View.val ⟨queue1 (thread1 rgrid), thread1 rgrid⟩ 9).toNat < 2 ^ 11 ∧
    3 < ctx1.vecCount ∧ ctx1.vecCount ≤ 4 ∧ (Store.get MsixEntry.reset (queue rgrid).dev.msix (ctx1.vecFirst + 3)).masked = true ∧
    (Store.get MsixEntry.reset (State.dev { queue rgrid with dev := { (queue rgrid).dev with msix := [(11, ⟨0xFEE00000, 7, false⟩)] } }).msix (ctx1.vecFirst + 3)).masked = false :=
  ⟨⟨⟨⟨_, rfl, rfl, rfl⟩, _, _, rfl, by decide, by decide⟩, rfl, rfl, by decide⟩, by decide, by decide, by decide, by decide, by decide⟩

/-- v4:v5 hold the address of a layout image, v6 context 1 and index 2. -/
def rtlwr : Store Reg := ints [(4, 0x120000), (5, 0), (6, 0x10002)]
/-- The image of an entry that is invalid (KIND 0) for context 1. -/
def imager : State := { queue rtlwr with mem := { (queue rtlwr).mem with ram := (queue rtlwr).mem.ram.writeWords 0x120000 [1] } }

theorem witness_TlwrWrites : ∃ s1 w, Settled (.tlwr 8 6 4) imager (queue1 (thread1 rtlwr)) (thread1 rtlwr) ∧
    (View.pair ⟨queue1 (thread1 rtlwr), thread1 rtlwr⟩ 4).toNat % 64 = 0 ∧
    State.readVirt { imager with cur := none } (queue1 (thread1 rtlwr)) (View.pair ⟨queue1 (thread1 rtlwr), thread1 rtlwr⟩ 4).toNat 16 = .ok s1 w ∧
    s1.ctx? 1 = some ctx1 ∧ recHalf w 0 = 1 ∧ imageBad w = none ∧ s1.groups = imager.groups :=
  ⟨_, _, ⟨⟨⟨_, rfl, rfl, rfl⟩, _, _, rfl, by decide, by decide⟩, rfl, rfl, by decide⟩, by decide, rfl, rfl, rfl, rfl, rfl⟩

/-- v6 names entry 2 of context 1, v7 block 0; d is v8. -/
def rkv : Store Reg := [(6, ⟨0x10002, .nat⟩), (7, ⟨0, .nat⟩), (8, ⟨0, .nat⟩)]
/-- A KV entry whose header of block 0, at 0x140000, has a count of 1. -/
def forker : State :=
  { queue rkv with
    ctxs := [{ ctx1 with layout := [(2, { Layout.invalid with ctx := 1, kind := 1, hdrs := 0x140000, nblk := 4 })] }]
    mem := { (queue rkv).mem with ram := (queue rkv).mem.ram.writeWords 0x140000 [0x10000] } }

theorem witness_KvfrkRaises : ∃ s1 s2 acc, Settled (.kvfrk 8 6 7) forker (queue1 (thread1 rkv)) (thread1 rkv) ∧
    State.privWords { forker with cur := none } ((queue1 (thread1 rkv)).inCtx 1) .rw 0x140000 1 = .ok s1 [acc] ∧
    let sp := s1.engPrepare ((queue1 (thread1 rkv)).inCtx 1) [acc] [acc]
    sp.accPoison ((queue1 (thread1 rkv)).inCtx 1).engine acc = false ∧
    sp.markDirty ((queue1 (thread1 rkv)).inCtx 1).tlbUnit ((queue1 (thread1 rkv)).inCtx 1).ctx 0x140000 = (s2, true) ∧ s2.groups = forker.groups ∧ sp.plain acc ∧
    (∃ pa, acc.loc = .global pa) ∧ 0 < kvRefcnt (sp.valueAt acc) ∧ kvRefcnt (sp.valueAt acc) < 1023 :=
  ⟨_, _, _, ⟨⟨⟨_, rfl, rfl, rfl⟩, _, _, rfl, by decide, by decide⟩, rfl, rfl, by decide⟩, rfl, by decide, rfl, rfl,
    ⟨rfl, rfl, by decide, by decide, (by intro x hx; cases hx), (by intro x hx; cases hx)⟩, ⟨_, rfl⟩, by decide, by decide⟩

/-- v4:v5 hold the page's address 0, v6:v7 a frame 2^36 higher, v8 context 1. -/
def rmigr : Store Reg := ints [(4, 0), (5, 0), (6, 0), (7, 16), (8, 1)]

theorem witness_MigrStarts : ∃ m, Settled (.migr 8 4 6) (queue rmigr) (queue1 (thread1 rmigr)) (thread1 rmigr) ∧
    State.migrStart { queue rmigr with cur := none } 1 (View.pair ⟨queue1 (thread1 rmigr), thread1 rmigr⟩ 4) (View.pair ⟨queue1 (thread1 rmigr), thread1 rmigr⟩ 6)
      (.queue 3, 8) = .ok m ∧ (queue rmigr).tableWaits 1 0 = false :=
  ⟨_, ⟨⟨⟨_, rfl, rfl, rfl⟩, _, _, rfl, by decide, by decide⟩, rfl, rfl, by decide⟩, rfl, by decide⟩
/-- One page of context 1, and all of them. -/
theorem witness_PtinvDrops : Settled (.ptinv 4 8) (queue rmigr) (queue1 (thread1 rmigr)) (thread1 rmigr) ∧
    (View.val ⟨queue1 (thread1 rmigr), thread1 rmigr⟩ 8).toNat < 2 ^ 17 ∧ (0x1FFFF : Word).toNat < 2 ^ 17 :=
  ⟨⟨⟨⟨_, rfl, rfl, rfl⟩, _, _, rfl, by decide, by decide⟩, rfl, rfl, by decide⟩, by decide, by decide⟩

/-! The issue logic, the walker, the distributor. -/

/-- The machine with nobody chosen. -/
def idle (s : State) : State := { s with cur := none }

theorem witness_IssueLogicChooses_group : (idle (kernel [])).cur = none ∧ (idle (kernel [])).choose 2 0 = some (group1 (thread1 [])) ∧
    ((idle (kernel [])).markReady 2 0).issueGroup (group1 (thread1 [])) ≠ [] ∧ (group1 (thread1 [])).threads.map Thread.tid = [0] := ⟨rfl, rfl, by decide, rfl⟩
theorem witness_IssueLogicChooses_queue : (idle (queue [])).cur = none ∧
    ((idle (queue [])).coreQueue 0).filter (fun x => (idle (queue [])).groupReady x.2) = [(3, queue1 (thread1 []))] ∧
    (idle (queue [])).issueGroup (queue1 (thread1 [])) ≠ [] ∧ 0 < (idle (queue [])).dist.lastQt.length := ⟨rfl, rfl, by decide, by decide⟩

/-- A pending group, ready. -/
def pending1 : Group := { group1 (thread1 []) with key := .kernel 1 0x400 0 9, active := false }
/-- An active group number `gid` that waits for a word. -/
def asleep (gid : Nat) : Group := { group1 (thread1 []) with key := .kernel 1 0x400 0 gid, threads := [{ thread1 [] with paused := true }], awaited := none }
/-- Eight groups fill the active set. -/
def crowded : State := { idle (kernel []) with groups := pending1 :: (List.range 8).map asleep }

theorem witness_IssueLogicChooses_admit : let s1 := State.markReady { idle (kernel []) with groups := [pending1] } 2 0
    (∃ p, s1.pendingReady 2 0 = some p ∧ p.key = pending1.key) ∧ ((s1.quadGroups 2 0).filter Group.active).length < 8 := ⟨⟨_, rfl, rfl⟩, by decide⟩
theorem witness_IssueLogicChooses_exchange : let s1 := crowded.markReady 2 0
    (∃ p, s1.pendingReady 2 0 = some p ∧ p.key = pending1.key) ∧ 8 ≤ ((s1.quadGroups 2 0).filter Group.active).length ∧
    ∃ g, ((s1.quadGroups 2 0).filter Group.active).find? s1.waiting = some g ∧ g.key ≠ pending1.key := ⟨⟨_, rfl, rfl⟩, by decide, _, rfl, by decide⟩

/-- Eight groups that are ready but for the one that is pending: none of them waits. -/
def crowdedReady : State := { idle (kernel []) with groups := pending1 :: (List.range 8).map (fun n => { asleep n with threads := [thread1 []] }) }
theorem witness_IssueLogicChooses_exchange_none : let s1 := crowdedReady.markReady 2 0
    let act := (s1.quadGroups 2 0).filter Group.active
    (∃ p, s1.pendingReady 2 0 = some p ∧ p.key = pending1.key) ∧ 8 ≤ act.length ∧ (∀ x ∈ act, s1.waiting x = false) ∧ ∃ g, act.find? s1.mayYield = some g ∧ g.key ≠ pending1.key :=
  ⟨⟨_, rfl, rfl⟩, by decide, by decide, _, rfl, by decide⟩
/-- Eight groups whose threads wait for a shared load: R323 keeps all of them. -/
def crowdedKept : State :=
  { crowdedReady with
    cur := none
    groups := pending1 :: (List.range 8).map (fun n => { asleep n with threads := [thread1 []] })
    pends := (List.range 8).map (fun n => { pend1 (.load [acc1]) [(6, .int)] with key := .kernel 1 0x400 0 n })
    mem := { (kernel []).mem with ram := (kernel []).mem.ram.writeWords 0x100040 [0x01050607] } }
theorem witness_IssueLogicChooses_kept : let s1 := crowdedKept.markReady 2 0
    let act := (s1.quadGroups 2 0).filter Group.active
    8 ≤ act.length ∧ ∀ x ∈ act, s1.waiting x = false ∧ s1.mayYield x = false := by decide +kernel
/-- A thread that leads, though another was passed over 63 times and stands in a lower lane. -/
theorem witness_IssueLogicChooses_leads :
    let t : Thread := { thread1 [] with tid := 1, lane := 1, passOver := 64, pc := 0x80 }
    let g : Group := { group1 (thread1 []) with threads := [{ thread1 [] with passOver := 63 }, t] }
    let s : State := { idle (kernel []) with groups := [g] }
    (g.threads.map Thread.tid).Nodup ∧ s.threadReady g t = true ∧ Leads s g t ∧ s.issueGroup g = [1] := by
  refine ⟨by decide, by decide, ⟨by decide, ⟨by decide, Or.inl (by decide)⟩, ?_⟩, by decide⟩
  intro u hu hc
  simp only [List.mem_cons, List.not_mem_nil, or_false] at hu
  rcases hu with h | h <;> subst h
  · rcases hc.2 with h | h
    · exact absurd h (by decide)
    · exact absurd (h { thread1 [] with tid := 1, lane := 1, passOver := 64, pc := 0x80 } (by decide) (by decide)) (by decide)
  · exact Or.inr ⟨rfl, Nat.le_refl _⟩

theorem witness_WalkFillsTheTranslation : ((idle (kernel [])).walk (0x120000 : BitVec 64).toNat 4 ctx1.ptRoot).toOption.map (fun l => l.leafAt % 8) = some 0 ∧
    (idle (kernel [])).tlbFind 0 1 (0x120000 : BitVec 64).toNat = none ∧ (idle (kernel [])).walkStart 0 1 (0x120000 : BitVec 64).toNat ctx1.ptRoot = (4, ctx1.ptRoot) ∧
    (idle (kernel [])).walkWaits (0x120000 : BitVec 64).toNat 4 ctx1.ptRoot = false ∧ (idle (kernel [])).ctx? 1 = some ctx1 ∧ (0x120000 : BitVec 64).toNat < 2 ^ 56 := by decide +kernel
/-- A translation that the TLB of die 0 holds, and a table that is being moved. -/
theorem witness_WalkFillsTheTranslation_held :
    let e : TlbEnt := { unit := 0, ctx := 1, vbase := 0, size := 2 ^ 34, pte := 1, leafAt := 0x10000, dirty := false }
    let s : State := { idle (kernel []) with mem := { (kernel []).mem with tlb := [e] } }
    s.tlbFind 0 1 (0x120000 : BitVec 64).toNat = some e ∧ s.ctx? 77 = none ∧
      (State.walkWaits { idle (kernel []) with mem := { (kernel []).mem with migr := [{ ctx := 2, va := 0, size := 16384, old := 0x10000, new := 0x500000 }] } }
        (0x120000 : BitVec 64).toNat 4 ctx1.ptRoot) = true := by decide +kernel
theorem witness_WalkFillsTheTranslation_fails : ((idle (kernel [])).walk (0x400000000 : BitVec 64).toNat 4 ctx1.ptRoot).toOption.isNone = true ∧
    (idle (kernel [])).tlbFind 9 1 (0x400000000 : BitVec 64).toNat = none := by decide +kernel

/-- Grid 0x400 with one team to dispatch. -/
def fresh1 : Grid := { grid1 with nextTmid := 0, rcd := { rcd1 with dbars := 0 } }
/-- The machine that may dispatch it. -/
def dispatcher : State :=
  { idle (kernel []) with
    grids := [fresh1], teams := [], groups := [], dist := { State.reset.dist with entered := [(1, 0x400)] }
    dev := { (kernel []).dev with dies := .online :: List.replicate 7 .offline } }

theorem witness_TeamsAreDispatched_head : dispatcher.nextHead = some ⟨3, fresh1⟩ ∧ (dispatcher.placeStep fresh1 0).map (fun s1 => s1.dist.lastServed.length) = some 8 ∧
    dispatcher.prioOf 3 < 8 := by decide +kernel
theorem witness_TeamsAreDispatched_team : (dispatcher.dispatchTeam fresh1 ⟨2, false⟩).isSome = true ∧ dispatcher.grid? 1 0x400 = some fresh1 ∧
    dispatcher.team? ⟨1, 0x400, 0⟩ = none ∧ dispatcher.group? (.kernel 1 0x400 0 0) = none := by decide +kernel
/-- A head of the draft class and one that verifies, of one context and class, at one priority: the share keeps one. -/
def sharing : State :=
  { dispatcher with
    grids := [{ fresh1 with rcd := { rcd1 with dbars := 0, cls := 1 } }, { fresh1 with handle := 0x401, rcd := { rcd1 with dbars := 0, cls := 2, queue := 4 } }]
    dist := { dispatcher.dist with entered := [(1, 0x400), (1, 0x401)], cls := List.replicate 64 1 } }
theorem witness_TeamsAreDispatched_share : (sharing.nextHead.map Head.q) = some (if sharing.chooseDraft 1 (sharing.clsOf 3) then 3 else 4) ∧
    (sharing.head 3).isSome = true ∧ (sharing.head 4).isSome = true ∧ sharing.prioOf 3 = sharing.prioOf 4 := by decide +kernel
/-- A grid with a grid barrier, of which no team has been placed. -/
theorem witness_TeamsAreDispatched_whole : let g : Grid := { fresh1 with rcd := { rcd1 with dbars := 1 } }
    let s : State := { dispatcher with grids := [g] }
    g.rcd.dbars ≠ 0 ∧ s.grid? g.ctx g.handle.toNat = some g ∧ g.nextTmid ≤ g.rcd.teams ∧ s.savedTeams g = [] ∧ (s.placeStep g 0).isSome = true := by decide +kernel
/-- A team that stages its region of 16 bytes. -/
def stager : State :=
  { kernel [] with
    cur := none, teams := [{ team1 with phase := .staging }]
    grids := [{ grid1 with rcd := { rcd1 with regions := [⟨0x120000, 32, 16, false⟩] } }] }
theorem witness_TeamsAreDispatched_staging : ∃ x1 s1 n, stager.team? ⟨1, 0x400, 0⟩ = some { team1 with phase := .staging } ∧
    stager.grid? 1 0x400 = some { grid1 with rcd := { rcd1 with regions := [⟨0x120000, 32, 16, false⟩] } } ∧ (stager.teamGroups ⟨1, 0x400, 0⟩).head? = some (group1 (thread1 [])) ∧
    stager.stageAll (group1 (thread1 [])) { team1 with phase := .staging } [⟨0x120000, 32, 16, false⟩] 0 = (.ok s1, n) ∧ s1.team? ⟨1, 0x400, 0⟩ = some x1 ∧
    (s1.modTeam ⟨1, 0x400, 0⟩ (fun x => { x with phase := .running })).unwanted { team1 with phase := .staging } = false :=
  ⟨_, _, _, rfl, rfl, rfl, rfl, rfl, by decide⟩

/-- A grid of a queue of priority 1 that needs more tile words than the running team of priority 0 leaves. -/
def hungry : Grid := { fresh1 with handle := 0x401, rcd := { rcd1 with dbars := 0, queue := 8, tile := 0x2400000 } }
/-- The machine that starves it: one die online with one tile vault, one team on it. -/
def starved : State :=
  { idle (kernel []) with
    grids := [grid1, hungry], teams := [{ team1 with tileWords := 0x900000 }], dist := { State.reset.dist with entered := [(1, 0x401)] }
    dev := { (kernel []).dev with dies := .online :: List.replicate 7 .offline, vaultSplit := List.replicate 8 15 } }
theorem witness_TeamsAreDispatched_starvation : starved.head 8 = some hungry ∧ starved.fits hungry = false ∧ starved.noDie = false ∧ starved.noFit hungry.rcd = false := by decide +kernel
/-- The running team of priority 0 is the victim; once it is asked, its leaving would do. -/
theorem witness_TeamsAreDispatched_victim : let t : Team := { team1 with tileWords := 0x900000 }
    (starved.asSaved []).fits hungry = false ∧ (starved.asSaved []).victim (starved.prioOf 8) = some t ∧ starved.team? t.key = some t ∧ starved.victim 0 = none := by decide +kernel
/-- The die's cores are full of teams of priority 0 that take a whole shared memory each, one of them asked. -/
theorem witness_TeamsAreDispatched_asked :
    let big := { rcd1 with shared := 524288, tile := 64, dbars := 0, teams := 80 }
    let team := fun (n : Nat) => { team1 with key := ⟨1, 0x400, n⟩, core := n, tileBase := 64 * n, req := if n = 79 then some .full else none }
    let next : Grid := { fresh1 with handle := 0x401, rcd := { big with queue := 8, teams := 1 } }
    let s : State := { starved with grids := [{ grid1 with rcd := big, nextTmid := 80 }, next], teams := (List.range 80).map team }
    s.head 8 = some next ∧ s.fits next = false ∧ s.noDie = false ∧ s.noFit next.rcd = false ∧
      (s.asSaved ((s.teams.filter (fun t => t.req.isSome)).map Team.key)).fits next = true := by decide +kernel

theorem witness_GridsComplete : State.grid? { idle (kernel []) with teams := [] } 1 0x400 = some grid1 ∧ grid1.done = none ∧ grid1.nextTmid = grid1.rcd.teams ∧
    grid1.rcd.autofree = false ∧ grid1.waiters = [] ∧ (State.teams { idle (kernel []) with teams := [] }) = [] ∧
    State.recordWaits { idle (kernel []) with teams := [] } 1 grid1.rcd.compl = false := ⟨rfl, rfl, rfl, rfl, rfl, rfl, by decide +kernel⟩
/-- A queue thread waits for the grid's word. -/
theorem witness_GridsComplete_waiters :
    let g : Grid := { grid1 with waiters := [(3, 8)] }
    let q : Group := queue1 { thread1 [] with block := some .waitg }
    let s : State := { idle (kernel []) with teams := [], grids := [g], groups := [q] }
    s.grid? 1 0x400 = some g ∧ (g.waiters.map Prod.fst).Nodup ∧ g.waiters ≠ [] ∧ s.thread? (.queue 3) 0 = some { thread1 [] with block := some .waitg } ∧
      s.recordWaits 1 g.rcd.compl = false := ⟨rfl, by decide, by decide, rfl, by decide +kernel⟩
set_option maxRecDepth 4000 in
/-- The record of sixteen words goes to 0x400000, where no cache holds a line. -/
theorem witness_GridsComplete_record : ∃ s1, State.recordDirty { idle (kernel []) with teams := [] } 1 grid1.rcd.compl = (s1, some 0x400000) ∧ 0x400000 % 64 = 0 ∧ 0x400000 < hostBit ∧
    LinesOk s1 ∧ (∀ x ∈ s1.coh.copies, x.line ≠ lineOf 0x400000) ∧ ∀ x ∈ s1.coh.self, x.line ≠ lineOf 0x400000 :=
  ⟨_, rfl, by decide, by decide, ⟨(by intro x hx; cases hx), by intro x hx; cases hx⟩, (by intro x hx; cases hx), by intro x hx; cases hx⟩
/-- Copies of a dead version, and of one whose commit is still to be merged. -/
theorem witness_GridsComplete_reclaim :
    let s : State := { kernel [] with ctxs := [{ ctx1 with vers := [{ ver1 with st := .squashed }, { ver1 with tag := 2, st := .committed }], merging := [2] }] }
    s.live 1 1 = false ∧ s.commitMerging 1 1 = false ∧ s.live 1 2 = false ∧ s.commitMerging 1 2 = true := by decide
theorem witness_GridsComplete_autofree : let g : Grid := { grid1 with rcd := { rcd1 with autofree := true } }
    State.grid? { idle (kernel []) with teams := [], grids := [g] } 1 0x400 = some g ∧ g.done = none ∧ g.nextTmid = g.rcd.teams ∧ g.rcd.autofree = true := ⟨rfl, rfl, rfl, rfl⟩

/-- A grid with 16 bytes of shared memory. -/
def small1 : Grid := { grid1 with rcd := { rcd1 with shared := 16 } }

/-- A team whose thread is parked and which is asked to be saved. -/
def saver (kind : SaveKind) (parked : Bool) : State :=
  { machine1 (group1 { thread1 [] with parked := parked }) with cur := none, grids := [small1], teams := [{ team1 with req := some kind }] }

theorem witness_TeamsAreSaved : (saver .idempotent true).team? ⟨1, 0x400, 0⟩ = some { team1 with req := some .idempotent } ∧
    (saver .idempotent true).saveReady ⟨1, 0x400, 0⟩ = true ∧ (∀ m ∈ (saver .idempotent true).together ⟨1, 0x400, 0⟩, (saver .idempotent true).saveReady m = true) ∧
    (match ((saver .idempotent true).teamThrough { team1 with req := some .idempotent }).saveRecord 0 1
        (((saver .idempotent true).teamThrough { team1 with req := some .idempotent }).teamRecord { team1 with req := some .idempotent } small1 .idempotent) with
      | .ok s1 off => decide (s1.teams = (saver .idempotent true).teams) && decide (off = 0)
      | _ => false) = true := by decide +kernel
/-- A thread comes back from its record: the registers, tags and header fields of R32, its TRIT trap. -/
theorem test_record_reads_back :
    let t : Thread := { thread1 [(0, ⟨7, .int⟩), (5, ⟨0x3F800000, .flt⟩), (239, ⟨9, .nat⟩), (0xF1, ⟨3, .nat⟩), (0xF8, ⟨4, .stat⟩)] with
      inHandler := true, rndm := 5, flags := 3, trapPc := 0x44, trapCause := 0x0102, trapVal := 0x1_0000_0002
      attr := [⟨⟨.trit, 0, 0x80000017, .attributed⟩, 0x40, [5], false, 5⟩] }
    ({ thread1 [] with trapPc := 0x44 }).fromRecord 16 .full (fun i => (t.record 16 .full 0x48)[i]?) = { t with pc := 0x48 } := by decide +kernel

/-- A saved team of a grid without grid barriers. -/
def mover : State := { kernel [] with cur := none, groups := [], grids := [{ grid1 with rcd := { rcd1 with dbars := 0 } }], teams := [{ team1 with phase := .saved .full, frozen := [group1 (thread1 [])] }] }
theorem witness_TeamsAreMoved : mover.team? ⟨1, 0x400, 0⟩ = some { team1 with phase := .saved .full, frozen := [group1 (thread1 [])] } ∧
    mover.together ⟨1, 0x400, 0⟩ = [⟨1, 0x400, 0⟩] ∧ mover.online 1 = true ∧ team1.die ≠ 1 ∧
    ∃ p ∈ mover.oldSpots { team1 with phase := .saved .full, frozen := [group1 (thread1 [])] } { rcd1 with dbars := 0 }, p.die = 1 := by decide +kernel
/-- Two saved teams of a grid with a grid barrier, one of them on die 1 already. -/
def movers : State :=
  { kernel [] with
    cur := none, groups := [], grids := [{ grid1 with rcd := { rcd1 with teams := 2, tile := 64 }, nextTmid := 2 }]
    teams := [{ team1 with phase := .saved .full }, { team1 with key := ⟨1, 0x400, 1⟩, phase := .saved .full, die := 1, core := 82 }] }
theorem witness_TeamsAreMoved_whole : movers.team? ⟨1, 0x400, 0⟩ = some { team1 with phase := .saved .full } ∧ movers.online 1 = true ∧
    movers.together ⟨1, 0x400, 0⟩ = [⟨1, 0x400, 0⟩, ⟨1, 0x400, 1⟩] ∧
    (∀ m ∈ movers.together ⟨1, 0x400, 0⟩, ((movers.team? m).map (fun y => decide (y.phase = .saved .full))) = some true) ∧
    State.roomOn 1 (((movers.together ⟨1, 0x400, 0⟩).filterMap movers.team?).filter (fun y => decide (y.die ≠ 1))) movers = true := by decide +kernel
/-- A saved team of die 0, which is going offline, beside a running one, which may go to die 1. -/
def crammed : State :=
  { kernel [] with
    cur := none, grids := [{ grid1 with rcd := { rcd1 with dbars := 0, teams := 2 }, nextTmid := 2 }]
    dev := { (kernel []).dev with dies := .goingOffline :: List.replicate 7 .online }
    teams := [team1, { team1 with key := ⟨1, 0x400, 1⟩, phase := .saved .full }] }
theorem witness_TeamsAreMoved_asked : crammed.team? ⟨1, 0x400, 0⟩ = some team1 ∧ team1.phase = .running ∧ team1.req = none ∧
    crammed.online 1 = true ∧ team1.die ≠ 1 ∧
    State.roomOn 1 (((crammed.together ⟨1, 0x400, 0⟩).filterMap crammed.team?).filter (fun y => decide (y.die ≠ 1))) crammed = true ∧
    crammed.overfull 0 = true := by decide +kernel
theorem witness_DeferralEnds : (saver .idempotent false).team? ⟨1, 0x400, 0⟩ = some { team1 with req := some .idempotent } ∧ (saver .idempotent false).ctx? 1 = some ctx1 ∧
    (saver .idempotent false).allParked ⟨1, 0x400, 0⟩ = false ∧ ctx1.preempt.getLsbD 16 = false := ⟨rfl, rfl, by decide, by decide⟩
theorem witness_HandlerSaveEnds : (saver .handler false).team? ⟨1, 0x400, 0⟩ = some { team1 with req := some .handler } ∧ team1.phase = .running ∧
    (saver .handler false).teamGroups ⟨1, 0x400, 0⟩ = [group1 (thread1 [])] ∧ (saver .handler false).group? (.kernel 1 0x400 0 0) = some (group1 (thread1 [])) :=
  ⟨rfl, rfl, rfl, rfl⟩

/-- A page of 16 KiB on its way from 0x400000 to 0x500000. -/
def migr1 : Migr := { ctx := 1, va := 0x400000, size := 16384, old := 0x400000, new := 0x500000 }
/-- The machine with it. -/
def migrating : State := { idle (kernel []) with mem := { (kernel []).mem with migr := [migr1] } }

theorem witness_MigrationMovesALine : migrating.migrOf 1 0x400000 = some migr1 ∧ Store.get false migr1.there migr1.next = false ∧ 128 * (migr1.next + 1) < migr1.size ∧
    migrating.migrReady 0x400000 false = true ∧ migrating.migrReady 0x500000 true = true ∧ migrating.lock? 0x400000 = none ∧ migrating.coh.copies = [] ∧ migrating.coh.self = [] ∧
    migr1.running = true ∧ migr1.toNew = true ∧ migrating.lineBad 0x400000 = false := ⟨rfl, rfl, by decide, by decide, by decide, rfl, rfl, rfl, rfl, rfl, by decide⟩

/-! Coherence. -/

/-- A load or a store of die 0 to a word of a DIR line. -/
def dirAcc : Acc := { loc := .global 0x400000, coh := .dir }
/-- The machine in which a thread of die 0 waits for that line. -/
def asker (kind : PendKind) (dir : List DirEnt) (copies : List DieCopy) : State :=
  { idle (kernel rmem) with pends := [{ pend1 kind [] with core := 2 }], next := 6, coh := { dir := dir, copies := copies } }

theorem witness_HomeServesRequests_rds : ∀ e ∈ [(⟨0x400000, .i, none, [], none, []⟩ : DirEnt), ⟨0x400000, .s, none, [3], none, []⟩, ⟨0x400000, .e, some 3, [], none, []⟩, ⟨0x400000, .m, some 3, [], none, []⟩,
    ⟨0x400000, .o, some 3, [5], none, []⟩],
    Wants (asker (.load [dirAcc]) [e] []) 0 0x400000 false false ∧ (asker (.load [dirAcc]) [e] []).coh.entry 0x400000 = e := by
  intro e he
  simp only [List.mem_cons, List.not_mem_nil, or_false] at he
  rcases he with h | h | h | h | h <;> subst h <;> exact ⟨⟨by decide, rfl, Coh.dirRoom_of_few _ _ (by decide), by decide, rfl⟩, rfl⟩
theorem witness_HomeServesRequests_rdx : ∀ e ∈ [(⟨0x400000, .i, none, [], none, []⟩ : DirEnt), ⟨0x400000, .s, none, [3], none, []⟩, ⟨0x400000, .e, some 3, [], none, []⟩, ⟨0x400000, .m, some 3, [], none, []⟩,
    ⟨0x400000, .o, some 3, [5], none, []⟩],
    Wants (asker (.store [(dirAcc, 9)] none) [e] []) 0 0x400000 true false ∧ (asker (.store [(dirAcc, 9)] none) [e] []).coh.entry 0x400000 = e := by
  intro e he
  simp only [List.mem_cons, List.not_mem_nil, or_false] at he
  rcases he with h | h | h | h | h <;> subst h <;> exact ⟨⟨by decide, rfl, Coh.dirRoom_of_few _ _ (by decide), by decide, rfl⟩, rfl⟩
/-- A host half of which the device holds a shared copy. -/
theorem witness_HomeServesRequests_host :
    let s : State := { asker (.load [{ dirAcc with loc := .global (2 ^ 51) }]) [] [] with coh := { halves := [⟨2 ^ 51 / 64, .s, []⟩] } }
    Wants s 0 (2 ^ 51) false false ∧ s.lineIs (2 ^ 51) .i none [] ∧ s.unitExcl (2 ^ 51) = false :=
  ⟨⟨by decide, rfl, Coh.dirRoom_of_few _ _ (by decide), by decide, rfl⟩, rfl, by decide⟩
theorem witness_HomeServesRequests_upg :
    let c : DieCopy := { die := 0, line := 0x400000, st := .s, words := [] }
    let e : DirEnt := ⟨0x400000, .s, none, [0, 3], none, []⟩
    Wants (asker (.store [(dirAcc, 9)] none) [e] [c]) 0 0x400000 true true ∧ (asker (.store [(dirAcc, 9)] none) [e] [c]).coh.copy? 0 0x400000 = some c ∧
      (asker (.store [(dirAcc, 9)] none) [e] [c]).coh.entry 0x400000 = e := ⟨⟨by decide, rfl, Coh.dirRoom_of_few _ _ (by decide), by decide, rfl⟩, rfl, rfl⟩
/-- The die owns the line in O, another shares it. -/
theorem witness_HomeServesRequests_upg_owner :
    let c : DieCopy := { die := 0, line := 0x400000, st := .o, words := [] }
    let e : DirEnt := ⟨0x400000, .o, some 0, [3], none, []⟩
    Wants (asker (.store [(dirAcc, 9)] none) [e] [c]) 0 0x400000 true true ∧ (asker (.store [(dirAcc, 9)] none) [e] [c]).coh.copy? 0 0x400000 = some c ∧
      (asker (.store [(dirAcc, 9)] none) [e] [c]).coh.entry 0x400000 = e := ⟨⟨by decide, rfl, Coh.dirRoom_of_few _ _ (by decide), by decide, rfl⟩, rfl, rfl⟩
theorem witness_HomeServesRequests_busy : let e : DirEnt := ⟨0x400000, .m, some 3, [], some 3, []⟩
    Wants (asker (.load [dirAcc]) [e] []) 0 0x400000 false false ∧ ((asker (.load [dirAcc]) [e] []).coh.entry 0x400000).busy = some 3 ∧ ((asker (.load [dirAcc]) [e] []).coh.entry 0x400000).line = 0x400000 :=
  ⟨⟨by decide, rfl, Coh.dirRoom_of_few _ _ (by decide), by decide, rfl⟩, rfl, rfl⟩

/-- A state with one copy and one entry for a line. -/
def lined (e : DirEnt) (c : DieCopy) : State := { idle (kernel []) with coh := { dir := [e], copies := [c] } }

theorem witness_DiesGiveUpLines_dirty : let c : DieCopy := { die := 3, line := 0x400000, st := .m, words := [(0, 7)] }
    let s := lined ⟨0x400000, .m, some 3, [], none, []⟩ c
    s.coh.busy 0x400000 = false ∧ s.coh.copy? 3 0x400000 = some c ∧ s.coh.miss = [] ∧ s.coh.msgs = [] ∧ 0x400000 % 128 = 0 ∧ 0x400000 < hostBit :=
  ⟨rfl, rfl, rfl, rfl, by decide, by decide⟩
/-- The owner of a line in O whose sharers remain. -/
theorem witness_DiesGiveUpLines_shared : let c : DieCopy := { die := 3, line := 0x400000, st := .o, words := [(0, 7)] }
    let s := lined ⟨0x400000, .o, some 3, [5], none, []⟩ c
    (s.coh.entry 0x400000).owner = some 3 ∧ (s.coh.entry 0x400000).sharers = [5] ∧ 3 ∉ [5] ∧ (∀ y ∈ s.coh.copies, y.line = 0x400000 → y.st ≠ .s → y.die = 3) := ⟨rfl, rfl, by decide, by decide⟩
theorem witness_DiesGiveUpLines_clean : let c : DieCopy := { die := 3, line := 0x400000, st := .s, words := [(0, 7)] }
    let s := lined ⟨0x400000, .s, none, [3], none, []⟩ c
    s.coh.busy 0x400000 = false ∧ s.coh.copy? 3 0x400000 = some c ∧ c.st ≠ .m ∧ c.st ≠ .o ∧ (s.coh.entry 0x400000).st ≠ .i := ⟨rfl, rfl, by decide, by decide, by decide⟩

/-- A line that is back-invalidated, its BINV on the way to die 3. -/
theorem witness_DiesGiveUpLines_binv : let c : DieCopy := { die := 3, line := 0x400000, st := .m, words := [(0, 7)] }
    let m : Msg := { kind := .binv, die := 3, line := 0x400000 }
    let s : State := { idle (kernel []) with coh := { dir := [⟨0x400000, .m, some 3, [], some 8, []⟩], copies := [c], msgs := [m] } }
    s.coh.copy? 3 0x400000 = some c ∧ s.msg? .binv 3 0x400000 = some m ∧ s.stale m = false ∧ (s.coh.entry 0x400000).busy = some 8 ∧ s.coh.miss = [] ∧
      (∀ e ∈ s.coh.dir, e.waiting = []) ∧ s.coh.broken = [] ∧ ∀ y ∈ s.coh.msgs.erase m, y.kind = .binv → y.line ≠ 0x400000 := ⟨rfl, rfl, rfl, rfl, rfl, by decide, rfl, by decide⟩
/-- With another die's BINV still under way. -/
theorem witness_DiesGiveUpLines_binv_first :
    let m : Msg := { kind := .binv, die := 3, line := 0x400000 }
    ∃ y ∈ [m, { m with die := 5 }].erase m, y.kind = .binv ∧ y.line = 0x400000 := by decide

/-- A message for die 3 about a line, its entry, a copy and a request in progress. -/
def posted (m : Msg) (e : DirEnt) (copies : List DieCopy) (miss : List Miss) : State :=
  { idle (kernel []) with coh := { dir := [e], copies := copies, miss := miss, msgs := [m] } }
/-- A message of die 8, the base dies, which have no incarnation. -/
def msg1 (kind : MsgKind) (grant : DirSt) (acks : Nat) : Msg := { kind := kind, die := 3, line := 0x400000, req := 5, grant := grant, acks := acks }
/-- The line is in die 3's hands and busy for die 5. -/
def busy5 : DirEnt := ⟨0x400000, .m, some 3, [], some 5, []⟩

theorem witness_MessagesAreAnswered_forward : ∀ k ∈ [MsgKind.fwdS, .fwdX, .inv], let s := posted (msg1 k .i 0) busy5 [{ die := 3, line := 0x400000, st := .e, words := [] }] []
    Arrives s (msg1 k .i 0) ∧ s.coh.copy? 3 0x400000 = some { die := 3, line := 0x400000, st := .e, words := [] } := by
  intro k hk
  simp only [List.mem_cons, List.not_mem_nil, or_false] at hk
  rcases hk with h | h | h <;> subst h <;> exact ⟨⟨rfl, rfl⟩, rfl⟩
/-- DATA that needs no acknowledgement, and one more than have come. -/
theorem witness_MessagesAreAnswered_data : ∀ n ∈ [0, 1], let s := posted (msg1 .data .e n) busy5 [] [⟨3, 0x400000, false, none, none, 0, false, 0⟩]
    Arrives s (msg1 .data .e n) ∧ s.missAt 3 0x400000 ⟨3, 0x400000, false, none, none, 0, false, 0⟩ := by
  intro n hn
  simp only [List.mem_cons, List.not_mem_nil, or_false] at hn
  rcases hn with h | h <;> subst h <;> exact ⟨⟨rfl, rfl⟩, rfl⟩
theorem witness_MessagesAreAnswered_invack : let s := posted (msg1 .invack .i 0) busy5 [] [⟨3, 0x400000, true, some (.m, []), some 1, 0, false, 0⟩]
    Arrives s (msg1 .invack .i 0) ∧ s.missAt 3 0x400000 ⟨3, 0x400000, true, some (.m, []), some 1, 0, false, 0⟩ := ⟨⟨rfl, rfl⟩, rfl⟩
theorem witness_MessagesAreAnswered_invack_early : let s := posted (msg1 .invack .i 0) busy5 [] [⟨3, 0x400000, true, none, none, 0, false, 0⟩]
    Arrives s (msg1 .invack .i 0) ∧ s.missAt 3 0x400000 ⟨3, 0x400000, true, none, none, 0, false, 0⟩ := ⟨⟨rfl, rfl⟩, rfl⟩
theorem witness_MessagesAreAnswered_fack : let s := posted (msg1 .fack .o 0) busy5 [] []
    Arrives s (msg1 .fack .o 0) ∧ s.coh.msgs.find? (fun x => decide (x.kind = .fack) && decide (x.line = 0x400000)) = some (msg1 .fack .o 0) ∧ DirSt.o ≠ .s ∧ (s.coh.entry 0x400000).line = 0x400000 :=
  ⟨⟨rfl, rfl⟩, rfl, by decide, rfl⟩
theorem witness_MessagesAreAnswered_fack_shared : let s := posted (msg1 .fack .s 0) busy5 [] []
    Arrives s (msg1 .fack .s 0) ∧ s.coh.msgs.find? (fun x => decide (x.kind = .fack) && decide (x.line = 0x400000)) = some (msg1 .fack .s 0) ∧ (s.coh.entry 0x400000).line = 0x400000 :=
  ⟨⟨rfl, rfl⟩, rfl, rfl⟩
theorem witness_MessagesAreAnswered_done : let s := posted (msg1 .done .i 0) busy5 [{ die := 3, line := 0x400000, st := .m, words := [], cores := [242] }] []
    s.coh.broken = [] ∧ (∃ x, s.coh.copy? 3 0x400000 = some x ∧ x.cores ≠ []) ∧ Arrives s (msg1 .done .i 0) ∧ s.doneReady 3 0x400000 = true ∧ (s.coh.entry 0x400000).st ≠ .i ∧ (∀ e ∈ s.coh.dir, e.waiting = []) ∧ (s.coh.entry 0x400000).line = 0x400000 :=
  ⟨rfl, ⟨_, rfl, by decide⟩, ⟨rfl, rfl⟩, by decide, by decide, by decide, rfl⟩

/-- The device holds a half of a host line, modified. -/
def half1 : Nat := 2 ^ 51 / 64
/-- The machine with it. -/
def halved : State := { idle (kernel []) with coh := { halves := [⟨half1, .m, [(0, 7)]⟩] }, dev := { (kernel []).dev with hostBytes := 2 ^ 20, hostPorts := [0], ports := { Port.down with up := true } :: List.replicate 23 Port.down } }

/-- Its host port's word of it, and one of an earlier incarnation. -/
theorem witness_HostReachesItsHalves_says : HostSays halved ⟨half1, 0⟩ ∧ halved.hostPort (64 * half1 % 2 ^ 51) = some 0 ∧ (nth halved.dev.ports 0 Port.down).inc ≠ 1 :=
  ⟨⟨0, rfl, rfl⟩, rfl, by decide⟩
theorem witness_HostReachesItsHalves_snoop : halved.coh.held half1 = some ⟨half1, .m, [(0, 7)]⟩ ∧ halved.coh.self = [] ∧ halved.coh.copies = [] ∧ halved.coh.busy (64 * half1) = false ∧ halved.hostHalf half1 = true := ⟨rfl, rfl, rfl, rfl, by decide⟩
/-- With words that an L1 has written there. -/
theorem witness_HostReachesItsHalves_self : ∃ x : SelfLine, x.line = lineOf (64 * half1) ∧ x.dirty.getLsbD 0 = true ∧
    (State.coh { halved with coh := { halved.coh with self := [x] } }).self = [x] ∧ hostBit ≤ 64 * half1 := ⟨{ core := 2, line := lineOf (64 * half1), valid := 1, dirty := 1, words := [] }, rfl, by decide, rfl, by decide⟩
theorem witness_HostReachesItsHalves_grant :
    let s : State := { idle (queue []) with dev := { (queue []).dev with hostBytes := 2 ^ 20, hostPorts := [0], ports := { Port.down with up := true } :: List.replicate 23 Port.down } }
    s.hostPort (64 * half1 % 2 ^ 51) = some 0 ∧ (nth s.dev.ports 0 Port.down).inc = 0 ∧ s.hostHalf half1 = true ∧ s.halfWanted half1 true = true ∧ s.halfWanted half1 false = true ∧ s.coh.held half1 = none ∧ half1 ∉ s.mem.lost ∧
      s.coh.dirtyWords (64 * half1) = none ∧ (s.coh.entry (64 * half1)).waiting = [] ∧ s.coh.busy (64 * half1) = false ∧ s.coh.asks = [] := by decide
/-- The last word of device memory. -/
theorem witness_HostReachesItsHalves_access : halved.hostFresh ⟨0, 0, 2 ^ 39 - 4⟩ = true ∧ (nth halved.dev.ports 0 Port.down).inc ≠ 1 ∧ (2 ^ 39 - 4) % 4 = 0 ∧ 2 ^ 39 - 4 + 4 ≤ 2 ^ 39 ∧ (idle (kernel [])).lineHeld (2 ^ 39 - 4) = false ∧
    (idle (kernel [])).dev.ready = true ∧ (idle (kernel [])).fwd (2 ^ 39 - 4) < 2 ^ 39 ∧ (idle (kernel [])).fwd (2 ^ 39 - 4) % 4 = 0 :=
  ⟨by decide, by decide, by decide, by decide, by decide, rfl, by decide, by decide⟩

/-! Peers and links. -/

/-- The machine with a UALink port to peers 1 and 2 and a tag open for peer 1. -/
def linked : State :=
  { idle (kernel []) with
    dev := { (kernel []).dev with ports := List.replicate 8 Port.down ++ [⟨true, 4, 200, [(1, 1), (2, 1)], 0, [1, 2]⟩] ++ List.replicate 15 Port.down }
    peer := { State.reset.peer with opened := [⟨1, 1, 7⟩], openSent := [(1, 1, 7)], commitSent := [(1, 1, 7)] }, ctxs := [{ ctx1 with vers := [{ ver1 with tag := 7, st := .committed, awaiting := [1] }] }] }

/-- A message of peer 1 as it is now, and one of an earlier incarnation of peer 2. -/
theorem witness_PeersReachThisMemory_sender : Current linked ⟨1, 0⟩ ∧ ¬Current linked ⟨2, 1⟩ := ⟨rfl, by unfold Current; decide⟩
theorem witness_PeersReachThisMemory : ∃ s1, linked.remoteOk 1 0x400000 = true ∧ linked.fwd 0x400000 < peerBit ∧ linked.coh.copies = [] ∧ linked.tagOpen 1 1 7 = true ∧
    linked.tagOpen 1 1 8 = false ∧ linked.reserve (some 1) 1 7 (lineOf 0x400000) = some s1 ∧ aopTag .add .int = true ∧ linked.marked 0x400000 = false ∧
    linked.viewPoison (some 1) 1 [8] 0x400000 = false :=
  ⟨_, by decide, by decide, rfl, by decide, by decide, rfl, by decide, by decide, by decide⟩
theorem witness_NoticesOpenAndCloseTags : (1, 1, 7) ∈ linked.peer.openSent ∧ (1, 1, 7) ∈ linked.peer.commitSent ∧
    linked.ctx? 1 = some { ctx1 with vers := [{ ver1 with tag := 7, st := .committed, awaiting := [1] }] } ∧
    Ctx.ver? { ctx1 with vers := [{ ver1 with tag := 7, st := .committed, awaiting := [1] }] } 7 = some { ver1 with tag := 7, st := .committed, awaiting := [1] } := ⟨by decide, by decide, rfl, rfl⟩
theorem witness_NoticesOpenAndCloseTags_copy : ∃ c : LineCopy, c = { ctx := 1, tag := 7, line := 0x400000, mask := 1, words := [(0, 5)], pool := true, src := some 1 } ∧ c.line % 128 = 0 ∧ c.line < peerBit ∧
    (State.mem { linked with mem := { linked.mem with copies := [c] } }).copies = [c] := ⟨_, rfl, by decide, by decide, rfl⟩

/-- The commit of version 7 waits for peer 1 alone; a store of a squashed version is on its way to peer 1. -/
theorem witness_NoticesOpenAndCloseTags_last :
    let s : State := { linked with
      ctxs := [{ ctx1 with vers := [{ ver1 with tag := 7, st := .committed, awaiting := [1] }], merging := [7] }], peer := { linked.peer with lateStores := [(1, 1, 3)] } }
    (∃ c, s.ctx? 1 = some c ∧ (7 : Tag16) ∈ c.merging ∧ ∃ x, c.ver? 7 = some x ∧ ∀ m ∈ x.awaiting, m = 1) ∧ s.lateStore? ⟨⟨1, 0⟩, 1⟩ = some (1, 1, 3) ∧ Current s ⟨1, 0⟩ :=
  ⟨⟨_, rfl, by decide, _, rfl, by decide⟩, rfl, rfl⟩

/-- A load of a peer's word. -/
def peerLoad : Pend := { pend1 (.load [{ loc := .global (2 ^ 50) }]) [(8, .int)] with peer := some 1 }
theorem witness_LinksFailAndTrain_refuse : let s : State := { linked with pends := [peerLoad], next := 6, groups := [group1 (thread1 rmem)] }
    s.pends.find? (fun q => decide (q.id = peerLoad.id)) = some peerLoad ∧ s.thread? peerLoad.key 0 = some (thread1 rmem) ∧ (thread1 rmem).exited = false ∧ (∀ x ∈ s.teams, x.phase ≠ .retired) ∧
      s.pends.any (s.toPeer 1) = true := ⟨rfl, rfl, rfl, by decide, by decide⟩
theorem witness_LinksFailAndTrain_down : let s : State := { linked with dev := { linked.dev with ports := ⟨true, 4, 200, [], 0, []⟩ :: List.replicate 23 Port.down } }
    0 < s.dev.ports.length ∧ (s.port 0).up = true ∧ s.roomForEvent ∧ (s.port 0).peers = [] := ⟨by decide, rfl, by unfold State.roomForEvent; decide, rfl⟩
/-- Four lanes are the most of a UALink port, sixteen of a CXL port. -/
theorem witness_LinksFailAndTrain_train : 23 < 24 ∧ (4 : BitVec 6).toNat ≤ (if 23 < 8 then 16 else 4) ∧ (if 23 < 8 then 16 else 4) < (5 : BitVec 6).toNat ∧
    (16 : BitVec 6).toNat ≤ (if 7 < 8 then 16 else 4) ∧ linked.dev.ports.length = 24 ∧ (linked.port 23).up = false ∧ linked.roomForEvent ∧ linked.dev.boot = 5 :=
  ⟨by decide, by decide, by decide, by decide, by decide, rfl, by unfold State.roomForEvent; decide, rfl⟩
theorem witness_LinksFailAndTrain_hop : 7 < 8 ∧ linked.dieSt 7 ≠ .offline ∧ linked.thread? (.kernel 1 0x400 0 0) 0 = some (thread1 []) ∧ blockSound none = false :=
  ⟨by decide, by decide, rfl, rfl⟩
/-- A block of sixteen equal values is sound; one with a reserved bit set is a breach (R58). -/
theorem witness_LinksFailAndTrain_block : (expandBlock (compressBlock (List.replicate 16 0x3F800000))).isSome = true ∧ blockSound (some [0, 0x10]) = false :=
  ⟨by rw [expandBlock_compressBlock _ (by simp)]; rfl, by decide⟩
theorem witness_LinksFailAndTrain_errors : linked.dev.softErrors ≠ 0xFFFFFFFF ∧ linked.coh.copies = [] ∧ linked.group? (.kernel 1 0x400 0 0) = some (group1 (thread1 [])) ∧
    allocated (group1 (thread1 [])).nregs 5 = true ∧ 5 ∉ (thread1 []).parity := ⟨by decide, rfl, rfl, by decide, by decide⟩

/-- v6 to v9 hold the DIEOP operands: query of die 7, offline of die 0, online of die 0. -/
def rdie : Store Reg := ints [(6, 7), (7, 0x10), (9, 0x20)]
/-- The machine with no team, and die 0 in a state. -/
def died (st : DieSt) : State := { queue rdie with teams := [], groups := [queue1 (thread1 rdie)], grids := [], dev := { (queue rdie).dev with dies := st :: List.replicate 7 .online } }

theorem witness_DieopAnswers : ∀ r ∈ [(6 : Sel), 7, 9], ∀ st ∈ [DieSt.online, .offline], Settled (.dieop 8 r) (died st) (queue1 (thread1 rdie)) (thread1 rdie) ∧
    (View.val ⟨queue1 (thread1 rdie), thread1 rdie⟩ r).toNat < 64 ∧ (View.val ⟨queue1 (thread1 rdie), thread1 rdie⟩ r).toNat / 8 % 2 = 0 := by
  intro r hr st hs
  simp only [List.mem_cons, List.not_mem_nil, or_false] at hr hs
  rcases hr with h | h | h <;> rcases hs with h' | h' <;> subst h <;> subst h' <;>
    exact ⟨⟨⟨⟨_, rfl, rfl, rfl⟩, _, _, rfl, by decide, by decide⟩, rfl, rfl, by decide⟩, by decide, by decide⟩
theorem witness_DieopStates : (died .online).dieSt 0 = .online ∧ (∃ m ∈ (died .online).onlineDies, m ≠ 0) ∧ 0 < (died .online).dev.dies.length ∧ (died .online).teams = [] ∧
    (died .offline).dieSt 0 = .offline := ⟨rfl, by decide, by decide, rfl, rfl⟩
theorem witness_DiesLeaveAndReturn : (died .goingOffline).dieSt 0 = .goingOffline ∧ (died .goingOffline).dieQuiet 0 = true ∧ (died .comingOnline).dieSt 0 = .comingOnline ∧
    (died .comingOnline).roomForEvent ∧ (∀ g ∈ (died .comingOnline).grids, g.done.isSome = true) ∧ 0 < (died .online).dev.dieInc.length ∧ (died .online).dieSt 0 ≠ .offline ∧ 0 < (died .online).dev.heatmap.length :=
  ⟨rfl, by decide, rfl, by unfold State.roomForEvent; decide, by decide, by decide, by decide, by decide⟩

/-- Die 0 on its way out holds an allocation of a saved team in its vault 0, of which no block, or one block, has been moved to vault 0 of die 1. -/
def leaving (l : List VaultMove) : State :=
  { died .goingOffline with
    teams := [{ team1 with core := 80, die := 1, tileWords := 64, phase := .running }], groups := [], mem := { (queue rdie).mem with vaults := l } }
theorem witness_DiesLeaveAndReturn_evacuation :
    (leaving []).dieSt 0 = .goingOffline ∧ (leaving []).dieQuiet 0 = true ∧ (∀ t ∈ (leaving []).teams, t.die = 0 → t.resident = false) ∧
      (leaving []).vaultLeft 0 = some (0, ⟨0, 0, 0, 2 ^ 24⟩) ∧ ((leaving []).vaultDest 0).isSome = true ∧ (died .goingOffline).evacStep 0 = none := by
  decide +kernel
theorem witness_DiesLeaveAndReturn_block : let v : VaultMove := ⟨0, 0, 0, 0, 1, 0, 1⟩
    (leaving [v]).dieQuiet 0 = true ∧ (leaving [v]).mem.vaults.find? (fun v => v.going && decide (v.fromDie = 0)) = some v ∧ v.fromVault < 16 ∧ v.toVault < 16 ∧
      (v.fromDie, v.fromVault) ≠ (v.toDie, v.toVault) ∧ (leaving [v]).vaultMove? 32 = some v := by decide +kernel

/-! The platform. -/

theorem witness_BootAndMailbox : (State.dev { State.reset with dev := { State.reset.dev with boot := 0xF } }).boot = 0xF ∧ State.reset.dev.boot ≠ 0xF ∧ (kernel []).dev.boot = 5 ∧
    State.reset.dev.fatal = false ∧ State.reset.dev.boot = 1 ∧ 8 < State.reset.dev.hops.length ∧ (∀ b ∈ [(2 : BitVec 4), 3, 4], (State.dev { State.reset with dev := { State.reset.dev with boot := b } }).boot = b) :=
  ⟨rfl, by decide, rfl, rfl, rfl, by decide, by decide⟩
/-- Seven dies pass their self-test, one fails. -/
theorem witness_BootAndMailbox_die : (∀ i, i < 8 → (0x7F : DWord).getLsbD i = decide (i ≠ 7)) ∧ State.reset.roomForEvent := ⟨by decide, by unfold State.roomForEvent; decide⟩

/-- A command block at 0x600000: its operation and context in the first word, then a create command's
fields (R376). -/
def blocked (c : Ctx) (op : Word) : State :=
  { idle (queue []) with
    ctxs := [c], teams := [], groups := [], grids := []
    mem := { (queue []).mem with ram := (queue []).mem.ram.writeWords 0x600000 [op, 0, 0x10000, 0, 0x200000, 0, 0x100000, 0, 0x300000, 0, 64, 0x40008, 0x100000, 0, 0, 0] } }

theorem witness_ContextCommands_create : (blocked ctx1 1).blockOk 0x600000 1 = true ∧ createBad ((blocked ctx1 1).blockWords 0x600000) = false ∧
    (blocked ctx1 1).freeId = some 0 ∧ (blocked ctx1 1).roomForEvent := ⟨by decide, by decide, by decide, by unfold State.roomForEvent; decide⟩
theorem witness_ContextCommands_teardown : BlockFor (blocked ctx1 0x10002) 0x600000 2 ctx1 := ⟨by decide, rfl, by unfold State.roomForEvent; decide⟩
theorem witness_ContextCommands_switchOut : BlockFor (blocked ctx1 0x10003) 0x600000 3 ctx1 ∧ ctx1.status = .active := ⟨⟨by decide, rfl, by unfold State.roomForEvent; decide⟩, rfl⟩
theorem witness_ContextCommands_switchIn : BlockFor (blocked { ctx1 with status := .out } 0x10004) 0x600000 4 { ctx1 with status := .out } :=
  ⟨by decide, rfl, by unfold State.roomForEvent; decide⟩
theorem witness_ContextCommands_done : (blocked { ctx1 with status := .tearing 0x600000 } 0).ctx? 1 = some { ctx1 with status := .tearing 0x600000 } ∧
    (blocked { ctx1 with status := .switchingOut 0x600000 } 0).queueRuns 1 = false ∧ (blocked { ctx1 with status := .switchingOut 0x600000 } 0).teamsSaved 1 = true ∧
    0x600000 % 64 = 0 ∧ 0x600000 + 64 ≤ 2 ^ 39 := ⟨rfl, by decide, by decide, by decide, by decide⟩

/-- A switch-out that waits: for its queue threads' instructions, for its teams. -/
theorem witness_ContextCommands_waits :
    let c : Ctx := { ctx1 with status := .switchingOut 0x600000 }
    let s : State := { blocked c 0 with pends := [{ pend1 (.load []) [] with key := .queue 3 }], dev := { (queue []).dev with qtctl := List.replicate 64 ⟨.running, true, 16, 1, 0x200⟩ } }
    s.queueRuns 1 = true ∧ s.slotsQuiet 1 = false ∧ State.teamsSaved { blocked c 0 with teams := [team1] } 1 = false := by decide

/-- A start of a privileged thread of context 1 with N 16 at offset 0x200. -/
def start1 : DWord := 0x0C10000100000200

theorem witness_HostControlsThePart_start : (blocked ctx1 0).startOk 63 (qtOf start1 .running) = true ∧ 63 < (blocked ctx1 0).dev.qtctl.length := by decide
theorem witness_HostControlsThePart_stop : let s : State := { queue [] with dev := { (queue []).dev with qtctl := List.replicate 64 ⟨.running, true, 16, 1, 0x200⟩ } }
    3 < s.dev.qtctl.length ∧ (s.qt 3).st = .running := by decide
theorem witness_HostControlsThePart_fields : (blocked ctx1 0).dev.ready = true ∧ ((blocked ctx1 0).qt 0).st = .idle ∧ (blocked ctx1 0).dist.prio.length = 64 ∧
    (blocked ctx1 0).dist.cls.length = 64 := by decide
theorem witness_HostControlsThePart_width : (4 ≠ 8 ∨ 0x200 % 8 ≠ 0) ∧ (8 ≠ 8 ∨ 0x204 % 8 ≠ 0) := by decide
theorem witness_HostControlsThePart_event :
    let s : State := { idle (queue []) with dev := { (queue []).dev with
      heldEvents := [(⟨2, 0, 0, 0⟩, 1)], evqBase := 0x1000, hostBytes := 2 ^ 20, hostPorts := [0], ports := { Port.down with up := true } :: List.replicate 23 Port.down } }
    s.dev.heldEvents = [(⟨2, 0, 0, 0⟩, 1)] ∧ s.ringRoom = true ∧ s.coh.halves = [] := ⟨rfl, by decide, rfl⟩
/-- An entry that leaves its vector unmasked, while a message of it is pending, and one that masks it. -/
theorem witness_HostControlsThePart_vector : 2047 < 2048 ∧ (⟨0xFEE00000, 7, false⟩ : MsixEntry).masked = false ∧ MsixEntry.reset.masked = true ∧
    2047 ∈ (State.dev { queue [] with dev := { (queue []).dev with msixPending := [2047] } }).msixPending := by decide

end Sys2Proof.Tests
end

