-- ==== Sys2Proof/Proofs/Selectors.lean ====
section
/-! Operand selectors: the special operands, the registers a result reaches, the destinations that R71 check 4
refuses, and the value sources that pass R19. -/

namespace Sys2Proof.Machine

/-! The special operands (R15). -/

@[simp] theorem View.reg_zero (v : View) : v.reg 0xF9 = ⟨0, .int⟩ := rfl
@[simp] theorem View.reg_tid (v : View) : v.reg 0xFA = ⟨BitVec.ofNat 32 v.t.tid, .nat⟩ := rfl
@[simp] theorem View.reg_lane (v : View) : v.reg 0xFB = ⟨BitVec.ofNat 32 v.t.lane, .nat⟩ := rfl
@[simp] theorem View.reg_gid (v : View) : v.reg 0xFC = ⟨BitVec.ofNat 32 v.g.key.gid, .nat⟩ := rfl
@[simp] theorem View.reg_tmid (v : View) : v.reg 0xFD = ⟨BitVec.ofNat 32 v.g.key.tmid, .nat⟩ := rfl
@[simp] theorem View.reg_vid (v : View) : v.reg 0xFE = ⟨v.g.vid.setWidth 32, .nat⟩ := rfl

/-! Destinations (R65, R71). -/

/-- A lane whose result sets no flag writes the registers of `Thread.result`, so `Wrote` speaks of both. -/
theorem Thread.reg_apply_res (t : Thread) (d : Sel) (r : Reg) (n : Nat) :
    (t.apply (LaneOut.res d r.val r.tag)).reg n = (t.result d r).reg n := rfl

/-- The registers after a result, for each kind of destination. -/
theorem Thread.reg_result (t : Thread) (d : Sel) (r : Reg) :
    (d.toNat < 0xF8 → (t.result d r).reg d.toNat = r) ∧ (d.toNat ≤ 0xF8 → (t.result d r).reg 0xF8 = r) ∧
      (∀ n, n ≠ d.toNat → n ≠ 0xF8 → (t.result d r).reg n = t.reg n) ∧ (0xF8 < d.toNat → ∀ n, (t.result d r).reg n = t.reg n) := by
  have hw := wrote_apply t d r 0
  simp only [← Thread.reg_apply_res]
  exact ⟨hw.dest, hw.lat, hw.others, hw.discarded⟩

/-- A field use that fails check 4 stops its instruction there, or at check 2 before it. -/
theorem encCheck_of_check4_false (g : Group) {h : Hints} {i : Instr} {u : Use} (hu : u ∈ usesWith h i) (hc : Use.check4 u = false) :
    encCheck g h i = some (illegal 2 i) ∨ encCheck g h i = some (illegal 4 i) := by
  have hall : (usesWith h i).all Use.check4 = false := List.all_eq_false.2 ⟨u, hu, by simp [hc]⟩
  unfold encCheck
  split
  · exact .inl rfl
  · rw [hall]
    exact .inr rfl

/-! Value sources (R15, R19). -/

theorem View.vtag_of_ne_zero (v : View) (srcs : List Sel) {x : Sel} (hx : x ≠ 0xF9) : v.vtag srcs x = v.tag x := if_neg hx

@[simp] theorem View.vtag_zero (v : View) (srcs : List Sel) : v.vtag srcs 0xF9 = v.common srcs := rfl

/-- With nothing but `zero` among the sources, `zero` reads INT. -/
theorem View.common_of_all_zero (v : View) {srcs : List Sel} (h : ∀ x ∈ srcs, x = 0xF9) : v.common srcs = .int := by
  have hf : srcs.filter (· != 0xF9) = [] := List.filter_eq_nil_iff.2 fun x hx => by simp [h x hx]
  unfold View.common
  rw [hf]
  rfl

/-- Where the other sources carry one tag, `zero` takes it. -/
theorem View.common_eq (v : View) {srcs : List Sel} {T : Tag} (hne : ∃ x ∈ srcs, x ≠ 0xF9) (ht : ∀ x ∈ srcs, x ≠ 0xF9 → v.tag x = T) :
    v.common srcs = T := by
  have hall : ∀ y ∈ (srcs.filter (· != 0xF9)).map v.tag, y = T := by
    intro y hy
    obtain ⟨x, hx, rfl⟩ := List.mem_map.1 hy
    obtain ⟨hmem, hx9⟩ := List.mem_filter.1 hx
    exact ht x hmem (by simpa using hx9)
  obtain ⟨x, hx, hx9⟩ := hne
  have hmem : v.tag x ∈ (srcs.filter (· != 0xF9)).map v.tag := List.mem_map_of_mem (List.mem_filter.2 ⟨hx, by simpa using hx9⟩)
  unfold View.common
  split
  case h_1 hnil => rw [hnil] at hmem; cases hmem
  case h_2 y r hcons =>
    rw [hcons] at hall
    obtain ⟨rfl, hr⟩ := List.forall_mem_cons.1 hall
    exact if_pos (List.all_eq_true.2 fun z hz => beq_iff_eq.2 (hr z hz))

theorem common_of_carries {v : View} {srcs : List Sel} {T : Tag} (hc : Carries v srcs T) : v.common srcs = T := by
  obtain ⟨htag, hzero⟩ := hc
  by_cases hz : ∀ x ∈ srcs, x = 0xF9
  · rw [View.common_of_all_zero v hz, hzero hz]
  · exact View.common_eq v (by simpa using hz) htag

/-- Sources that all have one tag under `vtag` carry it. -/
theorem carries_of_vtag {v : View} {srcs : List Sel} {T : Tag} (hne : srcs ≠ []) (h : ∀ x ∈ srcs, v.vtag srcs x = T) :
    Carries v srcs T := by
  refine ⟨fun x hx hx9 => (View.vtag_of_ne_zero v srcs hx9).symm.trans (h x hx), fun hz => ?_⟩
  obtain ⟨x, hx⟩ := List.exists_mem_of_ne_nil srcs hne
  have hx9 := h x hx
  rw [hz x hx, View.vtag_zero, View.common_of_all_zero v hz] at hx9
  exact hx9.symm

/-- The check of R19 passes with a tag only where that tag is accepted and every value source has it. -/
theorem View.values_ok {v : View} {sl : Slots} {accept : Tag → Bool} {t : Tag} (h : v.values sl accept = .ok t) :
    t ≠ .void ∧ accept t = true ∧ ∀ x ∈ sl.list, v.vtag sl.list x = t := by
  unfold View.values at h
  dsimp only at h
  split at h
  case isTrue hpass =>
    cases h
    simpa [and_assoc] using hpass
  case isFalse => cases h

/-- What the check of R19 raises is a TAG trap. -/
theorem View.values_error_cause {v : View} {sl : Slots} {accept : Tag → Bool} {e : Trap} (h : v.values sl accept = .error e) :
    e.cause = .tag := by
  unfold View.values at h
  dsimp only at h
  split at h
  case isTrue => cases h
  case isFalse => cases h; rfl

/-- Where the check of R19 fails, no accepted tag is that of every value source. -/
theorem View.values_error_tags {v : View} {sl : Slots} {accept : Tag → Bool} {e : Trap} (h : v.values sl accept = .error e) {t : Tag}
    (ha : accept t = true) (ht : t ≠ .void) (hne : sl.list ≠ []) : ∃ x ∈ sl.list, v.vtag sl.list x ≠ t := by
  refine Classical.byContradiction fun hno => ?_
  have hall : ∀ x ∈ sl.list, v.vtag sl.list x = t := fun x hx =>
    Classical.byContradiction fun hxt => hno ⟨x, hx, hxt⟩
  have hok := values_of_carries rfl hne (carries_of_vtag hne hall) ha ht
  rw [hok] at h
  cases h

/-- Settles O14: the reads by `readSel`, the destinations by `wrote_apply` and check 4, the value sources by what
`Carries` says of `vtag` in both directions. -/
theorem selectorsReadAndWrite : Obligations.SelectorsReadAndWrite := by
  refine ⟨fun v => ?special, Thread.reg_result, ?illegal, ?zero, fun _ _ _ _ => View.values_ok, ?error⟩
  case special =>
    exact ⟨v.reg_zero, v.reg_tid, v.reg_lane, v.reg_gid, v.reg_tmid, v.reg_vid⟩
  case illegal =>
    rintro g h i d (hu | hu) hd
    · exact encCheck_of_check4_false g hu (decide_eq_false (Nat.not_lt.2 hd))
    · exact encCheck_of_check4_false g hu (decide_eq_false (Nat.not_lt.2 hd))
  case zero =>
    intro v srcs T hc _
    exact (v.vtag_zero srcs).trans (common_of_carries hc)
  case error =>
    intro v sl accept e he
    exact ⟨View.values_error_cause he, fun _ => View.values_error_tags he⟩

end Sys2Proof.Machine
end

section
/-! Lanes of value sources: the tables of classes 0x0, 0x1 and 0x4, an instruction at a time. -/

namespace Sys2Proof.Machine

/-- Settles O7: an instruction with a row in the table has its own lemma, and no other has a row. -/
theorem arithmeticGivesItsResult : Obligations.ArithmeticGivesItsResult := by
  unfold Obligations.ArithmeticGivesItsResult ValueRowsHold
  intro i row hr s g ts T h hok
  cases i with
  | add => exact add_gives hr h hok
  | sub => exact sub_gives hr h hok
  | mul => exact mul_gives hr h hok
  | fma => exact fma_gives hr h hok
  | min => exact min_gives hr h hok
  | max => exact max_gives hr h hok
  | abs => exact abs_gives hr h hok
  | neg => exact neg_gives hr h hok
  | sadd => exact sadd_gives hr h hok
  | ssub => exact ssub_gives hr h hok
  | cpsgn => exact cpsgn_gives hr h hok
  | addi => exact addi_gives hr h hok
  | muli => exact muli_gives hr h hok
  | mini => exact mini_gives hr h hok
  | maxi => exact maxi_gives hr h hok
  | _ => cases hr

/-- Settles O8, by the lemma of each instruction of the table. -/
theorem integerGivesItsResult : Obligations.IntegerGivesItsResult := by
  unfold Obligations.IntegerGivesItsResult ValueRowsHold
  intro i row hr s g ts T h hok
  cases i with
  | mulhi => exact mulhi_gives hr h hok
  | mulhn => exact mulhn_gives hr h hok
  | div => exact div_gives hr h hok
  | rem => exact rem_gives hr h hok
  | divn => exact divn_gives hr h hok
  | remn => exact remn_gives hr h hok
  | shl => exact shl_gives hr h hok
  | shr => exact shr_gives hr h hok
  | sra => exact sra_gives hr h hok
  | rol => exact rol_gives hr h hok
  | shli => exact shli_gives hr h hok
  | shri => exact shri_gives hr h hok
  | srai => exact srai_gives hr h hok
  | clz => exact clz_gives hr h hok
  | popc => exact popc_gives hr h hok
  | brev => exact brev_gives hr h hok
  | _ => cases hr

/-- Settles O10, by the lemma of each relation of the table. -/
theorem compareGivesPredicate : Obligations.CompareGivesPredicate := by
  unfold Obligations.CompareGivesPredicate ValueRowsHold
  intro i row hr s g ts T h hok
  cases i with
  | ceq => exact ceq_gives hr h hok
  | cne => exact cne_gives hr h hok
  | clt => exact clt_gives hr h hok
  | cle => exact cle_gives hr h hok
  | cuno => exact cuno_gives hr h hok
  | ceqi => exact ceqi_gives hr h hok
  | cnei => exact cnei_gives hr h hok
  | clti => exact clti_gives hr h hok
  | clei => exact clei_gives hr h hok
  | cgti => exact cgti_gives hr h hok
  | cgei => exact cgei_gives hr h hok
  | _ => cases hr

end Sys2Proof.Machine
end

section
/-! Control transfers: the lanes of class 0x7 that only move the PC, and what their outcomes make of a thread (R128 to
R130). -/

namespace Sys2Proof.Machine

/-- The control instruction runs, and every participant goes where its row says; nothing else changes. -/
def Jumps (i : Instr) (s : State) (g : Group) (ts : List Thread) (row : ControlRow) : Prop :=
  ∃ s', exec i s = .next s' ∧ OnlyThreads g ts s s' ∧
    ∀ t ∈ ts, g.thread? t.tid = some t → ∃ t', s'.thread? g.key t.tid = some t' ∧ Jumped row g t t'

/-- An instruction all of whose lanes go where the row says. -/
theorem jumps_of_lane {i : Instr} {s : State} {g : Group} {ts : List Thread} {op : List View → View → Except Trap LaneOut}
    {row : ControlRow} (he : exec i s = lanewise i s op) (h : Chosen i s g ts)
    (hok : ∀ t ∈ ts, ∃ o, op (viewsOf g ts) ⟨g, t⟩ = .ok o ∧ Jumped row g t (t.apply o)) : Jumps i s g ts row := by
  obtain ⟨s', hrun, honly, hthreads⟩ := lanewise_of_ok h (op := op) (fun t ht => (hok t ht).imp fun _ ho => ho.1)
  refine ⟨s', he.trans hrun, honly, fun t ht htt => ?_⟩
  obtain ⟨o, ho, hjump⟩ := hok t ht
  exact ⟨t.apply o, hthreads t ht htt o ho, hjump⟩

@[simp] theorem Thread.raise_zero (t : Thread) : t.raise 0#6 = t := if_pos rfl

/-! The threads after a lane, for a row without and with a link. -/

/-- A lane that sets at most the PC; where it sets none, the thread goes on to the next word. -/
theorem jumped_apply_pc {row : ControlRow} {g : Group} {t : Thread} {pc : Option Word} (hlink : row.link = none)
    (hdest : pc.getD (t.pc + 4) = row.dest ⟨g, t⟩) : Jumped row g t (t.apply { pc := pc }) := by
  refine ⟨t, by rw [hlink], ?_⟩
  rw [← hdest]
  unfold Thread.apply
  cases pc with
  | none => simp [Thread.advance]
  | some p => simp [Thread.goto]

/-- A lane that writes the return address and sets the PC. -/
theorem jumped_apply_link {row : ControlRow} {g : Group} {t : Thread} {d : Sel} (hlink : row.link = some d) :
    Jumped row g t (t.apply { d := some (d, linkReg ⟨g, t⟩), pc := some (row.dest ⟨g, t⟩) }) := by
  refine ⟨t.apply (LaneOut.res d (t.pc + 4) .nat), ?_, ?_⟩
  · rw [hlink]
    exact wrote_apply t d ⟨t.pc + 4, .nat⟩ 0
  · simp [Thread.apply, LaneOut.res, Thread.goto, Thread.advance, linkReg]

/-! The lanes on the operands their rows accept. -/

theorem laneJump_of_targetOk {v : View} {a : Sel} (d : Option (Sel × Reg)) (h : targetOk a v = true) :
    laneJump v a d = .ok { d := d, pc := some (v.val a) } := by
  unfold targetOk at h
  simp only [Bool.and_eq_true, decide_eq_true_eq] at h
  obtain ⟨htag, hmult⟩ := h
  simp [laneJump, htag, hmult]

theorem laneBranch_of_notVoid {v : View} {a : Sel} (off : BitVec 16) (taken : Word → Bool) (h : notVoid (v.tag a) = true) :
    laneBranch v a off taken = .ok { pc := if taken (v.val a) then some (v.target off) else none } := if_pos h

/-- Settles O15: each lane succeeds on what its row accepts, and its outcome is the row's jump. -/
theorem controlTransfersJump : Obligations.ControlTransfersJump := by
  unfold Obligations.ControlTransfersJump
  intro i row hr s g ts h hok
  change Jumps i s g ts row
  cases i with
  | br off =>
    cases hr
    exact jumps_of_lane (exec_br s) h fun t _ => ⟨_, rfl, jumped_apply_pc rfl rfl⟩
  | bnz a off =>
    cases hr
    refine jumps_of_lane (exec_bnz s) h fun t ht => ⟨_, laneBranch_of_notVoid off _ (hok t ht), jumped_apply_pc rfl ?_⟩
    simp only [bne_iff_ne]
    exact apply_ite (Option.getD · (t.pc + 4)) _ _ _
  | bz a off =>
    cases hr
    refine jumps_of_lane (exec_bz s) h fun t ht => ⟨_, laneBranch_of_notVoid off _ (hok t ht), jumped_apply_pc rfl ?_⟩
    simp only [beq_iff_eq]
    exact apply_ite (Option.getD · (t.pc + 4)) _ _ _
  | brx a =>
    cases hr
    exact jumps_of_lane (exec_brx s) h fun t ht => ⟨_, laneJump_of_targetOk none (hok t ht), jumped_apply_pc rfl rfl⟩
  | call a off =>
    cases hr
    exact jumps_of_lane (exec_call s) h fun t _ => ⟨_, rfl, jumped_apply_link rfl⟩
  | callx d a =>
    cases hr
    exact jumps_of_lane (exec_callx s) h fun t ht => ⟨_, laneJump_of_targetOk _ (hok t ht), jumped_apply_link rfl⟩
  | ret a =>
    cases hr
    exact jumps_of_lane (exec_ret s) h fun t ht => ⟨_, laneJump_of_targetOk none (hok t ht), jumped_apply_pc rfl rfl⟩
  | nop =>
    cases hr
    exact jumps_of_lane (exec_nop s) h fun t _ => ⟨_, rfl, jumped_apply_pc rfl rfl⟩
  | _ => cases hr

end Sys2Proof.Machine
end
